-- ==== Sys2Proof/Word.lean ====
section
/-! DEFINITION. The word and byte types of the device (R3: every register is 64 bits wide). -/

namespace Sys2Proof

/-- A register, a native instruction word, a packet header word: 64 bits (R3). -/
abbrev Word := BitVec 64

/-- The smallest addressable unit of every memory. -/
abbrev Byte := BitVec 8

/-- A single-precision bit pattern, an INT32, a grain word. -/
abbrev W32 := BitVec 32

end Sys2Proof
end

