-- ==== Sys2Proof/Syntax.lean ====
section
/-! DEFINITION. The commands of the block: one constructor of `Instr` per row of spec/opcode_table.json, in the table's order,
with the operands the row's rules name. An operand the spec attributes to the outside world (a measured slack, a training
result, a message) is an operand of the command that brings it. -/

namespace Sys2Proof

/-- The stream that issues a common-group instruction: stream `s` (0 C, 1 D, 2 M, 3 V) of logical tile `t`, or cue stream `k`. -/
inductive StreamId where
  | tile (t s : Nat)
  | cue (k : Nat)
deriving DecidableEq, Repr

/-- The fields every virtual word 0 carries beside its opcode: slate tag and end-of-frame marker (R79, R71). -/
structure Hdr where
  tag : Nat
  eof : Bool
deriving DecidableEq, Repr

/-- DCPY (R86): LEN × 256 bytes from granule SRC to granule DST of the own scratchpad. -/
structure DcpyArgs where
  tile : Nat
  h : Hdr
  gm : Nat
  len : Nat
  src : Nat
  dst : Nat
  wm : Nat
  step : Bool
  ctr : Nat
deriving DecidableEq, Repr

/-- DMOV (R86): LEN × 64 bytes between scratchpad byte LOCAL × 64 and global address `g`. -/
structure DmovArgs where
  tile : Nat
  h : Hdr
  gm : Nat
  len : Nat
  loc : Nat
  dir : Bool
  ctr : Nat
  step : Bool
  wm : Nat
  sched : Bool
  g : Nat
deriving DecidableEq, Repr

/-- KV_COMMIT (R270). -/
structure KvArgs where
  tile : Nat
  h : Hdr
  gm : Nat
  desc : Nat
  path : Nat
  ncm1 : Nat
  ntf : Bool
  nwm : Nat
  nsched : Bool
  g : Nat
deriving DecidableEq, Repr

/-- MMUL and MMULA (R194, R195). -/
structure MArgs where
  tile : Nat
  h : Hdr
  fmt : Nat
  gm : Nat
  k8 : Nat
  afmt : Nat
  ncol : Nat
  cb : Nat
  adp : Bool
  aslot : Nat
  bchk : Nat
  tsel : Nat
  ctr : Nat
  step : Bool
  woff : Nat
  ag : Nat
  og : Nat
  boff : Nat
deriving DecidableEq, Repr

/-- MOUT (R194). -/
structure MoutArgs where
  tile : Nat
  h : Hdr
  fmt : Nat
  rnd : Nat
  olay : Nat
  wm : Nat
  ostr : Nat
deriving DecidableEq, Repr

/-- The operand layout of the long-form V instructions (R206). -/
structure VArgs where
  tile : Nat
  h : Hdr
  fmt : Nat
  gm : Nat
  dfmt : Nat
  rnd : Nat
  wm : Nat
  sat : Bool
  bb : Bool
  ta : Bool
  ctr : Nat
  step : Bool
  tid : Nat
  xf : Nat
  srca : Nat
  srcb : Nat
  srcc : Nat
  dst : Nat
deriving DecidableEq, Repr

/-- A command as fetched from a submission ring (R366): its queue, the fields of its first slot, its inline payload and
its arrival (R371). -/
structure Cmd where
  queue : Nat
  sqHead : Nat
  opcode : Nat
  len : Nat
  pkey : Nat
  fence : Bool
  crec : Bool
  tag : Word
  w2 : Word
  w3 : Word
  w4 : Word
  w5 : Word
  w6 : Word
  w7 : Word
  payload : List Byte
  arrival : Nat
deriving DecidableEq, Repr

/-- A fabric packet (R311): header fields and payload bytes (64 per flit). `poison` has bit i for flit i. The CRC
field follows from the others where a packet is sent and is an operand where one arrives. -/
structure Packet where
  ptype : Nat
  sched : Bool
  demoted : Bool
  ecnCe : Bool
  ecnEcho : Bool
  poison : Nat
  pkey : Nat
  ttag : Nat
  seq : Nat
  dst : Nat
  srcMod : Nat
  srcTile : Nat
  srcStream : Nat
  tlen : Nat
  retx : Bool
  wm : Nat
  gm : Nat
  hops : Nat
  lseq : Nat
  stampCyc : Nat
  stampFn : Nat
  payload : List Byte
deriving DecidableEq, Repr

/-- A clapper token (R382). -/
structure Token where
  kind : Nat
  sub : Nat
  origin : Nat
  seq : Nat
  arg : Nat
deriving DecidableEq, Repr

/-- A control symbol (Table: Control symbol): `mgmt` holds the LINK_MGMT bytes, `crc` the CRC field. -/
structure CtlSym where
  ack : Nat
  lossFirst : Nat
  lossCount : Nat
  credit : Nat
  wait : Nat
  token : Token
  mgmt : List Byte
  crc : Nat
deriving DecidableEq, Repr

/-- What a port learns when its training completes (R302, R304, R318, R320). `lat16` is the one-way latency in 1/16 cycles at
1.8 GHz; `byp` the modules bypassed on the way; `digest` the neighbour's manifest digest words. -/
structure TrainInfo where
  lat16 : Nat
  digest : List Word
  nbPos : Nat
  nbPort : Nat
  byp : Nat
  spareLane : Nat
deriving DecidableEq, Repr

/-- What a port measures of a lane that it replaces (R303): the corrected symbols among `symbols`, and the latency after the swap in
1/16 cycles at 1.8 GHz. -/
structure LaneMeasure where
  corrected : Nat
  symbols : Nat
  lat16 : Nat
deriving DecidableEq, Repr

/-- The header and table of a load as a module gets them, with the words of the load's command (R342). -/
structure RollTableMsg where
  cmd : Cmd
  bytes : List Byte
deriving DecidableEq, Repr

/-- A page of a function's BAR4 (R359, R362): function 0 is the PF, 1-64 a VF; the page is the function's own queue number. -/
structure ResultPage where
  func : Nat
  queue : Nat
deriving DecidableEq, Repr

/-- A host access of a register BAR (R358-R360): function 0 is the PF, 1-64 a VF; byte offset in the BAR; width in bytes. -/
structure HostAcc where
  func : Nat
  bar : Nat
  off : Nat
  width : Nat
deriving DecidableEq, Repr

/-- A message of the management bus (R463, R481): one whose length or a field is out of range, one that is served, a read of a numeric
sensor (0 to 71 the thermal sensors, 72 to 79 the rails, 80 VIN, 81 the input power), the assignment of a dynamic address, or a read of
the provisioned ID. -/
inductive PldmMsg where
  | bad
  | served
  | sensor (n : Nat)
  | assign (addr : Nat)
  | identify
deriving DecidableEq, Repr

/-- The commands. -/
inductive Instr where
  -- frames and ticks
  | frameTick
  | slackWindowEnd
  | rollSwitchApply
  | servingRollChange (t : Nat)
  | clockStepApply (locked : Bool)
  | starved
  | frameEndRetire (t : Nat)
  | realignCall (spread : Nat) (raised : Bool)
  -- maintenance
  | scrubUnit (t : Nat)
  | scrubLate (t : Nat)
  | refetchComplete (t line : Nat) (bad : Bool)
  | grainFillUnit (t : Nat)
  | grainFillComplete (t : Nat)
  | codebookUnit (t : Nat)
  | testUnit (t : Nat) (fails : List Nat) (ce : Bool)
  | autoTestUnit (t : Nat) (fail : Bool)
  | retirementStart
  | retireWake
  | retireWeights
  | retireCopyUnit
  | retireStateUnit
  | oldSitePowerDown
  | retirementAbandon (siteFault : Bool)
  -- common group, C and D streams
  | idle (st : StreamId) (h : Hdr) (cyc : Nat)
  | cset (st : StreamId) (h : Hdr) (ctr val : Nat)
  | loop (st : StreamId) (h : Hdr) (ctr target limit : Nat)
  | jump (st : StreamId) (h : Hdr) (target : Nat)
  | cmpset (st : StreamId) (h : Hdr) (cmp src rel val : Nat)
  | br (st : StreamId) (h : Hdr) (cmp : Nat) (sense : Bool) (target : Nat)
  | waitc (st : StreamId) (h : Hdr) (cmp : Nat) (sense : Bool)
  | frameEnd (t : Nat) (h : Hdr)
  | cwaitg (t : Nat) (h : Hdr) (gm gran : Nat)
  | stallRelease (st : StreamId)
  | dcpy (a : DcpyArgs)
  | dmov (a : DmovArgs)
  | dgset (t : Nat) (h : Hdr) (first count : Nat) (val : Bool)
  | dfence (t : Nat) (h : Hdr)
  | kvCommit (a : KvArgs)
  | kvcDescApply (t d : Nat)
  -- cue streams
  | cueNext (k : Nat) (h : Hdr)
  | cueWr (k : Nat) (h : Hdr) (aw vw : Nat)
  | cueInject (k : Nat) (h : Hdr) (aw wm : Nat)
  | cueAdmit (k : Nat) (h : Hdr)
  | cueReply (k : Nat) (h : Hdr) (status : Nat)
  | cueRun (k : Nat) (h : Hdr)
  | cueHalt (k : Nat) (h : Hdr)
  -- matrix array
  | mmul (a : MArgs)
  | mmula (a : MArgs)
  | mout (a : MoutArgs)
  | msync (t : Nat) (h : Hdr)
  | passDrain (t : Nat)
  | passReplay (t : Nat)
  -- vector unit
  | vsetvl (t : Nat) (h : Hdr) (gm : Nat) (mode : Bool) (vlm1 line : Nat)
  | vsync (t : Nat) (h : Hdr)
  | vadd (a : VArgs)
  | vsub (a : VArgs)
  | vmul (a : VArgs)
  | vfma (a : VArgs)
  | vmax (a : VArgs)
  | vmin (a : VArgs)
  | vcmp (a : VArgs)
  | vsel (a : VArgs)
  | vand (a : VArgs)
  | vor (a : VArgs)
  | vxor (a : VArgs)
  | vshl (a : VArgs)
  | vshr (a : VArgs)
  | vcvt (a : VArgs)
  | vpack (a : VArgs)
  | vunpack (a : VArgs)
  | vperm (a : VArgs)
  | vshuf (a : VArgs)
  | vpatch (a : VArgs) (w cm1 pm1 : Nat)
  | vred (a : VArgs)
  | vsfu (a : VArgs)
  | smx1 (a : VArgs)
  | smx2 (a : VArgs)
  | rowstat (a : VArgs)
  | sample (a : VArgs)
  | tmask (a : VArgs)
  | vgrain (a : VArgs)
  -- mesh and fabric
  | chipFreeze
  | flitHop (id : Nat)
  | heldWriteLand (t : Nat)
  | readReqServe (t id : Nat)
  | fabricPacketArrive (p : Nat) (pkt : Packet) (crc ue : Nat)
  | packetRelease (p : Nat)
  | completion (p : Nat) (pkt : Packet)
  | controlSymbolReceive (p : Nat) (c : CtlSym)
  | ecnRatePeriod
  | cmapEpoch
  | portTrainingDone (p : Nat) (info : TrainInfo)
  | trainingTimeout (p : Nat)
  | laneSwap (p lane : Nat) (m : LaneMeasure)
  | goToken (p : Nat) (tok : Token) (wait : Nat)
  | readyToken (tok : Token)
  | announceToken (tok : Token)
  | freezeToken (tok : Token)
  | clapEvent
  | clapTimeout
  | captureHold
  | captureDrained
  -- host interface
  | commandFetch (q : Nat)
  | statusReply (q : Nat)
  | jobLoadReel (c : Cmd)
  | jobStart (c : Cmd)
  | jobStop (c : Cmd)
  | rollLoad (c : Cmd)
  | rollArm (c : Cmd)
  | rollSwitch (c : Cmd)
  | rollFree (c : Cmd)
  | adapterLoad (c : Cmd)
  | rollTableReceive (m : RollTableMsg)
  | shardReceive (idx : Nat) (bytes : List Byte)
  | loadTimeout
  | oldRollFree
  | reqSubmit (c : Cmd)
  | reqCancel (c : Cmd)
  | deadlineExpiry (slot : Nat)
  | reqSlotFree (slot : Nat)
  | resultDrain (slot : Nat)
  | resultRingWrite (q : Nat)
  | resultWindowRead (page : ResultPage) (off len : Nat)
  | pwrVote (c : Cmd)
  | pwrUnvote (c : Cmd)
  | testRun (c : Cmd)
  | calWrite (c : Cmd)
  | dbgBreakSet (c : Cmd)
  | telRead (c : Cmd)
  | cmapRead (c : Cmd)
  | ctxSave (c : Cmd)
  | ctxRestore (c : Cmd)
  | clkChange (c : Cmd)
  | replayRecord (c : Cmd)
  | replayRun (c : Cmd)
  | doorbellSqTail (func q idx : Nat)
  | doorbellCqHead (func q idx : Nat)
  | doorbellResHead (func q idx : Nat)
  | queueEnable (q : Nat)
  | queueDisable (q : Nat)
  | registerWrite (a : HostAcc) (v : Option Word)
  | spkTblDataAccess (w : Option Word)
  | tirClassDataAccess (w : Option Word)
  | wpaCbDataAccess (t : Nat) (w : Option Word)
  | sfuTblDataAccess (t : Nat) (w : Option Word)
  | fabCmapDataRead
  | grnTblSelWrite (t : Nat) (v : Word)
  | spkSelWrite (v : Word)
  | wpaCbSelWrite (t : Nat) (v : Word)
  | sfuTblSelWrite (t : Nat) (v : Word)
  | grainFill (t : Nat)
  | arm
  | hostNominate (row site : Nat)
  | resume (t : Nat)
  | retrain (p : Nat)
  | openReq
  | bypassClose
  | bypassOpenGrant (granted : Bool)
  | bypassGrantRetry
  -- power, clocks, ageing
  | powerDrop (d : Nat)
  | dropRecheck (d : Nat)
  | idleEntry (d : Nat)
  | wake (src port : Nat)
  | wakeHoldExpiry
  | powerSample (watts volts10mv : Nat)
  | thermalSample (sensor : Nat) (quarters : Int)
  | canaryMeasure (r : Nat) (slack : Int) (passWarn passCrit : Nat)
  | domainStepGather (steps : List (Nat × Nat × Nat))
  | ageReplan (hours eol left : Nat) (raises : List (Nat × Nat))
  | refClockLost
  | refClockRestored
  -- module
  | powerOn (spiA spiB vaultA : Bool)
  | powerFail
  | resetAssert
  | resetRelease (failStep : Nat)
  | railFault (v : Nat)
  | thermalTrip
  | fwUpdate (image : List Byte) (digest : List Byte)
  | fwActivate
  | pldmMessage (m : PldmMsg)
  | heartbeat
  | managerTakeover
  | takeoverMessage (newMgr : Nat)
  | triggerEdge (n : Nat)
  | jtagInstruction (code : Nat)
  | portLinkLost (p : Nat)
  | vaultAccessComplete (t region : Nat)
deriving DecidableEq, Repr

end Sys2Proof
end

