-- ==== Sys2Proof/Decode.lean ====
section
/-! DEFINITION. The table of operations gives no row any bits (its "fields" are empty), so no word spells a command. -/

namespace Sys2Proof

/-- The command that a word spells by the table's bits: the table gives none. -/
def decodeTableWord (_nbits _w : Nat) : Option Instr := none

end Sys2Proof
end

