-- ==== Sys2Proof/Machine/Hash.lean ====
section
/-! DEFINITION. The published digests and keyed functions the spec names: SHA-256 (R93, R335, R391, R395), CRC-32 of IEEE 802.3
(R307, R311, R442) and the ChaCha20 block function of RFC 8439 (R242). Words are natural numbers below 2^32. -/

namespace Sys2Proof.Machine

/-- Addition modulo 2^32. -/
def add32 (a b : Nat) : Nat := (a + b) % 0x100000000

/-- Rotate a 32-bit word right by `n`, `n < 32`. -/
def rotr32 (x n : Nat) : Nat := ((x >>> n) ||| (x <<< (32 - n))) % 0x100000000

/-- Rotate a 32-bit word left by `n`, `n ≤ 32`. -/
def rotl32 (x n : Nat) : Nat := ((x <<< n) ||| (x >>> (32 - n))) % 0x100000000

/-- Bitwise complement of a 32-bit word. -/
def not32 (x : Nat) : Nat := 0xFFFFFFFF - x % 0x100000000

/-- Little-endian value of a byte list. -/
def leNat : List Byte → Nat
  | [] => 0
  | b :: bs => b.toNat + 256 * leNat bs

/-- The `n` low bytes of a value, least significant first. -/
def leBytes : Nat → Nat → List Byte
  | 0, _ => []
  | n + 1, v => BitVec.ofNat 8 v :: leBytes n (v / 256)

/-- Big-endian value of a byte list. -/
def beNat (bs : List Byte) : Nat := bs.foldl (fun a b => a * 256 + b.toNat) 0

/-- The `n` low bytes of a value, most significant first. -/
def beBytes (n v : Nat) : List Byte := (leBytes n v).reverse

/-- Cut a list into pieces of `n` elements, at most `fuel` of them. -/
def chunks {α : Type} (n : Nat) : Nat → List α → List (List α)
  | 0, _ => []
  | _, [] => []
  | fuel + 1, xs => xs.take n :: chunks n fuel (xs.drop n)

/-- Cut a list into pieces of `n` elements, the last perhaps shorter. -/
def pieces {α : Type} (n : Nat) (xs : List α) : List (List α) := chunks n (xs.length / n + 1) xs

/-- Whether no number of `2 .. k + 1` divides `n`. -/
def undivided (n : Nat) : Nat → Bool
  | 0 => true
  | k + 1 => n % (k + 2) != 0 && undivided n k

/-- The primes below 312: the 64 numbers FIPS 180-4 takes its constants from. -/
def primes64 : List Nat := (List.range 312).filter fun n => 2 ≤ n && undivided n (min (n - 2) 17)

/-- The largest number below `lo + 2^bits` whose power `e` does not pass `x`, given that the power of `lo` does not: one bit a step. -/
def rootFrom (e x : Nat) : Nat → Nat → Nat
  | 0, lo => lo
  | bits + 1, lo => rootFrom e x bits (if (lo + 2 ^ bits) ^ e ≤ x then lo + 2 ^ bits else lo)

/-- The first 32 fractional bits of the root of degree `e` of `p`: the rule FIPS 180-4 gives its constants by. -/
def rootBits (e p : Nat) : Nat := rootFrom e (p * 2 ^ (32 * e)) 37 0 % 0x100000000

/-- The exclusive or of three rotations: FIPS 180-4's functions of one word. -/
def spin (x : Nat) (r : Nat × Nat × Nat) : Nat := rotr32 x r.1 ^^^ rotr32 x r.2.1 ^^^ rotr32 x r.2.2

/-- As `spin`, the third a shift: the schedule's functions of one word. -/
def spinShift (x : Nat) (r : Nat × Nat × Nat) : Nat := rotr32 x r.1 ^^^ rotr32 x r.2.1 ^^^ (x >>> r.2.2)

/-- The sum of a list modulo 2^32. -/
def sum32 (xs : List Nat) : Nat := xs.foldl add32 0

/-- The next round on the eight working words, first to last, with its constant and schedule word summed as `kw`: every word
moves one place on, the first is new and the fifth takes a sum. A list of another length stays. -/
def shaRound (kw : Nat) : List Nat → List Nat
  | [x0, x1, x2, x3, x4, x5, x6, x7] =>
    let t := sum32 [x7, spin x4 (6, 11, 25), (x4 &&& (x5 ^^^ x6)) ^^^ x6, kw]
    let m := (x0 &&& (x1 ||| x2)) ||| (x1 &&& x2)
    sum32 [t, spin x0 (2, 13, 22), m] :: x0 :: x1 :: x2 :: add32 x3 t :: [x4, x5, x6]
  | xs => xs

/-- The rounds of one block: the window `w` holds the sixteen schedule words from this round on, and each round takes the first
of them and appends the word sixteen places later. -/
def shaRounds : List Nat → List Nat → List Nat → List Nat
  | [], _, xs => xs
  | k :: ks, w, xs =>
    let fresh := sum32 [w.getD 0 0, spinShift (w.getD 1 0) (7, 18, 3), w.getD 9 0, spinShift (w.getD 14 0) (17, 19, 10)]
    shaRounds ks (w.drop 1 ++ [fresh]) (shaRound (add32 k (w.getD 0 0)) xs)

/-- Absorb one 64-byte block into the eight chaining words. -/
def shaBlock (xs : List Nat) (blk : List Byte) : List Nat :=
  List.zipWith add32 xs (shaRounds (primes64.map (rootBits 3)) ((chunks 4 16 blk).map beNat) xs)

/-- The message padded to whole blocks. -/
def shaPad (m : List Byte) : List Byte :=
  let n := m.length
  m ++ [0x80] ++ List.replicate ((55 + 64 - n % 64) % 64) 0 ++ beBytes 8 (8 * n)

/-- SHA-256 of a byte list, as 32 bytes (FIPS 180-4). -/
def sha256 (m : List Byte) : List Byte :=
  let p := shaPad m
  ((chunks 64 (p.length / 64) p).foldl shaBlock ((primes64.take 8).map (rootBits 2))).flatMap (beBytes 4)

/-- One bit step of the reflected CRC-32. -/
def crcBit (c : Nat) : Nat := if c % 2 = 1 then 0xEDB88320 ^^^ (c / 2) else c / 2

/-- Absorb one byte. -/
def crcByte (c : Nat) (b : Byte) : Nat :=
  let x := c ^^^ b.toNat
  crcBit (crcBit (crcBit (crcBit (crcBit (crcBit (crcBit (crcBit x)))))))

/-- CRC-32 of IEEE 802.3. -/
def crc32 (m : List Byte) : Nat := not32 (m.foldl crcByte 0xFFFFFFFF)

/-- The ChaCha20 quarter round on words `a b c d` of a 16-word state. -/
def quarter (st : List Nat) (a b c d : Nat) : List Nat :=
  let va := st.getD a 0; let vb := st.getD b 0; let vc := st.getD c 0; let vd := st.getD d 0
  let va := add32 va vb; let vd := rotl32 (vd ^^^ va) 16
  let vc := add32 vc vd; let vb := rotl32 (vb ^^^ vc) 12
  let va := add32 va vb; let vd := rotl32 (vd ^^^ va) 8
  let vc := add32 vc vd; let vb := rotl32 (vb ^^^ vc) 7
  (((st.set a va).set b vb).set c vc).set d vd

/-- A column round followed by a diagonal round. -/
def doubleRound (st : List Nat) : List Nat :=
  let st := quarter (quarter (quarter (quarter st 0 4 8 12) 1 5 9 13) 2 6 10 14) 3 7 11 15
  quarter (quarter (quarter (quarter st 0 5 10 15) 1 6 11 12) 2 7 8 13) 3 4 9 14

/-- `n` double rounds. -/
def doubleRounds : Nat → List Nat → List Nat
  | 0, st => st
  | n + 1, st => doubleRounds n (doubleRound st)

/-- The ChaCha20 block function: 8 key words, 3 nonce words, block counter; 16 output words. -/
def chachaBlock (key nonce : List Nat) (counter : Nat) : List Nat :=
  let st := [0x61707865, 0x3320646e, 0x79622d32, 0x6b206574] ++ key ++ [counter % 0x100000000] ++ nonce
  List.zipWith add32 st (doubleRounds 10 st)

end Sys2Proof.Machine
end

