-- ==== Sys2Proof/Config.lean ====
section
/-! DEFINITION. What an implementation fixes: the values of fields that the spec takes from fuses, the manifest or the vault
(log entry 2), and the free values the spec leaves open (opaque, log entry 3). -/

namespace Sys2Proof.Config

/-- Unused sites of every row as fused: sites 9 and 27, the map of rows 5 to 7 in the example of spec/10 (U2, U3 = 0x3F, R288). -/
def rowMapResetVal : Nat := 9 + 27 * 64 + 0x3F * 4096 + 0x3F * 262144

/-- Unused sites of every row of an LZM-3207 as fused: four sites, ascending and no two adjacent (R288, R289; log entry 2). -/
def rowMap3207Val : Nat := 9 + 15 * 64 + 21 * 4096 + 27 * 262144

/-- The fused boot step: 48, the nominal 1.5 GHz (R417, Table: Key figures). -/
def bootStepVal : Nat := 48

/-- STEPPING of the key block (R391). -/
def steppingVal : Nat := 0

/-- ARITH of the key block (R391). -/
def arithVal : Nat := 0

/-- MOD_ID.SERIAL. -/
def serialVal : Nat := 0

/-- An opaque source of values that the spec does not state, one for each use (applied to the state's free-value counter). -/
opaque freeValue : Nat → BitVec 64

/-- The stepping-specific bits [53:6] of the native word that the translator gives a virtual word (R99). -/
opaque nativeBits : BitVec 64 → BitVec 48

/-- The native word that the translator gives an extension word (R97, R99). -/
opaque nativeExt : BitVec 64 → BitVec 64

/-- What the RS(70,64) decoder makes of an error in five or more symbols, which the code does not promise to detect (R116):
`none` for uncorrectable, else the line it delivers. Applied to the raw line and the error. -/
opaque rsBeyond : List (BitVec 8) → List (BitVec 8) → Option (List (BitVec 8))

/-- What the arrival transform makes of a VQ group with a NaN or infinite source value, for which R147 states no result: value `i`
is the scale (0) or the index of run `i − 1`. Applied to the group's source codes. -/
opaque vqOpen : List Nat → Nat → BitVec 16

/-- Capacity in flits of a port's unscheduled egress queue, which the congestion histograms measure against (R326). -/
opaque egressCapacity : Nat

/-- A bin of another module's congestion map: position, epoch, histogram word (R326). -/
opaque cmapOther : Nat → Nat → Nat → BitVec 32

/-- The sections (type, position, unit, content) that the other modules of a domain contribute to a context image (R407). -/
opaque ctxOther : BitVec 64 → List (Nat × Nat × Nat × List (BitVec 8))

end Sys2Proof.Config

namespace Sys2Proof.Machine

/-- Reset value of the row-map fields U0–U3 (log entry 2). -/
def rowMapReset : Nat := Config.rowMapResetVal

/-- Its complement half. -/
def rowMapResetN : Nat := 0xFFFFFFFF - Config.rowMapResetVal

/-- Reset value of CLK_STEP.STEP and CLK_CUR.STEP (log entry 2). -/
def bootStepReset : Nat := Config.bootStepVal

/-- Its complement half. -/
def bootStepResetN : Nat := 0xFFFFFFFF - Config.bootStepVal

/-- Reset value of AUD_KEY_SRC.STEPPING (log entry 2). -/
def steppingReset : Nat := Config.steppingVal

/-- Reset value of AUD_KEY_SRC.ARITH (log entry 2). -/
def arithReset : Nat := Config.arithVal

/-- Reset value of MOD_ID.SERIAL (log entry 2). -/
def serialReset : Nat := Config.serialVal

/-- Reset value of OWN_STEP, DOMAIN_STEP and EOL_STEP: the highest step, 72 (log entry 2). -/
def ownStepReset : Nat := 72

/-- Reset value of VNOM and VEFF, in mV: the lower bound of VCORE in Table: Rails (log entry 2). -/
def vnomReset : Nat := 650

/-- Reset value of AGE_MAX (log entry 2). -/
def ageMaxReset : Nat := 0

/-- The 32-byte key block (R391). -/
def keyBlock (stepping grade translator compat arith : Nat) : List Byte :=
  leBytes 2 stepping ++ leBytes 2 grade ++ leBytes 4 translator ++ leBytes 1 compat ++ [0] ++ leBytes 2 arith ++
    List.replicate 20 0

/-- The bit-identity key of a key block: bytes 0–7 of its SHA-256, little-endian (R391). -/
def bitKeyOf (block : List Byte) : Nat := leNat ((sha256 block).take 8)

/-- Reset value of AUD_BITKEY: computed with TRANSLATOR 0 and COMPAT 0 (R391, R392). -/
def bitKeyReset : Nat := bitKeyOf (keyBlock Config.steppingVal 0x3208 0 0 Config.arithVal)

/-- Reset value of AUD_BITKEY on an LZM-3207 (R1, R391, R392). -/
def bitKeyReset3207 : Nat := bitKeyOf (keyBlock Config.steppingVal 0x3207 0 0 Config.arithVal)

end Sys2Proof.Machine
end

