-- ==== Sys2Proof/Machine/Regs.lean ====
section
/-! DEFINITION. The register maps of spec/ (R66, R68, R105, R136, R137, R163, R199, R240, R241, R259, R279, R299, R328, R357,
R381, R411, R445, R446, R447, R470, R490): every register's place (`R.…`), every field's bits (`F.…`) and the table of access
codes and reset values (`chipRegs`, `tileRegs`) that register reads, writes and `resetWord` go by. Field resets given as
"Fused", "Manifest", "vault record" or "computed" are the named values of Config (log entry 2). -/

namespace Sys2Proof.Machine

/-- Access codes (Table: Access codes). -/
inductive Acc where
  | rw | ro | wo | w1c | tw
deriving DecidableEq, Repr

/-- A field's bit range [hi:lo]. -/
structure Fld where
  hi : Nat
  lo : Nat
deriving DecidableEq, Repr

/-- One row of a field table: name, bits, access code, reset value. -/
structure FDef where
  name : String
  hi : Nat
  lo : Nat
  acc : Acc
  rst : Nat
deriving DecidableEq, Repr

/-- One row of a register map: name, address, array dimensions (count, stride), fields. -/
structure RegDef where
  name : String
  base : Nat
  dims : List (Nat × Nat)
  fields : List FDef
deriving DecidableEq, Repr

/-- The register store's key of the register at offset `off` of tile `t`'s registers: the chip registers take keys below 2^20. -/
def tileKey (t off : Nat) : Nat := 0x100000 + t * 0x4000 + off

/-- `FRM_CTL` (02_frame_contract.md, R66). -/
def R.FRM_CTL : Nat := 0x0
/-- `FRM_LEN` (02_frame_contract.md, R66). -/
def R.FRM_LEN : Nat := 0x8
/-- `FRM_COUNT` (02_frame_contract.md, R66). -/
def R.FRM_COUNT : Nat := 0x10
/-- `FRM_STRETCH_MAX` (02_frame_contract.md, R66). -/
def R.FRM_STRETCH_MAX : Nat := 0x18
/-- `FRM_STRETCH_CNT` (02_frame_contract.md, R66). -/
def R.FRM_STRETCH_CNT : Nat := 0x20
/-- `FRM_SLACK_MIN` (02_frame_contract.md, R66). -/
def R.FRM_SLACK_MIN : Nat := 0x28
/-- `FRM_SKEW_MAX` (02_frame_contract.md, R66). -/
def R.FRM_SKEW_MAX : Nat := 0x30
/-- `FRM_REALIGN_THRESH` (02_frame_contract.md, R66). -/
def R.FRM_REALIGN_THRESH : Nat := 0x38
/-- `FRM_MAINT_SLICE` (02_frame_contract.md, R66). -/
def R.FRM_MAINT_SLICE : Nat := 0x40
/-- `FRM_LAG` (02_frame_contract.md, R66). -/
def R.FRM_LAG : Nat := 0x48
/-- `FRM_MAINT_SHORT_CNT` (02_frame_contract.md, R66). -/
def R.FRM_MAINT_SHORT_CNT : Nat := 0x50
/-- `FRM_FAULT` (02_frame_contract.md, R66). -/
def R.FRM_FAULT : Nat := 0x58
/-- `FRM_STARVED_ADDR` (02_frame_contract.md, R66). -/
def R.FRM_STARVED_ADDR : Nat := 0x60
/-- `FRM_REALIGN_FRAME` (02_frame_contract.md, R66). -/
def R.FRM_REALIGN_FRAME : Nat := 0x68
/-- `SPK_BASE_A` (02_frame_contract.md, R68). -/
def R.SPK_BASE_A : Nat := 0x1000
/-- `SPK_BASE_B` (02_frame_contract.md, R68). -/
def R.SPK_BASE_B : Nat := 0x1008
/-- `SPK_SEL` (02_frame_contract.md, R68). -/
def R.SPK_SEL : Nat := 0x1010
/-- `SPK_MISS_CNT` (02_frame_contract.md, R68). -/
def R.SPK_MISS_CNT : Nat := 0x1018
/-- `SPK_TBL_ADDR` (02_frame_contract.md, R68). -/
def R.SPK_TBL_ADDR : Nat := 0x1020
/-- `SPK_TBL_DATA` (02_frame_contract.md, R68). -/
def R.SPK_TBL_DATA : Nat := 0x1028
/-- `SPK_STAT` (02_frame_contract.md, R68). -/
def R.SPK_STAT : Nat := 0x1030
/-- `STR_CTL` of tile `t` (03_streams_and_code.md, R105). -/
def R.STR_CTL (t : Nat) : Nat := tileKey t 0x0
/-- `STR_STAT` of tile `t` (03_streams_and_code.md, R105). -/
def R.STR_STAT (t : Nat) : Nat := tileKey t 0x8
/-- `STR_PC[s]` of tile `t` (03_streams_and_code.md, R105). -/
def R.STR_PC (t : Nat) (i : Nat) : Nat := tileKey t 0x10 + i * 8
/-- `STR_BRK_COUNT[s]` of tile `t` (03_streams_and_code.md, R105). -/
def R.STR_BRK_COUNT (t : Nat) (i : Nat) : Nat := tileKey t 0x30 + i * 8
/-- `STR_BRK_TAG[s]` of tile `t` (03_streams_and_code.md, R105). -/
def R.STR_BRK_TAG (t : Nat) (i : Nat) : Nat := tileKey t 0x50 + i * 8
/-- `STR_ISSUED[s]` of tile `t` (03_streams_and_code.md, R105). -/
def R.STR_ISSUED (t : Nat) (i : Nat) : Nat := tileKey t 0x70 + i * 8
/-- `STR_CNT[s][c]` of tile `t` (03_streams_and_code.md, R105). -/
def R.STR_CNT (t : Nat) (i : Nat) (j : Nat) : Nat := tileKey t 0x100 + i * 64 + j * 8
/-- `STR_CMP[s][k]` of tile `t` (03_streams_and_code.md, R105). -/
def R.STR_CMP (t : Nat) (i : Nat) (j : Nat) : Nat := tileKey t 0x200 + i * 32 + j * 8
/-- `TIR_ECC_STAT` (04_tiers_and_scratchpad.md, R136). -/
def R.TIR_ECC_STAT : Nat := 0xa0000
/-- `TIR_ERR_ADDR` (04_tiers_and_scratchpad.md, R136). -/
def R.TIR_ERR_ADDR : Nat := 0xa0008
/-- `TIR_SCRUB_CTL` (04_tiers_and_scratchpad.md, R136). -/
def R.TIR_SCRUB_CTL : Nat := 0xa0010
/-- `TIR_SCRUB_STAT` (04_tiers_and_scratchpad.md, R136). -/
def R.TIR_SCRUB_STAT : Nat := 0xa0018
/-- `TIR_REFETCH_CNT` (04_tiers_and_scratchpad.md, R136). -/
def R.TIR_REFETCH_CNT : Nat := 0xa0020
/-- `TIR_BANK_WAIT` (04_tiers_and_scratchpad.md, R136). -/
def R.TIR_BANK_WAIT : Nat := 0xa0028
/-- `TIR_CLASS_ADDR` (04_tiers_and_scratchpad.md, R136). -/
def R.TIR_CLASS_ADDR : Nat := 0xa0030
/-- `TIR_CLASS_DATA` (04_tiers_and_scratchpad.md, R136). -/
def R.TIR_CLASS_DATA : Nat := 0xa0038
/-- `TIR_INJECT` (04_tiers_and_scratchpad.md, R136). -/
def R.TIR_INJECT : Nat := 0xa0040
/-- `SPD_ECC_STAT` of tile `t` (04_tiers_and_scratchpad.md, R137). -/
def R.SPD_ECC_STAT (t : Nat) : Nat := tileKey t 0x1800
/-- `SPD_POISON_CNT` of tile `t` (04_tiers_and_scratchpad.md, R137). -/
def R.SPD_POISON_CNT (t : Nat) : Nat := tileKey t 0x1808
/-- `SPD_ERR_ADDR` of tile `t` (04_tiers_and_scratchpad.md, R137). -/
def R.SPD_ERR_ADDR (t : Nat) : Nat := tileKey t 0x1810
/-- `SPD_BANK_WAIT` of tile `t` (04_tiers_and_scratchpad.md, R137). -/
def R.SPD_BANK_WAIT (t : Nat) : Nat := tileKey t 0x1818
/-- `SPD_INJECT` of tile `t` (04_tiers_and_scratchpad.md, R137). -/
def R.SPD_INJECT (t : Nat) : Nat := tileKey t 0x1820
/-- `WPA_CTL` of tile `t` (05_formats_and_weight_path.md, R163). -/
def R.WPA_CTL (t : Nat) : Nat := tileKey t 0x800
/-- `WPA_CB_SEL` of tile `t` (05_formats_and_weight_path.md, R163). -/
def R.WPA_CB_SEL (t : Nat) : Nat := tileKey t 0x808
/-- `WPA_CB_STAT` of tile `t` (05_formats_and_weight_path.md, R163). -/
def R.WPA_CB_STAT (t : Nat) : Nat := tileKey t 0x810
/-- `WPA_STAT` of tile `t` (05_formats_and_weight_path.md, R163). -/
def R.WPA_STAT (t : Nat) : Nat := tileKey t 0x818
/-- `WPA_NAN_ADDR` of tile `t` (05_formats_and_weight_path.md, R163). -/
def R.WPA_NAN_ADDR (t : Nat) : Nat := tileKey t 0x820
/-- `WPA_CB_ADDR` of tile `t` (05_formats_and_weight_path.md, R163). -/
def R.WPA_CB_ADDR (t : Nat) : Nat := tileKey t 0x828
/-- `WPA_CB_DATA` of tile `t` (05_formats_and_weight_path.md, R163). -/
def R.WPA_CB_DATA (t : Nat) : Nat := tileKey t 0x830
/-- `MXA_CTL` of tile `t` (06_matrix_array.md, R199). -/
def R.MXA_CTL (t : Nat) : Nat := tileKey t 0x400
/-- `MXA_FMT` of tile `t` (06_matrix_array.md, R199). -/
def R.MXA_FMT (t : Nat) : Nat := tileKey t 0x408
/-- `MXA_BORDER_TOL` of tile `t` (06_matrix_array.md, R199). -/
def R.MXA_BORDER_TOL (t : Nat) : Nat := tileKey t 0x410
/-- `MXA_BORDER_STAT` of tile `t` (06_matrix_array.md, R199). -/
def R.MXA_BORDER_STAT (t : Nat) : Nat := tileKey t 0x418
/-- `MXA_REPLAY_CNT` of tile `t` (06_matrix_array.md, R199). -/
def R.MXA_REPLAY_CNT (t : Nat) : Nat := tileKey t 0x420
/-- `MXA_STAT` of tile `t` (06_matrix_array.md, R199). -/
def R.MXA_STAT (t : Nat) : Nat := tileKey t 0x428
/-- `MXA_ADP_SLOT[n]` of tile `t` (06_matrix_array.md, R199). -/
def R.MXA_ADP_SLOT (t : Nat) (i : Nat) : Nat := tileKey t 0x480 + i * 8
/-- `MXA_ADP_TBL[e][0]` of tile `t` (06_matrix_array.md, R199). -/
def R.MXA_ADP_TBL_0 (t : Nat) (i : Nat) : Nat := tileKey t 0x600 + i * 16
/-- `MXA_ADP_TBL[e][1]` of tile `t` (06_matrix_array.md, R199). -/
def R.MXA_ADP_TBL_1 (t : Nat) (i : Nat) : Nat := tileKey t 0x608 + i * 16
/-- `VEC_VL` of tile `t` (07_vector_and_special_functions.md, R240). -/
def R.VEC_VL (t : Nat) : Nat := tileKey t 0xc00
/-- `VEC_STAT` of tile `t` (07_vector_and_special_functions.md, R240). -/
def R.VEC_STAT (t : Nat) : Nat := tileKey t 0xc08
/-- `SFU_CTL` of tile `t` (07_vector_and_special_functions.md, R241). -/
def R.SFU_CTL (t : Nat) : Nat := tileKey t 0x1000
/-- `SFU_TBL_SEL` of tile `t` (07_vector_and_special_functions.md, R241). -/
def R.SFU_TBL_SEL (t : Nat) : Nat := tileKey t 0x1008
/-- `SFU_STAT` of tile `t` (07_vector_and_special_functions.md, R241). -/
def R.SFU_STAT (t : Nat) : Nat := tileKey t 0x1010
/-- `SFU_TBL_ADDR` of tile `t` (07_vector_and_special_functions.md, R241). -/
def R.SFU_TBL_ADDR (t : Nat) : Nat := tileKey t 0x1018
/-- `SFU_TBL_DATA` of tile `t` (07_vector_and_special_functions.md, R241). -/
def R.SFU_TBL_DATA (t : Nat) : Nat := tileKey t 0x1020
/-- `GRN_CTL` of tile `t` (08_grain.md, R259). -/
def R.GRN_CTL (t : Nat) : Nat := tileKey t 0x1400
/-- `GRN_SEED_LO` of tile `t` (08_grain.md, R259). -/
def R.GRN_SEED_LO (t : Nat) : Nat := tileKey t 0x1408
/-- `GRN_SEED_HI` of tile `t` (08_grain.md, R259). -/
def R.GRN_SEED_HI (t : Nat) : Nat := tileKey t 0x1410
/-- `GRN_MODE` of tile `t` (08_grain.md, R259). -/
def R.GRN_MODE (t : Nat) : Nat := tileKey t 0x1418
/-- `GRN_TBL_SEL` of tile `t` (08_grain.md, R259). -/
def R.GRN_TBL_SEL (t : Nat) : Nat := tileKey t 0x1420
/-- `GRN_STAT` of tile `t` (08_grain.md, R259). -/
def R.GRN_STAT (t : Nat) : Nat := tileKey t 0x1428
/-- `GRN_BEAT` of tile `t` (08_grain.md, R259). -/
def R.GRN_BEAT (t : Nat) : Nat := tileKey t 0x1430
/-- `GRN_BANK[b][0]` of tile `t` (08_grain.md, R259). -/
def R.GRN_BANK_0 (t : Nat) (i : Nat) : Nat := tileKey t 0x1440 + i * 32
/-- `GRN_BANK[b][1]` of tile `t` (08_grain.md, R259). -/
def R.GRN_BANK_1 (t : Nat) (i : Nat) : Nat := tileKey t 0x1448 + i * 32
/-- `GRN_BANK[b][2]` of tile `t` (08_grain.md, R259). -/
def R.GRN_BANK_2 (t : Nat) (i : Nat) : Nat := tileKey t 0x1450 + i * 32
/-- `GRN_BANK[b][3]` of tile `t` (08_grain.md, R259). -/
def R.GRN_BANK_3 (t : Nat) (i : Nat) : Nat := tileKey t 0x1458 + i * 32
/-- `KVC_STAT` of tile `t` (09_speculation_and_kv.md, R279). -/
def R.KVC_STAT (t : Nat) : Nat := tileKey t 0x1c00
/-- `KVC_DESC[d][0]` of tile `t` (09_speculation_and_kv.md, R279). -/
def R.KVC_DESC_0 (t : Nat) (i : Nat) : Nat := tileKey t 0x1d00 + i * 32
/-- `KVC_DESC[d][1]` of tile `t` (09_speculation_and_kv.md, R279). -/
def R.KVC_DESC_1 (t : Nat) (i : Nat) : Nat := tileKey t 0x1d08 + i * 32
/-- `KVC_DESC[d][2]` of tile `t` (09_speculation_and_kv.md, R279). -/
def R.KVC_DESC_2 (t : Nat) (i : Nat) : Nat := tileKey t 0x1d10 + i * 32
/-- `KVC_STAGE[d]` of tile `t` (09_speculation_and_kv.md, R279). -/
def R.KVC_STAGE (t : Nat) (i : Nat) : Nat := tileKey t 0x2500 + i * 8
/-- `MSH_CTL` (10_mesh_and_spares.md, R299). -/
def R.MSH_CTL : Nat := 0x2000
/-- `MSH_STAT` (10_mesh_and_spares.md, R299). -/
def R.MSH_STAT : Nat := 0x2008
/-- `MSH_DEMOTE_CNT` (10_mesh_and_spares.md, R299). -/
def R.MSH_DEMOTE_CNT : Nat := 0x2010
/-- `MSH_DEMOTE_LAST` (10_mesh_and_spares.md, R299). -/
def R.MSH_DEMOTE_LAST : Nat := 0x2018
/-- `MSH_RETIRE` (10_mesh_and_spares.md, R299). -/
def R.MSH_RETIRE : Nat := 0x2020
/-- `MSH_NOMINATE[n], n = 0–7` (10_mesh_and_spares.md, R299). -/
def R.MSH_NOMINATE (i : Nat) : Nat := 0x2040 + i * 8
/-- `MSH_ROWMAP[y]` (10_mesh_and_spares.md, R299). -/
def R.MSH_ROWMAP (i : Nat) : Nat := 0x2100 + i * 8
/-- `MSH_ROWMAP_CUR[y]` (10_mesh_and_spares.md, R299). -/
def R.MSH_ROWMAP_CUR (i : Nat) : Nat := 0x2180 + i * 8
/-- `MSH_ROWFUSE[y]` (10_mesh_and_spares.md, R299). -/
def R.MSH_ROWFUSE (i : Nat) : Nat := 0x2200 + i * 8
/-- `MSH_BAD[y]` (10_mesh_and_spares.md, R299). -/
def R.MSH_BAD (i : Nat) : Nat := 0x2280 + i * 8
/-- `FAB_PORT_CTL[p]` (11_fabric.md, R328). -/
def R.FAB_PORT_CTL (i : Nat) : Nat := 0x10000 + i * 8
/-- `FAB_PORT_STAT[p]` (11_fabric.md, R328). -/
def R.FAB_PORT_STAT (i : Nat) : Nat := 0x10080 + i * 8
/-- `FAB_LINK_DEPTH[p]` (11_fabric.md, R328). -/
def R.FAB_LINK_DEPTH (i : Nat) : Nat := 0x10100 + i * 8
/-- `FAB_LINK_MEAS[p]` (11_fabric.md, R328). -/
def R.FAB_LINK_MEAS (i : Nat) : Nat := 0x10180 + i * 8
/-- `FAB_PORT_DROP[p]` (11_fabric.md, R328). -/
def R.FAB_PORT_DROP (i : Nat) : Nat := 0x10200 + i * 8
/-- `FAB_RETX_CNT[p]` (11_fabric.md, R328). -/
def R.FAB_RETX_CNT (i : Nat) : Nat := 0x10280 + i * 8
/-- `FAB_ECN_THRESH` (11_fabric.md, R328). -/
def R.FAB_ECN_THRESH : Nat := 0x10300
/-- `FAB_ECN_CTL` (11_fabric.md, R328). -/
def R.FAB_ECN_CTL : Nat := 0x10308
/-- `FAB_JOB_PKEY` (11_fabric.md, R328). -/
def R.FAB_JOB_PKEY : Nat := 0x10310
/-- `FAB_CMAP_CTL` (11_fabric.md, R328). -/
def R.FAB_CMAP_CTL : Nat := 0x10318
/-- `FAB_BYPASS_STAT` (11_fabric.md, R328). -/
def R.FAB_BYPASS_STAT : Nat := 0x10320
/-- `FAB_TRK_STAT` (11_fabric.md, R328). -/
def R.FAB_TRK_STAT : Nat := 0x10328
/-- `FAB_CMAP_ADDR` (11_fabric.md, R328). -/
def R.FAB_CMAP_ADDR : Nat := 0x10330
/-- `FAB_CMAP_DATA` (11_fabric.md, R328). -/
def R.FAB_CMAP_DATA : Nat := 0x10338
/-- `FAB_MANIFEST_DIGEST[w], w = 0–3` (11_fabric.md, R328). -/
def R.FAB_MANIFEST_DIGEST (i : Nat) : Nat := 0x10340 + i * 8
/-- `FAB_GROUTE[b]` (11_fabric.md, R328). -/
def R.FAB_GROUTE (i : Nat) : Nat := 0x10400 + i * 8
/-- `FAB_PKEY_TBL[p][k]` (11_fabric.md, R328). -/
def R.FAB_PKEY_TBL (i : Nat) (j : Nat) : Nat := 0x11000 + i * 512 + j * 8
/-- `ROL_CTL` (12_rolls_and_loading.md, R357). -/
def R.ROL_CTL : Nat := 0x20000
/-- `ROL_ACTIVE` (12_rolls_and_loading.md, R357). -/
def R.ROL_ACTIVE : Nat := 0x20008
/-- `ROL_SWITCH_FRAME` (12_rolls_and_loading.md, R357). -/
def R.ROL_SWITCH_FRAME : Nat := 0x20010
/-- `ROL_LOAD_STAT` (12_rolls_and_loading.md, R357). -/
def R.ROL_LOAD_STAT : Nat := 0x20018
/-- `ROL_LOAD_TIMEOUT` (12_rolls_and_loading.md, R357). -/
def R.ROL_LOAD_TIMEOUT : Nat := 0x20020
/-- `ROL_DESC_A[0]` (12_rolls_and_loading.md, R357). -/
def R.ROL_DESC_A_0 : Nat := 0x20100
/-- `ROL_DESC_A[1-4]` (12_rolls_and_loading.md, R357). -/
def R.ROL_DESC_A_ROOT (i : Nat) : Nat := 0x20108 + i * 8
/-- `ROL_DESC_A[5-8]` (12_rolls_and_loading.md, R357). -/
def R.ROL_DESC_A_MASK (i : Nat) : Nat := 0x20128 + i * 8
/-- `ROL_DESC_A[9]` (12_rolls_and_loading.md, R357). -/
def R.ROL_DESC_A_BOUND : Nat := 0x20148
/-- `ROL_DESC_B[0]` (12_rolls_and_loading.md, R357). -/
def R.ROL_DESC_B_0 : Nat := 0x20180
/-- `ROL_DESC_B[1-4]` (12_rolls_and_loading.md, R357). -/
def R.ROL_DESC_B_ROOT (i : Nat) : Nat := 0x20188 + i * 8
/-- `ROL_DESC_B[5-8]` (12_rolls_and_loading.md, R357). -/
def R.ROL_DESC_B_MASK (i : Nat) : Nat := 0x201a8 + i * 8
/-- `ROL_DESC_B[9]` (12_rolls_and_loading.md, R357). -/
def R.ROL_DESC_B_BOUND : Nat := 0x201c8
/-- `ROL_ADP_ROOT[e][w], w = 0–3` (12_rolls_and_loading.md, R357). -/
def R.ROL_ADP_ROOT (i : Nat) (j : Nat) : Nat := 0x20400 + i * 32 + j * 8
/-- `ROL_GROUP[g]` (12_rolls_and_loading.md, R357). -/
def R.ROL_GROUP (i : Nat) : Nat := 0x20800 + i * 8
/-- `ROL_LAG[t]` (12_rolls_and_loading.md, R357). -/
def R.ROL_LAG (i : Nat) : Nat := 0x21000 + i * 8
/-- `HIF_STAT` (13_host_interface.md, R381). -/
def R.HIF_STAT : Nat := 0x30000
/-- `HIF_TIME` (13_host_interface.md, R381). -/
def R.HIF_TIME : Nat := 0x30008
/-- `HIF_DOORBELL` (13_host_interface.md, R381). -/
def R.HIF_DOORBELL : Nat := 0x30010
/-- `HIF_Q_SEL` (13_host_interface.md, R381). -/
def R.HIF_Q_SEL : Nat := 0x30018
/-- `HIF_Q_BASE` (13_host_interface.md, R381). -/
def R.HIF_Q_BASE : Nat := 0x30020
/-- `HIF_Q_CQ` (13_host_interface.md, R381). -/
def R.HIF_Q_CQ : Nat := 0x30028
/-- `HIF_Q_RES` (13_host_interface.md, R381). -/
def R.HIF_Q_RES : Nat := 0x30030
/-- `HIF_Q_CFG` (13_host_interface.md, R381). -/
def R.HIF_Q_CFG : Nat := 0x30038
/-- `HIF_Q_STAT` (13_host_interface.md, R381). -/
def R.HIF_Q_STAT : Nat := 0x30040
/-- `HIF_Q_RSTAT` (13_host_interface.md, R381). -/
def R.HIF_Q_RSTAT : Nat := 0x30048
/-- `HIF_RESULT_WIN` (13_host_interface.md, R381). -/
def R.HIF_RESULT_WIN : Nat := 0x30050
/-- `HIF_TILE_WIN` (13_host_interface.md, R381). -/
def R.HIF_TILE_WIN : Nat := 0x30058
/-- `HIF_ADM` (13_host_interface.md, R381). -/
def R.HIF_ADM : Nat := 0x30060
/-- `HIF_ADM_STAT` (13_host_interface.md, R381). -/
def R.HIF_ADM_STAT : Nat := 0x30068
/-- `HIF_CLASS[c][0]` (13_host_interface.md, R381). -/
def R.HIF_CLASS_0 (i : Nat) : Nat := 0x30100 + i * 16
/-- `HIF_CLASS[c][1]` (13_host_interface.md, R381). -/
def R.HIF_CLASS_1 (i : Nat) : Nat := 0x30108 + i * 16
/-- `HIF_REQ_AREA[s][0]` (13_host_interface.md, R381). -/
def R.HIF_REQ_AREA_0 (i : Nat) : Nat := 0x30800 + i * 32
/-- `HIF_REQ_AREA[s][1]` (13_host_interface.md, R381). -/
def R.HIF_REQ_AREA_1 (i : Nat) : Nat := 0x30808 + i * 32
/-- `HIF_REQ_AREA[s][2]` (13_host_interface.md, R381). -/
def R.HIF_REQ_AREA_2 (i : Nat) : Nat := 0x30810 + i * 32
/-- `AUD_CTL` (14_determinism_and_audit.md, R411). -/
def R.AUD_CTL : Nat := 0x40000
/-- `AUD_BITKEY` (14_determinism_and_audit.md, R411). -/
def R.AUD_BITKEY : Nat := 0x40008
/-- `AUD_KEY_SRC` (14_determinism_and_audit.md, R411). -/
def R.AUD_KEY_SRC : Nat := 0x40010
/-- `AUD_XLATE_VER` (14_determinism_and_audit.md, R411). -/
def R.AUD_XLATE_VER : Nat := 0x40018
/-- `AUD_REPLAY_CTL` (14_determinism_and_audit.md, R411). -/
def R.AUD_REPLAY_CTL : Nat := 0x40020
/-- `AUD_REPLAY_STAT` (14_determinism_and_audit.md, R411). -/
def R.AUD_REPLAY_STAT : Nat := 0x40028
/-- `AUD_CLAP_STAT` (14_determinism_and_audit.md, R411). -/
def R.AUD_CLAP_STAT : Nat := 0x40030
/-- `AUD_CTX_KEEP` (14_determinism_and_audit.md, R411). -/
def R.AUD_CTX_KEEP : Nat := 0x40038
/-- `AUD_STAT` (14_determinism_and_audit.md, R411). -/
def R.AUD_STAT : Nat := 0x40040
/-- `CLK_CTL` (15_clocks_power_ageing.md, R445). -/
def R.CLK_CTL : Nat := 0x50000
/-- `CLK_STEP` (15_clocks_power_ageing.md, R445). -/
def R.CLK_STEP : Nat := 0x50008
/-- `CLK_CHANGE_FRAME` (15_clocks_power_ageing.md, R445). -/
def R.CLK_CHANGE_FRAME : Nat := 0x50010
/-- `CLK_CUR` (15_clocks_power_ageing.md, R445). -/
def R.CLK_CUR : Nat := 0x50018
/-- `CLK_STAT` (15_clocks_power_ageing.md, R445). -/
def R.CLK_STAT : Nat := 0x50020
/-- `CLK_FMAX` (15_clocks_power_ageing.md, R445). -/
def R.CLK_FMAX : Nat := 0x50028
/-- `CLK_SLOW_LAST` (15_clocks_power_ageing.md, R445). -/
def R.CLK_SLOW_LAST : Nat := 0x50030
/-- `CLK_AGE_FORECAST` (15_clocks_power_ageing.md, R445). -/
def R.CLK_AGE_FORECAST : Nat := 0x50038
/-- `CLK_CANARY_SLACK[r], r = 0–63` (15_clocks_power_ageing.md, R445). -/
def R.CLK_CANARY_SLACK (i : Nat) : Nat := 0x50100 + i * 8
/-- `CLK_VF[s], s = 0–72` (15_clocks_power_ageing.md, R445). -/
def R.CLK_VF (i : Nat) : Nat := 0x50400 + i * 8
/-- `PWR_CTL` (15_clocks_power_ageing.md, R446). -/
def R.PWR_CTL : Nat := 0x60000
/-- `PWR_STATE` (15_clocks_power_ageing.md, R446). -/
def R.PWR_STATE : Nat := 0x60008
/-- `PWR_STAT` (15_clocks_power_ageing.md, R446). -/
def R.PWR_STAT : Nat := 0x60010
/-- `PWR_REFUSE_CNT` (15_clocks_power_ageing.md, R446). -/
def R.PWR_REFUSE_CNT : Nat := 0x60018
/-- `PWR_REFUSE_LAST` (15_clocks_power_ageing.md, R446). -/
def R.PWR_REFUSE_LAST : Nat := 0x60020
/-- `PWR_WAKE_SRC` (15_clocks_power_ageing.md, R446). -/
def R.PWR_WAKE_SRC : Nat := 0x60028
/-- `PWR_LIMIT` (15_clocks_power_ageing.md, R446). -/
def R.PWR_LIMIT : Nat := 0x60030
/-- `PWR_IN` (15_clocks_power_ageing.md, R446). -/
def R.PWR_IN : Nat := 0x60038
/-- `PWR_VOTE[d], d = 0–9` (15_clocks_power_ageing.md, R446). -/
def R.PWR_VOTE (i : Nat) : Nat := 0x60100 + i * 8
/-- `CAL_FACTORY[w], w = 0–511` (15_clocks_power_ageing.md, R447). -/
def R.CAL_FACTORY (i : Nat) : Nat := 0x70000 + i * 8
/-- `CAL_USER[w], w = 0–511` (15_clocks_power_ageing.md, R447). -/
def R.CAL_USER (i : Nat) : Nat := 0x71000 + i * 8
/-- `CAL_EFFECTIVE[w], w = 0–511` (15_clocks_power_ageing.md, R447). -/
def R.CAL_EFFECTIVE (i : Nat) : Nat := 0x72000 + i * 8
/-- `CAL_STAT` (15_clocks_power_ageing.md, R447). -/
def R.CAL_STAT : Nat := 0x73000
/-- `DBG_CTL` (16_service_test_debug.md, R470). -/
def R.DBG_CTL : Nat := 0x80000
/-- `DBG_STAT` (16_service_test_debug.md, R470). -/
def R.DBG_STAT : Nat := 0x80008
/-- `DBG_TEST_CTL` (16_service_test_debug.md, R470). -/
def R.DBG_TEST_CTL : Nat := 0x80010
/-- `DBG_TEST_STAT` (16_service_test_debug.md, R470). -/
def R.DBG_TEST_STAT : Nat := 0x80018
/-- `DBG_TRIG_TIME` (16_service_test_debug.md, R470). -/
def R.DBG_TRIG_TIME : Nat := 0x80020
/-- `DBG_MUX[n], n = 0–15` (16_service_test_debug.md, R470). -/
def R.DBG_MUX (i : Nat) : Nat := 0x80100 + i * 8
/-- `DBG_TRIG[n], n = 0–3` (16_service_test_debug.md, R470). -/
def R.DBG_TRIG (i : Nat) : Nat := 0x80200 + i * 8
/-- `MOD_ID` (17_module.md, R490). -/
def R.MOD_ID : Nat := 0x90000
/-- `MOD_ROLE` (17_module.md, R490). -/
def R.MOD_ROLE : Nat := 0x90008
/-- `MOD_BYPASS` (17_module.md, R490). -/
def R.MOD_BYPASS : Nat := 0x90010
/-- `MOD_STAT` (17_module.md, R490). -/
def R.MOD_STAT : Nat := 0x90018
/-- `MOD_ALERT` (17_module.md, R490). -/
def R.MOD_ALERT : Nat := 0x90020
/-- `MOD_ALERT_EN` (17_module.md, R490). -/
def R.MOD_ALERT_EN : Nat := 0x90028
/-- `MOD_BOOT` (17_module.md, R490). -/
def R.MOD_BOOT : Nat := 0x90030
/-- `MOD_TW_REJECT_CNT` (17_module.md, R490). -/
def R.MOD_TW_REJECT_CNT : Nat := 0x90038

def F.FRM_CTL_RUN : Fld := ⟨0, 0⟩
def F.FRM_CTL_FROZEN : Fld := ⟨1, 1⟩
def F.FRM_CTL_SLACK_WIN : Fld := ⟨7, 4⟩
def F.FRM_CTL_OVERRUN_ALERT : Fld := ⟨8, 8⟩
def F.FRM_CTL_STARVED_ALERT : Fld := ⟨9, 9⟩
def F.FRM_LEN_LEN : Fld := ⟨31, 0⟩
def F.FRM_LEN_LEN_N : Fld := ⟨63, 32⟩
def F.FRM_COUNT_COUNT : Fld := ⟨63, 0⟩
def F.FRM_STRETCH_MAX_CYCLES : Fld := ⟨23, 0⟩
def F.FRM_STRETCH_CNT_STRETCHED : Fld := ⟨31, 0⟩
def F.FRM_STRETCH_CNT_OVERRUNS : Fld := ⟨63, 32⟩
def F.FRM_SLACK_MIN_SLACK : Fld := ⟨31, 0⟩
def F.FRM_SLACK_MIN_TILE : Fld := ⟨40, 32⟩
def F.FRM_SKEW_MAX_CYCLES : Fld := ⟨23, 0⟩
def F.FRM_REALIGN_THRESH_CYCLES : Fld := ⟨23, 0⟩
def F.FRM_MAINT_SLICE_FRAC : Fld := ⟨4, 0⟩
def F.FRM_LAG_VALUE : Fld := ⟨31, 0⟩
def F.FRM_MAINT_SHORT_CNT_VALUE : Fld := ⟨31, 0⟩
def F.FRM_FAULT_OVERRUN : Fld := ⟨0, 0⟩
def F.FRM_FAULT_STARVED : Fld := ⟨1, 1⟩
def F.FRM_FAULT_SKEW : Fld := ⟨2, 2⟩
def F.FRM_FAULT_SLICE_SMALL : Fld := ⟨3, 3⟩
def F.FRM_FAULT_SMALL_KIND : Fld := ⟨6, 4⟩
def F.FRM_STARVED_ADDR_ADDR : Fld := ⟨63, 0⟩
def F.FRM_REALIGN_FRAME_FRAME : Fld := ⟨63, 0⟩
def F.SPK_BASE_A_PAGE : Fld := ⟨17, 12⟩
def F.SPK_BASE_B_PAGE : Fld := ⟨17, 12⟩
def F.SPK_SEL_BANK : Fld := ⟨0, 0⟩
def F.SPK_SEL_SEL_N : Fld := ⟨63, 32⟩
def F.SPK_MISS_CNT_MISS : Fld := ⟨31, 0⟩
def F.SPK_MISS_CNT_COLLIDE : Fld := ⟨63, 32⟩
def F.SPK_TBL_ADDR_ADDR : Fld := ⟨17, 3⟩
def F.SPK_TBL_DATA_DATA : Fld := ⟨63, 0⟩
def F.SPK_STAT_ACTIVE : Fld := ⟨0, 0⟩
def F.SPK_STAT_PENDING : Fld := ⟨1, 1⟩
def F.SPK_STAT_WR_REJECT : Fld := ⟨31, 16⟩
def F.STR_CTL_STREAM_EN : Fld := ⟨3, 0⟩
def F.STR_CTL_RESUME : Fld := ⟨8, 8⟩
def F.STR_CTL_BRK_DOMAIN : Fld := ⟨9, 9⟩
def F.STR_STAT_HIT : Fld := ⟨0, 0⟩
def F.STR_STAT_HIT_KIND : Fld := ⟨1, 1⟩
def F.STR_STAT_HIT_STREAM : Fld := ⟨3, 2⟩
def F.STR_STAT_ADDR_FAULT : Fld := ⟨4, 4⟩
def F.STR_STAT_FAULT_STREAM : Fld := ⟨6, 5⟩
def F.STR_STAT_IMEM_REJECT : Fld := ⟨31, 16⟩
def F.STR_STAT_FREEZE_CYC : Fld := ⟨55, 32⟩
def F.STR_PC_PC : Fld := ⟨11, 0⟩
def F.STR_BRK_COUNT_COUNT : Fld := ⟨62, 0⟩
def F.STR_BRK_COUNT_EN : Fld := ⟨63, 63⟩
def F.STR_BRK_TAG_TAG : Fld := ⟨5, 0⟩
def F.STR_BRK_TAG_EN : Fld := ⟨6, 6⟩
def F.STR_BRK_TAG_AFTER : Fld := ⟨31, 16⟩
def F.STR_ISSUED_COUNT : Fld := ⟨62, 0⟩
def F.STR_CNT_VALUE : Fld := ⟨31, 0⟩
def F.STR_CMP_VAL : Fld := ⟨28, 0⟩
def F.STR_CMP_REL : Fld := ⟨31, 29⟩
def F.STR_CMP_SRC : Fld := ⟨35, 32⟩
def F.STR_CMP_SET : Fld := ⟨36, 36⟩
def F.STR_CMP_RESULT : Fld := ⟨37, 37⟩
def F.TIR_ECC_STAT_CE : Fld := ⟨0, 0⟩
def F.TIR_ECC_STAT_UE_WEIGHT : Fld := ⟨1, 1⟩
def F.TIR_ECC_STAT_UE_DATA : Fld := ⟨2, 2⟩
def F.TIR_ECC_STAT_HARD : Fld := ⟨3, 3⟩
def F.TIR_ECC_STAT_SCRUB_LATE : Fld := ⟨4, 4⟩
def F.TIR_ECC_STAT_CE_COUNT : Fld := ⟨47, 16⟩
def F.TIR_ECC_STAT_UE_DATA_CNT : Fld := ⟨63, 48⟩
def F.TIR_ERR_ADDR_ADDR : Fld := ⟨63, 0⟩
def F.TIR_SCRUB_CTL_EN : Fld := ⟨0, 0⟩
def F.TIR_SCRUB_CTL_INTERVAL : Fld := ⟨4, 1⟩
def F.TIR_SCRUB_STAT_PASSES : Fld := ⟨31, 0⟩
def F.TIR_SCRUB_STAT_MIN_UNIT : Fld := ⟨40, 32⟩
def F.TIR_SCRUB_STAT_MIN_TILE : Fld := ⟨49, 41⟩
def F.TIR_REFETCH_CNT_REFETCHES : Fld := ⟨31, 0⟩
def F.TIR_REFETCH_CNT_HARD_LINES : Fld := ⟨47, 32⟩
def F.TIR_REFETCH_CNT_QUEUE_PEAK : Fld := ⟨54, 48⟩
def F.TIR_BANK_WAIT_READ_WAIT : Fld := ⟨31, 0⟩
def F.TIR_BANK_WAIT_WRITE_WAIT : Fld := ⟨63, 32⟩
def F.TIR_CLASS_ADDR_ADDR : Fld := ⟨13, 3⟩
def F.TIR_CLASS_DATA_DATA : Fld := ⟨63, 0⟩
def F.TIR_INJECT_TILE : Fld := ⟨8, 0⟩
def F.TIR_INJECT_SYMS : Fld := ⟨11, 9⟩
def F.TIR_INJECT_ARM : Fld := ⟨16, 16⟩
def F.SPD_ECC_STAT_CE : Fld := ⟨0, 0⟩
def F.SPD_ECC_STAT_UE : Fld := ⟨1, 1⟩
def F.SPD_ECC_STAT_CE_COUNT : Fld := ⟨47, 16⟩
def F.SPD_POISON_CNT_CREATED : Fld := ⟨31, 0⟩
def F.SPD_POISON_CNT_WRITTEN : Fld := ⟨63, 32⟩
def F.SPD_ERR_ADDR_OFFSET : Fld := ⟨20, 0⟩
def F.SPD_BANK_WAIT_WAITS : Fld := ⟨31, 0⟩
def F.SPD_INJECT_WORD : Fld := ⟨20, 3⟩
def F.SPD_INJECT_BITS : Fld := ⟨22, 21⟩
def F.SPD_INJECT_ARM : Fld := ⟨23, 23⟩
def F.WPA_CTL_NAN_LOG : Fld := ⟨0, 0⟩
def F.WPA_CB_SEL_BANK : Fld := ⟨0, 0⟩
def F.WPA_CB_SEL_SEL_N : Fld := ⟨63, 32⟩
def F.WPA_CB_STAT_ACTIVE : Fld := ⟨0, 0⟩
def F.WPA_CB_STAT_PENDING : Fld := ⟨1, 1⟩
def F.WPA_CB_STAT_CE : Fld := ⟨2, 2⟩
def F.WPA_CB_STAT_UE : Fld := ⟨3, 3⟩
def F.WPA_CB_STAT_WR_REJECT : Fld := ⟨31, 16⟩
def F.WPA_CB_STAT_CE_COUNT : Fld := ⟨47, 32⟩
def F.WPA_CB_STAT_UE_COUNT : Fld := ⟨63, 48⟩
def F.WPA_STAT_NAN_SCALE : Fld := ⟨0, 0⟩
def F.WPA_STAT_NAN_ENTRY : Fld := ⟨1, 1⟩
def F.WPA_STAT_NAN_SCALE_CNT : Fld := ⟨47, 16⟩
def F.WPA_NAN_ADDR_OFFSET : Fld := ⟨23, 0⟩
def F.WPA_CB_ADDR_ADDR : Fld := ⟨17, 3⟩
def F.WPA_CB_DATA_DATA : Fld := ⟨63, 0⟩
def F.MXA_CTL_BCHK_EN : Fld := ⟨0, 0⟩
def F.MXA_CTL_NOMINATE : Fld := ⟨1, 1⟩
def F.MXA_FMT_WFMT : Fld := ⟨4, 0⟩
def F.MXA_FMT_AFMT : Fld := ⟨9, 5⟩
def F.MXA_FMT_OFMT : Fld := ⟨14, 10⟩
def F.MXA_FMT_NCOL : Fld := ⟨18, 15⟩
def F.MXA_FMT_OLAY : Fld := ⟨19, 19⟩
def F.MXA_FMT_K8 : Fld := ⟨33, 20⟩
def F.MXA_BORDER_TOL_TOL0 : Fld := ⟨5, 0⟩
def F.MXA_BORDER_TOL_TOL1 : Fld := ⟨13, 8⟩
def F.MXA_BORDER_TOL_TOL2 : Fld := ⟨21, 16⟩
def F.MXA_BORDER_TOL_TOL3 : Fld := ⟨29, 24⟩
def F.MXA_BORDER_STAT_MISMATCH : Fld := ⟨0, 0⟩
def F.MXA_BORDER_STAT_FAULT : Fld := ⟨1, 1⟩
def F.MXA_BORDER_STAT_KIND : Fld := ⟨2, 2⟩
def F.MXA_BORDER_STAT_INDEX : Fld := ⟨9, 3⟩
def F.MXA_BORDER_STAT_CHECKED : Fld := ⟨47, 16⟩
def F.MXA_BORDER_STAT_SKIPPED : Fld := ⟨63, 48⟩
def F.MXA_REPLAY_CNT_REPLAYS : Fld := ⟨31, 0⟩
def F.MXA_REPLAY_CNT_FAULTS : Fld := ⟨47, 32⟩
def F.MXA_STAT_INT_WRAP : Fld := ⟨0, 0⟩
def F.MXA_STAT_ADP_MISS : Fld := ⟨1, 1⟩
def F.MXA_STAT_ADP_MISS_CNT : Fld := ⟨31, 16⟩
def F.MXA_STAT_ADP_WR_REJECT : Fld := ⟨47, 32⟩
def F.MXA_ADP_SLOT_PKEY : Fld := ⟨15, 0⟩
def F.MXA_ADP_SLOT_ENTRY : Fld := ⟨20, 16⟩
def F.MXA_ADP_TBL_0_PKEY : Fld := ⟨15, 0⟩
def F.MXA_ADP_TBL_0_RANK : Fld := ⟨18, 16⟩
def F.MXA_ADP_TBL_0_WFMT : Fld := ⟨23, 19⟩
def F.MXA_ADP_TBL_0_A_OFF : Fld := ⟨37, 24⟩
def F.MXA_ADP_TBL_0_B_OFF : Fld := ⟨51, 38⟩
def F.MXA_ADP_TBL_0_VALID : Fld := ⟨63, 63⟩
def F.MXA_ADP_TBL_1_A_BOFF : Fld := ⟨23, 0⟩
def F.MXA_ADP_TBL_1_B_BOFF : Fld := ⟨47, 24⟩
def F.VEC_VL_VL : Fld := ⟨24, 0⟩
def F.VEC_STAT_SAT : Fld := ⟨0, 0⟩
def F.VEC_STAT_ROW_EMPTY : Fld := ⟨1, 1⟩
def F.VEC_STAT_PERM_RANGE : Fld := ⟨2, 2⟩
def F.VEC_STAT_VL_RANGE : Fld := ⟨3, 3⟩
def F.VEC_STAT_SAMPLE_NAN : Fld := ⟨4, 4⟩
def F.VEC_STAT_SAMPLE_CLAMP : Fld := ⟨5, 5⟩
def F.VEC_STAT_SAT_CNT : Fld := ⟨47, 16⟩
def F.SFU_CTL_COMPAT : Fld := ⟨0, 0⟩
def F.SFU_CTL_DEGRADE_FORCE : Fld := ⟨1, 1⟩
def F.SFU_TBL_SEL_BANK : Fld := ⟨0, 0⟩
def F.SFU_TBL_SEL_SEL_N : Fld := ⟨63, 32⟩
def F.SFU_STAT_ACTIVE : Fld := ⟨0, 0⟩
def F.SFU_STAT_PENDING : Fld := ⟨1, 1⟩
def F.SFU_STAT_DEGRADED : Fld := ⟨2, 2⟩
def F.SFU_STAT_DEG_CAUSE : Fld := ⟨4, 3⟩
def F.SFU_STAT_CE : Fld := ⟨5, 5⟩
def F.SFU_STAT_UE : Fld := ⟨6, 6⟩
def F.SFU_STAT_EVAL_FAIL : Fld := ⟨7, 7⟩
def F.SFU_STAT_HELD : Fld := ⟨31, 16⟩
def F.SFU_STAT_WR_REJECT : Fld := ⟨47, 32⟩
def F.SFU_STAT_UE_COUNT : Fld := ⟨63, 48⟩
def F.SFU_TBL_ADDR_ADDR : Fld := ⟨15, 3⟩
def F.SFU_TBL_DATA_DATA : Fld := ⟨63, 0⟩
def F.GRN_CTL_TBL_NUM : Fld := ⟨15, 0⟩
def F.GRN_CTL_FILL : Fld := ⟨16, 16⟩
def F.GRN_SEED_LO_SEED : Fld := ⟨63, 0⟩
def F.GRN_SEED_HI_SEED : Fld := ⟨63, 0⟩
def F.GRN_MODE_MODE : Fld := ⟨0, 0⟩
def F.GRN_TBL_SEL_BANK : Fld := ⟨0, 0⟩
def F.GRN_TBL_SEL_SEL_N : Fld := ⟨63, 32⟩
def F.GRN_STAT_ACTIVE : Fld := ⟨0, 0⟩
def F.GRN_STAT_PENDING : Fld := ⟨1, 1⟩
def F.GRN_STAT_FILL_BUSY : Fld := ⟨2, 2⟩
def F.GRN_STAT_FILLED_A : Fld := ⟨3, 3⟩
def F.GRN_STAT_FILLED_B : Fld := ⟨4, 4⟩
def F.GRN_STAT_CE : Fld := ⟨5, 5⟩
def F.GRN_STAT_UE : Fld := ⟨6, 6⟩
def F.GRN_STAT_FILL_REJECT : Fld := ⟨31, 16⟩
def F.GRN_STAT_SEL_REJECT : Fld := ⟨47, 32⟩
def F.GRN_STAT_UE_COUNT : Fld := ⟨63, 48⟩
def F.GRN_BEAT_BEAT : Fld := ⟨31, 0⟩
def F.GRN_BANK_0_SEED_LO : Fld := ⟨63, 0⟩
def F.GRN_BANK_1_SEED_HI : Fld := ⟨63, 0⟩
def F.GRN_BANK_2_NUM : Fld := ⟨15, 0⟩
def F.GRN_BANK_3_KEY : Fld := ⟨63, 0⟩
def F.KVC_STAT_PATH_FAULT : Fld := ⟨0, 0⟩
def F.KVC_STAT_FULL : Fld := ⟨1, 1⟩
def F.KVC_STAT_DESC_FAULT : Fld := ⟨2, 2⟩
def F.KVC_STAT_PARENT_RANGE : Fld := ⟨3, 3⟩
def F.KVC_STAT_COMMITS : Fld := ⟨39, 16⟩
def F.KVC_STAT_DISCARDED : Fld := ⟨63, 40⟩
def F.KVC_DESC_0_BASE : Fld := ⟨17, 0⟩
def F.KVC_DESC_0_ESZM1 : Fld := ⟨23, 18⟩
def F.KVC_DESC_0_VALID : Fld := ⟨24, 24⟩
def F.KVC_DESC_0_DESC_N : Fld := ⟨63, 32⟩
def F.KVC_DESC_1_CAP : Fld := ⟨18, 0⟩
def F.KVC_DESC_1_CAP_N : Fld := ⟨63, 32⟩
def F.KVC_DESC_2_LEN : Fld := ⟨18, 0⟩
def F.KVC_DESC_2_LEN_N : Fld := ⟨63, 32⟩
def F.KVC_STAGE_STG : Fld := ⟨17, 0⟩
def F.KVC_STAGE_LAST_NCM1 : Fld := ⟨51, 48⟩
def F.KVC_STAGE_LAST_A : Fld := ⟨56, 52⟩
def F.KVC_STAGE_LAST_FAIL : Fld := ⟨57, 57⟩
def F.MSH_CTL_AUTO_RETIRE : Fld := ⟨0, 0⟩
def F.MSH_CTL_ARM : Fld := ⟨1, 1⟩
def F.MSH_STAT_PENDING : Fld := ⟨0, 0⟩
def F.MSH_STAT_ARM_REJECT : Fld := ⟨1, 1⟩
def F.MSH_STAT_CAUSE : Fld := ⟨4, 2⟩
def F.MSH_STAT_CAUSE_ROW : Fld := ⟨8, 5⟩
def F.MSH_STAT_RETIRE_BUSY : Fld := ⟨9, 9⟩
def F.MSH_STAT_RETIRE_RESULT : Fld := ⟨11, 10⟩
def F.MSH_STAT_NOM_LOST : Fld := ⟨12, 12⟩
def F.MSH_STAT_WR_REJECT : Fld := ⟨31, 16⟩
def F.MSH_DEMOTE_CNT_DEMOTED : Fld := ⟨47, 0⟩
def F.MSH_DEMOTE_LAST_UNIT : Fld := ⟨8, 0⟩
def F.MSH_DEMOTE_LAST_PORT : Fld := ⟨9, 9⟩
def F.MSH_RETIRE_ROW : Fld := ⟨3, 0⟩
def F.MSH_RETIRE_SITE : Fld := ⟨9, 4⟩
def F.MSH_RETIRE_GO : Fld := ⟨10, 10⟩
def F.MSH_RETIRE_STEPS : Fld := ⟨21, 16⟩
def F.MSH_RETIRE_DONE : Fld := ⟨27, 22⟩
def F.MSH_RETIRE_UNITS : Fld := ⟨38, 28⟩
def F.MSH_NOMINATE_ROW : Fld := ⟨3, 0⟩
def F.MSH_NOMINATE_SITE : Fld := ⟨9, 4⟩
def F.MSH_NOMINATE_CAUSE : Fld := ⟨11, 10⟩
def F.MSH_NOMINATE_VALID : Fld := ⟨63, 63⟩
def F.MSH_ROWMAP_U : Fld := ⟨23, 0⟩
def F.MSH_ROWMAP_MAP_N : Fld := ⟨63, 32⟩
def F.MSH_ROWMAP_CUR_U : Fld := ⟨23, 0⟩
def F.MSH_ROWFUSE_U : Fld := ⟨23, 0⟩
def F.MSH_BAD_SITES : Fld := ⟨33, 0⟩
def F.FAB_PORT_CTL_EN : Fld := ⟨0, 0⟩
def F.FAB_PORT_CTL_MODE : Fld := ⟨2, 1⟩
def F.FAB_PORT_CTL_RETRAIN : Fld := ⟨3, 3⟩
def F.FAB_PORT_CTL_SPARE_EN : Fld := ⟨4, 4⟩
def F.FAB_PORT_CTL_LANE_EXCL : Fld := ⟨10, 8⟩
def F.FAB_PORT_STAT_STATE : Fld := ⟨2, 0⟩
def F.FAB_PORT_STAT_NB_MISMATCH : Fld := ⟨3, 3⟩
def F.FAB_PORT_STAT_DEPTH_FAIL : Fld := ⟨4, 4⟩
def F.FAB_PORT_STAT_SPARE_LANE : Fld := ⟨7, 5⟩
def F.FAB_PORT_STAT_LANE_SWAPPED : Fld := ⟨8, 8⟩
def F.FAB_PORT_STAT_TIMEOUT : Fld := ⟨9, 9⟩
def F.FAB_PORT_STAT_NB_POS : Fld := ⟨25, 16⟩
def F.FAB_PORT_STAT_NB_PORT : Fld := ⟨29, 26⟩
def F.FAB_LINK_DEPTH_DEPTH : Fld := ⟨11, 0⟩
def F.FAB_LINK_MEAS_MEAS : Fld := ⟨15, 0⟩
def F.FAB_PORT_DROP_PKEY_DROP : Fld := ⟨15, 0⟩
def F.FAB_PORT_DROP_FEC_UE : Fld := ⟨31, 16⟩
def F.FAB_PORT_DROP_CRC_FAIL : Fld := ⟨47, 32⟩
def F.FAB_PORT_DROP_BAD_DROP : Fld := ⟨63, 48⟩
def F.FAB_RETX_CNT_RESENT : Fld := ⟨31, 0⟩
def F.FAB_RETX_CNT_LOSS_NOTICES : Fld := ⟨47, 32⟩
def F.FAB_ECN_THRESH_PORT_TH : Fld := ⟨7, 0⟩
def F.FAB_ECN_THRESH_MESH_TH : Fld := ⟨11, 8⟩
def F.FAB_ECN_CTL_EN : Fld := ⟨0, 0⟩
def F.FAB_ECN_CTL_DEC : Fld := ⟨3, 1⟩
def F.FAB_ECN_CTL_INC : Fld := ⟨15, 4⟩
def F.FAB_ECN_CTL_MAX : Fld := ⟨31, 16⟩
def F.FAB_JOB_PKEY_PKEY : Fld := ⟨15, 0⟩
def F.FAB_JOB_PKEY_PKEY_N : Fld := ⟨63, 32⟩
def F.FAB_CMAP_CTL_EN : Fld := ⟨0, 0⟩
def F.FAB_CMAP_CTL_EPOCH : Fld := ⟨47, 16⟩
def F.FAB_BYPASS_STAT_OPEN : Fld := ⟨0, 0⟩
def F.FAB_BYPASS_STAT_BYP : Fld := ⟨17, 2⟩
def F.FAB_TRK_STAT_OUT_USED : Fld := ⟨15, 0⟩
def F.FAB_TRK_STAT_IN_USED : Fld := ⟨31, 16⟩
def F.FAB_TRK_STAT_PEAK : Fld := ⟨47, 32⟩
def F.FAB_CMAP_ADDR_WORD : Fld := ⟨11, 0⟩
def F.FAB_CMAP_DATA_CYCLES : Fld := ⟨31, 0⟩
def F.FAB_MANIFEST_DIGEST_DIGEST : Fld := ⟨63, 0⟩
def F.FAB_GROUTE_EXIT_POS : Fld := ⟨3, 0⟩
def F.FAB_GROUTE_EXIT_PORT : Fld := ⟨5, 4⟩
def F.FAB_GROUTE_VALID : Fld := ⟨6, 6⟩
def F.FAB_PKEY_TBL_PKEY : Fld := ⟨15, 0⟩
def F.FAB_PKEY_TBL_VALID : Fld := ⟨16, 16⟩
def F.FAB_PKEY_TBL_PKEY_N : Fld := ⟨63, 32⟩
def F.ROL_CTL_AUTO_FREE : Fld := ⟨0, 0⟩
def F.ROL_CTL_LAYOUT_SET : Fld := ⟨1, 1⟩
def F.ROL_ACTIVE_SEL : Fld := ⟨0, 0⟩
def F.ROL_ACTIVE_SEL_N : Fld := ⟨63, 32⟩
def F.ROL_SWITCH_FRAME_FRAME : Fld := ⟨63, 0⟩
def F.ROL_LOAD_STAT_PHASE : Fld := ⟨2, 0⟩
def F.ROL_LOAD_STAT_DIGEST_FAIL : Fld := ⟨3, 3⟩
def F.ROL_LOAD_STAT_TIMEOUT : Fld := ⟨4, 4⟩
def F.ROL_LOAD_STAT_XFORM_FAIL : Fld := ⟨5, 5⟩
def F.ROL_LOAD_STAT_FALLBACK : Fld := ⟨6, 6⟩
def F.ROL_LOAD_STAT_RESENDS : Fld := ⟨23, 8⟩
def F.ROL_LOAD_STAT_SAT_CNT : Fld := ⟨39, 24⟩
def F.ROL_LOAD_STAT_SHARDS_DONE : Fld := ⟨63, 40⟩
def F.ROL_LOAD_TIMEOUT_MS : Fld := ⟨31, 0⟩
def F.ROL_DESC_A_0_STATE : Fld := ⟨2, 0⟩
def F.ROL_DESC_A_0_CB_SWITCH : Fld := ⟨3, 3⟩
def F.ROL_DESC_A_0_CHANGED : Fld := ⟨16, 8⟩
def F.ROL_DESC_A_ROOT_ROOT : Fld := ⟨63, 0⟩
def F.ROL_DESC_A_MASK_MASK : Fld := ⟨63, 0⟩
def F.ROL_DESC_A_BOUND_BOUND : Fld := ⟨31, 0⟩
def F.ROL_DESC_B_0_STATE : Fld := ⟨2, 0⟩
def F.ROL_DESC_B_0_CB_SWITCH : Fld := ⟨3, 3⟩
def F.ROL_DESC_B_0_CHANGED : Fld := ⟨16, 8⟩
def F.ROL_DESC_B_ROOT_ROOT : Fld := ⟨63, 0⟩
def F.ROL_DESC_B_MASK_MASK : Fld := ⟨63, 0⟩
def F.ROL_DESC_B_BOUND_BOUND : Fld := ⟨31, 0⟩
def F.ROL_ADP_ROOT_DIGEST : Fld := ⟨63, 0⟩
def F.ROL_GROUP_A_FIRST : Fld := ⟨7, 0⟩
def F.ROL_GROUP_COUNTM1 : Fld := ⟨15, 8⟩
def F.ROL_GROUP_B_FIRST : Fld := ⟨23, 16⟩
def F.ROL_GROUP_USED : Fld := ⟨24, 24⟩
def F.ROL_GROUP_HAS_B : Fld := ⟨25, 25⟩
def F.ROL_LAG_LAG : Fld := ⟨15, 0⟩
def F.HIF_STAT_BAD_ACCESS : Fld := ⟨15, 0⟩
def F.HIF_STAT_DB_REJECT : Fld := ⟨31, 16⟩
def F.HIF_STAT_CFG_REJECT : Fld := ⟨47, 32⟩
def F.HIF_STAT_EVENT_LOST : Fld := ⟨63, 48⟩
def F.HIF_TIME_NS : Fld := ⟨63, 0⟩
def F.HIF_DOORBELL_QUEUE : Fld := ⟨12, 0⟩
def F.HIF_DOORBELL_KIND : Fld := ⟨15, 13⟩
def F.HIF_DOORBELL_INDEX : Fld := ⟨63, 32⟩
def F.HIF_Q_SEL_QUEUE : Fld := ⟨12, 0⟩
def F.HIF_Q_BASE_ADDR : Fld := ⟨63, 12⟩
def F.HIF_Q_CQ_ADDR : Fld := ⟨63, 12⟩
def F.HIF_Q_RES_ADDR : Fld := ⟨63, 12⟩
def F.HIF_Q_CFG_SQSZ : Fld := ⟨3, 0⟩
def F.HIF_Q_CFG_CQSZ : Fld := ⟨7, 4⟩
def F.HIF_Q_CFG_RSZ : Fld := ⟨11, 8⟩
def F.HIF_Q_CFG_FUNC : Fld := ⟨18, 12⟩
def F.HIF_Q_CFG_PKEY : Fld := ⟨34, 19⟩
def F.HIF_Q_CFG_CUE : Fld := ⟨37, 35⟩
def F.HIF_Q_CFG_RMODE : Fld := ⟨38, 38⟩
def F.HIF_Q_CFG_VEC : Fld := ⟨49, 39⟩
def F.HIF_Q_CFG_IEN : Fld := ⟨50, 50⟩
def F.HIF_Q_CFG_EN : Fld := ⟨51, 51⟩
def F.HIF_Q_STAT_SQ_HEAD : Fld := ⟨15, 0⟩
def F.HIF_Q_STAT_SQ_TAIL : Fld := ⟨31, 16⟩
def F.HIF_Q_STAT_CQ_HEAD : Fld := ⟨47, 32⟩
def F.HIF_Q_STAT_CQ_TAIL : Fld := ⟨63, 48⟩
def F.HIF_Q_RSTAT_RES_HEAD : Fld := ⟨31, 0⟩
def F.HIF_Q_RSTAT_RES_TAIL : Fld := ⟨63, 32⟩
def F.HIF_RESULT_WIN_NOT_READY_CNT : Fld := ⟨31, 0⟩
def F.HIF_RESULT_WIN_REREAD_CNT : Fld := ⟨63, 32⟩
def F.HIF_TILE_WIN_TILE : Fld := ⟨8, 0⟩
def F.HIF_ADM_NSLOT : Fld := ⟨8, 0⟩
def F.HIF_ADM_ADP : Fld := ⟨9, 9⟩
def F.HIF_ADM_STAT_OPEN : Fld := ⟨8, 0⟩
def F.HIF_ADM_STAT_ACCEPTED : Fld := ⟨39, 16⟩
def F.HIF_ADM_STAT_DEADLINE_FAULTS : Fld := ⟨63, 40⟩
def F.HIF_CLASS_0_FIXED : Fld := ⟨23, 0⟩
def F.HIF_CLASS_0_PER_UNIT : Fld := ⟨47, 24⟩
def F.HIF_CLASS_0_VALID : Fld := ⟨63, 63⟩
def F.HIF_CLASS_1_MAX_UNITS : Fld := ⟨31, 0⟩
def F.HIF_REQ_AREA_0_IN_ADDR : Fld := ⟨63, 0⟩
def F.HIF_REQ_AREA_1_RES_ADDR : Fld := ⟨63, 0⟩
def F.HIF_REQ_AREA_2_RES_GRAN : Fld := ⟨5, 0⟩
def F.AUD_CTL_CLAP_DELAY : Fld := ⟨19, 0⟩
def F.AUD_CTL_CLAP_TIMEOUT : Fld := ⟨31, 20⟩
def F.AUD_BITKEY_KEY : Fld := ⟨63, 0⟩
def F.AUD_KEY_SRC_STEPPING : Fld := ⟨15, 0⟩
def F.AUD_KEY_SRC_GRADE : Fld := ⟨31, 16⟩
def F.AUD_KEY_SRC_ARITH : Fld := ⟨47, 32⟩
def F.AUD_KEY_SRC_COMPAT : Fld := ⟨48, 48⟩
def F.AUD_XLATE_VER_VERSION : Fld := ⟨31, 0⟩
def F.AUD_REPLAY_CTL_EN : Fld := ⟨0, 0⟩
def F.AUD_REPLAY_CTL_FULL : Fld := ⟨1, 1⟩
def F.AUD_REPLAY_CTL_NEXT : Fld := ⟨2, 2⟩
def F.AUD_REPLAY_CTL_REPLAYING : Fld := ⟨3, 3⟩
def F.AUD_REPLAY_STAT_ENTRIES : Fld := ⟨31, 0⟩
def F.AUD_REPLAY_STAT_STALLS : Fld := ⟨63, 32⟩
def F.AUD_CLAP_STAT_SEQ : Fld := ⟨31, 0⟩
def F.AUD_CLAP_STAT_SUB : Fld := ⟨34, 32⟩
def F.AUD_CLAP_STAT_TIMEOUT : Fld := ⟨35, 35⟩
def F.AUD_CLAP_STAT_MISSING : Fld := ⟨45, 36⟩
def F.AUD_CTX_KEEP_FIRST : Fld := ⟨12, 0⟩
def F.AUD_CTX_KEEP_COUNT : Fld := ⟨25, 13⟩
def F.AUD_STAT_SAVING : Fld := ⟨0, 0⟩
def F.AUD_STAT_RESTORING : Fld := ⟨1, 1⟩
def F.AUD_STAT_RECORDS : Fld := ⟨47, 16⟩
def F.CLK_CTL_AUTO_DOWN : Fld := ⟨0, 0⟩
def F.CLK_CTL_LEAD_US : Fld := ⟨31, 16⟩
def F.CLK_STEP_STEP : Fld := ⟨6, 0⟩
def F.CLK_STEP_STEP_N : Fld := ⟨63, 32⟩
def F.CLK_CHANGE_FRAME_FRAME : Fld := ⟨63, 0⟩
def F.CLK_CUR_STEP : Fld := ⟨6, 0⟩
def F.CLK_CUR_SYNTH : Fld := ⟨7, 7⟩
def F.CLK_STAT_WARN : Fld := ⟨0, 0⟩
def F.CLK_STAT_CRIT : Fld := ⟨1, 1⟩
def F.CLK_STAT_REF_LOST : Fld := ⟨2, 2⟩
def F.CLK_STAT_LOCK_LATE : Fld := ⟨3, 3⟩
def F.CLK_STAT_REPLAN : Fld := ⟨4, 4⟩
def F.CLK_STAT_WR_REJECT : Fld := ⟨31, 16⟩
def F.CLK_FMAX_OWN_STEP : Fld := ⟨6, 0⟩
def F.CLK_FMAX_DOMAIN_STEP : Fld := ⟨14, 8⟩
def F.CLK_FMAX_LIMIT_POS : Fld := ⟨25, 16⟩
def F.CLK_FMAX_LIMIT_REGION : Fld := ⟨31, 26⟩
def F.CLK_FMAX_XQ_STEP : Fld := ⟨38, 32⟩
def F.CLK_SLOW_LAST_REGION : Fld := ⟨5, 0⟩
def F.CLK_SLOW_LAST_CRIT : Fld := ⟨6, 6⟩
def F.CLK_SLOW_LAST_SLACK : Fld := ⟨31, 16⟩
def F.CLK_SLOW_LAST_SECONDS : Fld := ⟨63, 32⟩
def F.CLK_AGE_FORECAST_HOURS : Fld := ⟨31, 0⟩
def F.CLK_AGE_FORECAST_EOL_STEP : Fld := ⟨38, 32⟩
def F.CLK_CANARY_SLACK_NOW : Fld := ⟨15, 0⟩
def F.CLK_CANARY_SLACK_MIN : Fld := ⟨31, 16⟩
def F.CLK_VF_VNOM : Fld := ⟨11, 0⟩
def F.CLK_VF_VEFF : Fld := ⟨23, 12⟩
def F.CLK_VF_AGE_ADD : Fld := ⟨31, 24⟩
def F.CLK_VF_AGE_MAX : Fld := ⟨39, 32⟩
def F.PWR_CTL_DROP_OFF : Fld := ⟨9, 0⟩
def F.PWR_CTL_WAKE_HOLD : Fld := ⟨31, 16⟩
def F.PWR_CTL_CUE_EN : Fld := ⟨32, 32⟩
def F.PWR_STATE_STATE : Fld := ⟨19, 0⟩
def F.PWR_STATE_TRANSIT : Fld := ⟨29, 20⟩
def F.PWR_STAT_RECOVERY : Fld := ⟨0, 0⟩
def F.PWR_STAT_LIMIT_HIT : Fld := ⟨1, 1⟩
def F.PWR_STAT_THERMAL : Fld := ⟨2, 2⟩
def F.PWR_STAT_VOTE_REFUSED : Fld := ⟨3, 3⟩
def F.PWR_STAT_RECOVERIES : Fld := ⟨31, 16⟩
def F.PWR_REFUSE_CNT_COUNT : Fld := ⟨31, 0⟩
def F.PWR_REFUSE_LAST_DOMAIN : Fld := ⟨3, 0⟩
def F.PWR_REFUSE_LAST_WHO : Fld := ⟨7, 4⟩
def F.PWR_REFUSE_LAST_ABORT : Fld := ⟨8, 8⟩
def F.PWR_REFUSE_LAST_NS : Fld := ⟨63, 16⟩
def F.PWR_WAKE_SRC_CUE : Fld := ⟨0, 0⟩
def F.PWR_WAKE_SRC_LINK : Fld := ⟨1, 1⟩
def F.PWR_WAKE_SRC_HOST : Fld := ⟨2, 2⟩
def F.PWR_WAKE_SRC_I3C : Fld := ⟨3, 3⟩
def F.PWR_WAKE_SRC_PORT : Fld := ⟨11, 8⟩
def F.PWR_LIMIT_SUSTAIN : Fld := ⟨15, 0⟩
def F.PWR_LIMIT_PEAK : Fld := ⟨31, 16⟩
def F.PWR_IN_POWER : Fld := ⟨15, 0⟩
def F.PWR_IN_VOLTS : Fld := ⟨31, 16⟩
def F.PWR_IN_TJ_MAX : Fld := ⟨47, 32⟩
def F.PWR_VOTE_SLOTS : Fld := ⟨31, 0⟩
def F.CAL_FACTORY_DATA : Fld := ⟨63, 0⟩
def F.CAL_USER_DATA : Fld := ⟨63, 0⟩
def F.CAL_EFFECTIVE_DATA : Fld := ⟨63, 0⟩
def F.CAL_STAT_USER_BAD : Fld := ⟨0, 0⟩
def F.CAL_STAT_USER_PENDING : Fld := ⟨1, 1⟩
def F.CAL_STAT_CLAMPED : Fld := ⟨31, 16⟩
def F.DBG_CTL_PROBE : Fld := ⟨0, 0⟩
def F.DBG_STAT_TRIG_FREEZE : Fld := ⟨0, 0⟩
def F.DBG_STAT_JTAG_REFUSED : Fld := ⟨31, 16⟩
def F.DBG_TEST_CTL_AUTO_EN : Fld := ⟨0, 0⟩
def F.DBG_TEST_CTL_AUTO_INTERVAL : Fld := ⟨4, 1⟩
def F.DBG_TEST_CTL_NOMINATE : Fld := ⟨5, 5⟩
def F.DBG_TEST_STAT_TEST : Fld := ⟨7, 0⟩
def F.DBG_TEST_STAT_TILE : Fld := ⟨16, 8⟩
def F.DBG_TEST_STAT_AUTO_UNITS : Fld := ⟨47, 32⟩
def F.DBG_TEST_STAT_FAILS : Fld := ⟨63, 48⟩
def F.DBG_TRIG_TIME_NS : Fld := ⟨63, 0⟩
def F.DBG_MUX_SIG : Fld := ⟨7, 0⟩
def F.DBG_MUX_UNIT : Fld := ⟨16, 8⟩
def F.DBG_TRIG_DIR : Fld := ⟨0, 0⟩
def F.DBG_TRIG_ACT : Fld := ⟨2, 1⟩
def F.DBG_TRIG_SIG : Fld := ⟨15, 8⟩
def F.DBG_TRIG_UNIT : Fld := ⟨24, 16⟩
def F.MOD_ID_SERIAL : Fld := ⟨63, 0⟩
def F.MOD_ROLE_POSITION : Fld := ⟨9, 0⟩
def F.MOD_ROLE_ROLE : Fld := ⟨11, 10⟩
def F.MOD_ROLE_TAKEN_OVER : Fld := ⟨12, 12⟩
def F.MOD_BYPASS_AUTO : Fld := ⟨0, 0⟩
def F.MOD_BYPASS_OPEN_REQ : Fld := ⟨1, 1⟩
def F.MOD_BYPASS_CLOSE : Fld := ⟨2, 2⟩
def F.MOD_BYPASS_OPEN : Fld := ⟨8, 8⟩
def F.MOD_BYPASS_GRANT_WAIT : Fld := ⟨9, 9⟩
def F.MOD_BYPASS_LANE4_OPEN : Fld := ⟨10, 10⟩
def F.MOD_STAT_STEP : Fld := ⟨3, 0⟩
def F.MOD_STAT_READY : Fld := ⟨4, 4⟩
def F.MOD_STAT_STEP_FAIL : Fld := ⟨5, 5⟩
def F.MOD_STAT_TRIP : Fld := ⟨6, 6⟩
def F.MOD_STAT_RAIL_FAULT : Fld := ⟨7, 7⟩
def F.MOD_STAT_FAULT_RAIL : Fld := ⟨10, 8⟩
def F.MOD_STAT_WARM : Fld := ⟨11, 11⟩
def F.MOD_ALERT_THERMAL : Fld := ⟨0, 0⟩
def F.MOD_ALERT_LIMIT : Fld := ⟨1, 1⟩
def F.MOD_ALERT_TRIP : Fld := ⟨2, 2⟩
def F.MOD_ALERT_RAIL : Fld := ⟨3, 3⟩
def F.MOD_ALERT_VIN : Fld := ⟨4, 4⟩
def F.MOD_ALERT_SENSOR : Fld := ⟨5, 5⟩
def F.MOD_ALERT_EVENT : Fld := ⟨6, 6⟩
def F.MOD_ALERT_EN_THERMAL : Fld := ⟨0, 0⟩
def F.MOD_ALERT_EN_LIMIT : Fld := ⟨1, 1⟩
def F.MOD_ALERT_EN_TRIP : Fld := ⟨2, 2⟩
def F.MOD_ALERT_EN_RAIL : Fld := ⟨3, 3⟩
def F.MOD_ALERT_EN_VIN : Fld := ⟨4, 4⟩
def F.MOD_ALERT_EN_SENSOR : Fld := ⟨5, 5⟩
def F.MOD_ALERT_EN_EVENT : Fld := ⟨6, 6⟩
def F.MOD_BOOT_PREFER : Fld := ⟨0, 0⟩
def F.MOD_BOOT_RUNNING : Fld := ⟨1, 1⟩
def F.MOD_BOOT_FALLBACK : Fld := ⟨2, 2⟩
def F.MOD_BOOT_SPI_REPAIRED : Fld := ⟨3, 3⟩
def F.MOD_TW_REJECT_CNT_COUNT : Fld := ⟨31, 0⟩

/-- The FRM block. -/
def regsFRM : List RegDef := [
  ⟨"FRM_CTL", 0x0, [], [⟨"RUN", 0, 0, .ro, 0x0⟩, ⟨"FROZEN", 1, 1, .ro, 0x0⟩, ⟨"SLACK_WIN", 7, 4, .rw, 0x4⟩, ⟨"OVERRUN_ALERT", 8, 8, .rw, 0x1⟩, ⟨"STARVED_ALERT", 9, 9, .rw, 0x1⟩]⟩,
  ⟨"FRM_LEN", 0x8, [], [⟨"LEN", 31, 0, .tw, 0x1000⟩, ⟨"LEN_N", 63, 32, .tw, 0xffffefff⟩]⟩,
  ⟨"FRM_COUNT", 0x10, [], [⟨"COUNT", 63, 0, .ro, 0x0⟩]⟩,
  ⟨"FRM_STRETCH_MAX", 0x18, [], [⟨"CYCLES", 23, 0, .rw, 0x0⟩]⟩,
  ⟨"FRM_STRETCH_CNT", 0x20, [], [⟨"STRETCHED", 31, 0, .ro, 0x0⟩, ⟨"OVERRUNS", 63, 32, .ro, 0x0⟩]⟩,
  ⟨"FRM_SLACK_MIN", 0x28, [], [⟨"SLACK", 31, 0, .ro, 0x0⟩, ⟨"TILE", 40, 32, .ro, 0x0⟩]⟩,
  ⟨"FRM_SKEW_MAX", 0x30, [], [⟨"CYCLES", 23, 0, .rw, 0x0⟩]⟩,
  ⟨"FRM_REALIGN_THRESH", 0x38, [], [⟨"CYCLES", 23, 0, .rw, 0x0⟩]⟩,
  ⟨"FRM_MAINT_SLICE", 0x40, [], [⟨"FRAC", 4, 0, .rw, 0x4⟩]⟩,
  ⟨"FRM_LAG", 0x48, [], [⟨"VALUE", 31, 0, .ro, 0x0⟩]⟩,
  ⟨"FRM_MAINT_SHORT_CNT", 0x50, [], [⟨"VALUE", 31, 0, .ro, 0x0⟩]⟩,
  ⟨"FRM_FAULT", 0x58, [], [⟨"OVERRUN", 0, 0, .w1c, 0x0⟩, ⟨"STARVED", 1, 1, .w1c, 0x0⟩, ⟨"SKEW", 2, 2, .w1c, 0x0⟩, ⟨"SLICE_SMALL", 3, 3, .w1c, 0x0⟩, ⟨"SMALL_KIND", 6, 4, .ro, 0x0⟩]⟩,
  ⟨"FRM_STARVED_ADDR", 0x60, [], [⟨"ADDR", 63, 0, .ro, 0x0⟩]⟩,
  ⟨"FRM_REALIGN_FRAME", 0x68, [], [⟨"FRAME", 63, 0, .ro, 0x0⟩]⟩
]

/-- The SPK block. -/
def regsSPK : List RegDef := [
  ⟨"SPK_BASE_A", 0x1000, [], [⟨"PAGE", 17, 12, .rw, 0⟩]⟩,
  ⟨"SPK_BASE_B", 0x1008, [], [⟨"PAGE", 17, 12, .rw, 0x20⟩]⟩,
  ⟨"SPK_SEL", 0x1010, [], [⟨"BANK", 0, 0, .tw, 0x0⟩, ⟨"RSV", 31, 1, .tw, 0⟩, ⟨"SEL_N", 63, 32, .tw, 0xffffffff⟩]⟩,
  ⟨"SPK_MISS_CNT", 0x1018, [], [⟨"MISS", 31, 0, .ro, 0x0⟩, ⟨"COLLIDE", 63, 32, .ro, 0x0⟩]⟩,
  ⟨"SPK_TBL_ADDR", 0x1020, [], [⟨"ADDR", 17, 3, .rw, 0x0⟩]⟩,
  ⟨"SPK_TBL_DATA", 0x1028, [], [⟨"DATA", 63, 0, .rw, 0x0⟩]⟩,
  ⟨"SPK_STAT", 0x1030, [], [⟨"ACTIVE", 0, 0, .ro, 0x0⟩, ⟨"PENDING", 1, 1, .ro, 0x0⟩, ⟨"WR_REJECT", 31, 16, .ro, 0x0⟩]⟩
]

/-- The TIR block. -/
def regsTIR : List RegDef := [
  ⟨"TIR_ECC_STAT", 0xa0000, [], [⟨"CE", 0, 0, .w1c, 0x0⟩, ⟨"UE_WEIGHT", 1, 1, .w1c, 0x0⟩, ⟨"UE_DATA", 2, 2, .w1c, 0x0⟩, ⟨"HARD", 3, 3, .w1c, 0x0⟩, ⟨"SCRUB_LATE", 4, 4, .w1c, 0x0⟩, ⟨"CE_COUNT", 47, 16, .ro, 0x0⟩, ⟨"UE_DATA_CNT", 63, 48, .ro, 0x0⟩]⟩,
  ⟨"TIR_ERR_ADDR", 0xa0008, [], [⟨"ADDR", 63, 0, .ro, 0x0⟩]⟩,
  ⟨"TIR_SCRUB_CTL", 0xa0010, [], [⟨"EN", 0, 0, .rw, 0x1⟩, ⟨"INTERVAL", 4, 1, .rw, 0xa⟩]⟩,
  ⟨"TIR_SCRUB_STAT", 0xa0018, [], [⟨"PASSES", 31, 0, .ro, 0x0⟩, ⟨"MIN_UNIT", 40, 32, .ro, 0x0⟩, ⟨"MIN_TILE", 49, 41, .ro, 0x0⟩]⟩,
  ⟨"TIR_REFETCH_CNT", 0xa0020, [], [⟨"REFETCHES", 31, 0, .ro, 0x0⟩, ⟨"HARD_LINES", 47, 32, .ro, 0x0⟩, ⟨"QUEUE_PEAK", 54, 48, .ro, 0x0⟩]⟩,
  ⟨"TIR_BANK_WAIT", 0xa0028, [], [⟨"READ_WAIT", 31, 0, .ro, 0x0⟩, ⟨"WRITE_WAIT", 63, 32, .ro, 0x0⟩]⟩,
  ⟨"TIR_CLASS_ADDR", 0xa0030, [], [⟨"ADDR", 13, 3, .rw, 0x0⟩]⟩,
  ⟨"TIR_CLASS_DATA", 0xa0038, [], [⟨"DATA", 63, 0, .rw, 0x0⟩]⟩,
  ⟨"TIR_INJECT", 0xa0040, [], [⟨"TILE", 8, 0, .rw, 0x0⟩, ⟨"SYMS", 11, 9, .rw, 0x1⟩, ⟨"ARM", 16, 16, .rw, 0x0⟩]⟩
]

/-- The MSH block. MSH_BAD is fused with no number in the spec: 0, no bad site (DESIGN CHOICE, log entry 2). -/
def regsMSH : List RegDef := [
  ⟨"MSH_CTL", 0x2000, [], [⟨"AUTO_RETIRE", 0, 0, .rw, 0x1⟩, ⟨"ARM", 1, 1, .wo, 0x0⟩]⟩,
  ⟨"MSH_STAT", 0x2008, [], [⟨"PENDING", 0, 0, .ro, 0x0⟩, ⟨"ARM_REJECT", 1, 1, .w1c, 0x0⟩, ⟨"CAUSE", 4, 2, .ro, 0x0⟩, ⟨"CAUSE_ROW", 8, 5, .ro, 0x0⟩, ⟨"RETIRE_BUSY", 9, 9, .ro, 0x0⟩, ⟨"RETIRE_RESULT", 11, 10, .ro, 0x0⟩, ⟨"NOM_LOST", 12, 12, .w1c, 0x0⟩, ⟨"WR_REJECT", 31, 16, .ro, 0x0⟩]⟩,
  ⟨"MSH_DEMOTE_CNT", 0x2010, [], [⟨"DEMOTED", 47, 0, .ro, 0x0⟩]⟩,
  ⟨"MSH_DEMOTE_LAST", 0x2018, [], [⟨"UNIT", 8, 0, .ro, 0x0⟩, ⟨"PORT", 9, 9, .ro, 0x0⟩]⟩,
  ⟨"MSH_RETIRE", 0x2020, [], [⟨"ROW", 3, 0, .rw, 0x0⟩, ⟨"SITE", 9, 4, .rw, 0x0⟩, ⟨"GO", 10, 10, .wo, 0x0⟩, ⟨"STEPS", 21, 16, .ro, 0x0⟩, ⟨"DONE", 27, 22, .ro, 0x0⟩, ⟨"UNITS", 38, 28, .ro, 0x0⟩]⟩,
  ⟨"MSH_NOMINATE", 0x2040, [(8, 8)], [⟨"ROW", 3, 0, .ro, 0x0⟩, ⟨"SITE", 9, 4, .ro, 0x0⟩, ⟨"CAUSE", 11, 10, .ro, 0x0⟩, ⟨"VALID", 63, 63, .w1c, 0x0⟩]⟩,
  ⟨"MSH_ROWMAP", 0x2100, [(16, 8)], [⟨"U", 23, 0, .tw, rowMapReset⟩, ⟨"RSV", 31, 24, .tw, 0⟩, ⟨"MAP_N", 63, 32, .tw, rowMapResetN⟩]⟩,
  ⟨"MSH_ROWMAP_CUR", 0x2180, [(16, 8)], [⟨"U", 23, 0, .ro, rowMapReset⟩]⟩,
  ⟨"MSH_ROWFUSE", 0x2200, [(16, 8)], [⟨"U", 23, 0, .ro, rowMapReset⟩]⟩,
  ⟨"MSH_BAD", 0x2280, [(16, 8)], [⟨"SITES", 33, 0, .ro, 0⟩]⟩
]

/-- The FAB block. -/
def regsFAB : List RegDef := [
  ⟨"FAB_PORT_CTL", 0x10000, [(14, 8)], [⟨"EN", 0, 0, .rw, 0x1⟩, ⟨"MODE", 2, 1, .rw, 0x0⟩, ⟨"RETRAIN", 3, 3, .wo, 0x0⟩, ⟨"SPARE_EN", 4, 4, .rw, 0x1⟩, ⟨"LANE_EXCL", 10, 8, .rw, 0x7⟩]⟩,
  ⟨"FAB_PORT_STAT", 0x10080, [(14, 8)], [⟨"STATE", 2, 0, .ro, 0x0⟩, ⟨"NB_MISMATCH", 3, 3, .w1c, 0x0⟩, ⟨"DEPTH_FAIL", 4, 4, .w1c, 0x0⟩, ⟨"SPARE_LANE", 7, 5, .ro, 0x0⟩, ⟨"LANE_SWAPPED", 8, 8, .w1c, 0x0⟩, ⟨"TIMEOUT", 9, 9, .w1c, 0x0⟩, ⟨"NB_POS", 25, 16, .ro, 0x0⟩, ⟨"NB_PORT", 29, 26, .ro, 0x0⟩]⟩,
  ⟨"FAB_LINK_DEPTH", 0x10100, [(14, 8)], [⟨"DEPTH", 11, 0, .rw, 0x0⟩]⟩,
  ⟨"FAB_LINK_MEAS", 0x10180, [(14, 8)], [⟨"MEAS", 15, 0, .ro, 0x0⟩]⟩,
  ⟨"FAB_PORT_DROP", 0x10200, [(14, 8)], [⟨"PKEY_DROP", 15, 0, .ro, 0x0⟩, ⟨"FEC_UE", 31, 16, .ro, 0x0⟩, ⟨"CRC_FAIL", 47, 32, .ro, 0x0⟩, ⟨"BAD_DROP", 63, 48, .ro, 0x0⟩]⟩,
  ⟨"FAB_RETX_CNT", 0x10280, [(14, 8)], [⟨"RESENT", 31, 0, .ro, 0x0⟩, ⟨"LOSS_NOTICES", 47, 32, .ro, 0x0⟩]⟩,
  ⟨"FAB_ECN_THRESH", 0x10300, [], [⟨"PORT_TH", 7, 0, .rw, 0x40⟩, ⟨"MESH_TH", 11, 8, .rw, 0x6⟩]⟩,
  ⟨"FAB_ECN_CTL", 0x10308, [], [⟨"EN", 0, 0, .rw, 0x1⟩, ⟨"DEC", 3, 1, .rw, 0x3⟩, ⟨"INC", 15, 4, .rw, 0x4⟩, ⟨"MAX", 31, 16, .rw, 0x300⟩]⟩,
  ⟨"FAB_JOB_PKEY", 0x10310, [], [⟨"PKEY", 15, 0, .tw, 0x0⟩, ⟨"RSV", 31, 16, .tw, 0⟩, ⟨"PKEY_N", 63, 32, .tw, 0xffffffff⟩]⟩,
  ⟨"FAB_CMAP_CTL", 0x10318, [], [⟨"EN", 0, 0, .rw, 0x1⟩, ⟨"EPOCH", 47, 16, .ro, 0x0⟩]⟩,
  ⟨"FAB_BYPASS_STAT", 0x10320, [], [⟨"OPEN", 0, 0, .ro, 0x0⟩, ⟨"BYP", 17, 2, .ro, 0x0⟩]⟩,
  ⟨"FAB_TRK_STAT", 0x10328, [], [⟨"OUT_USED", 15, 0, .ro, 0x0⟩, ⟨"IN_USED", 31, 16, .ro, 0x0⟩, ⟨"PEAK", 47, 32, .ro, 0x0⟩]⟩,
  ⟨"FAB_CMAP_ADDR", 0x10330, [], [⟨"WORD", 11, 0, .rw, 0x0⟩]⟩,
  ⟨"FAB_CMAP_DATA", 0x10338, [], [⟨"CYCLES", 31, 0, .ro, 0x0⟩]⟩,
  ⟨"FAB_MANIFEST_DIGEST", 0x10340, [(4, 8)], [⟨"DIGEST", 63, 0, .ro, 0x0⟩]⟩,
  ⟨"FAB_GROUTE", 0x10400, [(64, 8)], [⟨"EXIT_POS", 3, 0, .rw, 0x0⟩, ⟨"EXIT_PORT", 5, 4, .rw, 0x0⟩, ⟨"VALID", 6, 6, .rw, 0x0⟩]⟩,
  ⟨"FAB_PKEY_TBL", 0x11000, [(14, 512), (64, 8)], [⟨"PKEY", 15, 0, .tw, 0x0⟩, ⟨"VALID", 16, 16, .tw, 0x0⟩, ⟨"RSV", 31, 17, .tw, 0⟩, ⟨"PKEY_N", 63, 32, .tw, 0xffffffff⟩]⟩
]

/-- The ROL block. -/
def regsROL : List RegDef := [
  ⟨"ROL_CTL", 0x20000, [], [⟨"AUTO_FREE", 0, 0, .rw, 0x1⟩, ⟨"LAYOUT_SET", 1, 1, .ro, 0x0⟩]⟩,
  ⟨"ROL_ACTIVE", 0x20008, [], [⟨"SEL", 0, 0, .tw, 0x0⟩, ⟨"RSV", 31, 1, .tw, 0⟩, ⟨"SEL_N", 63, 32, .tw, 0xffffffff⟩]⟩,
  ⟨"ROL_SWITCH_FRAME", 0x20010, [], [⟨"FRAME", 63, 0, .ro, 0x0⟩]⟩,
  ⟨"ROL_LOAD_STAT", 0x20018, [], [⟨"PHASE", 2, 0, .ro, 0x0⟩, ⟨"DIGEST_FAIL", 3, 3, .w1c, 0x0⟩, ⟨"TIMEOUT", 4, 4, .w1c, 0x0⟩, ⟨"XFORM_FAIL", 5, 5, .w1c, 0x0⟩, ⟨"FALLBACK", 6, 6, .w1c, 0x0⟩, ⟨"RESENDS", 23, 8, .ro, 0x0⟩, ⟨"SAT_CNT", 39, 24, .ro, 0x0⟩, ⟨"SHARDS_DONE", 63, 40, .ro, 0x0⟩]⟩,
  ⟨"ROL_LOAD_TIMEOUT", 0x20020, [], [⟨"MS", 31, 0, .rw, 0x493e0⟩]⟩,
  ⟨"ROL_DESC_A_0", 0x20100, [], [⟨"STATE", 2, 0, .ro, 0x0⟩, ⟨"CB_SWITCH", 3, 3, .ro, 0x0⟩, ⟨"CHANGED", 16, 8, .ro, 0x0⟩]⟩,
  ⟨"ROL_DESC_A_ROOT", 0x20108, [(4, 8)], [⟨"ROOT", 63, 0, .ro, 0x0⟩]⟩,
  ⟨"ROL_DESC_A_MASK", 0x20128, [(4, 8)], [⟨"MASK", 63, 0, .ro, 0x0⟩]⟩,
  ⟨"ROL_DESC_A_BOUND", 0x20148, [], [⟨"BOUND", 31, 0, .ro, 0x0⟩]⟩,
  ⟨"ROL_DESC_B_0", 0x20180, [], [⟨"STATE", 2, 0, .ro, 0x0⟩, ⟨"CB_SWITCH", 3, 3, .ro, 0x0⟩, ⟨"CHANGED", 16, 8, .ro, 0x0⟩]⟩,
  ⟨"ROL_DESC_B_ROOT", 0x20188, [(4, 8)], [⟨"ROOT", 63, 0, .ro, 0x0⟩]⟩,
  ⟨"ROL_DESC_B_MASK", 0x201a8, [(4, 8)], [⟨"MASK", 63, 0, .ro, 0x0⟩]⟩,
  ⟨"ROL_DESC_B_BOUND", 0x201c8, [], [⟨"BOUND", 31, 0, .ro, 0x0⟩]⟩,
  ⟨"ROL_ADP_ROOT", 0x20400, [(32, 32), (4, 8)], [⟨"DIGEST", 63, 0, .ro, 0x0⟩]⟩,
  ⟨"ROL_GROUP", 0x20800, [(256, 8)], [⟨"A_FIRST", 7, 0, .ro, 0x0⟩, ⟨"COUNTM1", 15, 8, .ro, 0x0⟩, ⟨"B_FIRST", 23, 16, .ro, 0x0⟩, ⟨"USED", 24, 24, .ro, 0x0⟩, ⟨"HAS_B", 25, 25, .ro, 0x0⟩]⟩,
  ⟨"ROL_LAG", 0x21000, [(512, 8)], [⟨"LAG", 15, 0, .rw, 0x0⟩]⟩
]

/-- The HIF block. -/
def regsHIF : List RegDef := [
  ⟨"HIF_STAT", 0x30000, [], [⟨"BAD_ACCESS", 15, 0, .ro, 0x0⟩, ⟨"DB_REJECT", 31, 16, .ro, 0x0⟩, ⟨"CFG_REJECT", 47, 32, .ro, 0x0⟩, ⟨"EVENT_LOST", 63, 48, .ro, 0x0⟩]⟩,
  ⟨"HIF_TIME", 0x30008, [], [⟨"NS", 63, 0, .ro, 0x0⟩]⟩,
  ⟨"HIF_DOORBELL", 0x30010, [], [⟨"QUEUE", 12, 0, .wo, 0x0⟩, ⟨"KIND", 15, 13, .wo, 0x0⟩, ⟨"INDEX", 63, 32, .wo, 0x0⟩]⟩,
  ⟨"HIF_Q_SEL", 0x30018, [], [⟨"QUEUE", 12, 0, .rw, 0x0⟩]⟩,
  ⟨"HIF_Q_BASE", 0x30020, [], [⟨"ADDR", 63, 12, .rw, 0x0⟩]⟩,
  ⟨"HIF_Q_CQ", 0x30028, [], [⟨"ADDR", 63, 12, .rw, 0x0⟩]⟩,
  ⟨"HIF_Q_RES", 0x30030, [], [⟨"ADDR", 63, 12, .rw, 0x0⟩]⟩,
  ⟨"HIF_Q_CFG", 0x30038, [], [⟨"SQSZ", 3, 0, .rw, 0x0⟩, ⟨"CQSZ", 7, 4, .rw, 0x0⟩, ⟨"RSZ", 11, 8, .rw, 0x0⟩, ⟨"FUNC", 18, 12, .rw, 0x0⟩, ⟨"PKEY", 34, 19, .rw, 0x0⟩, ⟨"CUE", 37, 35, .rw, 0x0⟩, ⟨"RMODE", 38, 38, .rw, 0x0⟩, ⟨"VEC", 49, 39, .rw, 0x0⟩, ⟨"IEN", 50, 50, .rw, 0x0⟩, ⟨"EN", 51, 51, .rw, 0x0⟩]⟩,
  ⟨"HIF_Q_STAT", 0x30040, [], [⟨"SQ_HEAD", 15, 0, .ro, 0x0⟩, ⟨"SQ_TAIL", 31, 16, .ro, 0x0⟩, ⟨"CQ_HEAD", 47, 32, .ro, 0x0⟩, ⟨"CQ_TAIL", 63, 48, .ro, 0x0⟩]⟩,
  ⟨"HIF_Q_RSTAT", 0x30048, [], [⟨"RES_HEAD", 31, 0, .ro, 0x0⟩, ⟨"RES_TAIL", 63, 32, .ro, 0x0⟩]⟩,
  ⟨"HIF_RESULT_WIN", 0x30050, [], [⟨"NOT_READY_CNT", 31, 0, .ro, 0x0⟩, ⟨"REREAD_CNT", 63, 32, .ro, 0x0⟩]⟩,
  ⟨"HIF_TILE_WIN", 0x30058, [], [⟨"TILE", 8, 0, .rw, 0x0⟩]⟩,
  ⟨"HIF_ADM", 0x30060, [], [⟨"NSLOT", 8, 0, .rw, 0x0⟩, ⟨"ADP", 9, 9, .rw, 0x0⟩]⟩,
  ⟨"HIF_ADM_STAT", 0x30068, [], [⟨"OPEN", 8, 0, .ro, 0x0⟩, ⟨"ACCEPTED", 39, 16, .ro, 0x0⟩, ⟨"DEADLINE_FAULTS", 63, 40, .ro, 0x0⟩]⟩,
  ⟨"HIF_CLASS_0", 0x30100, [(64, 16)], [⟨"FIXED", 23, 0, .rw, 0x0⟩, ⟨"PER_UNIT", 47, 24, .rw, 0x0⟩, ⟨"VALID", 63, 63, .rw, 0x0⟩]⟩,
  ⟨"HIF_CLASS_1", 0x30108, [(64, 16)], [⟨"MAX_UNITS", 31, 0, .rw, 0x0⟩]⟩,
  ⟨"HIF_REQ_AREA_0", 0x30800, [(256, 32)], [⟨"IN_ADDR", 63, 0, .rw, 0x0⟩]⟩,
  ⟨"HIF_REQ_AREA_1", 0x30808, [(256, 32)], [⟨"RES_ADDR", 63, 0, .rw, 0x0⟩]⟩,
  ⟨"HIF_REQ_AREA_2", 0x30810, [(256, 32)], [⟨"RES_GRAN", 5, 0, .rw, 0x0⟩]⟩
]

/-- The AUD block. -/
def regsAUD : List RegDef := [
  ⟨"AUD_CTL", 0x40000, [], [⟨"CLAP_DELAY", 19, 0, .rw, 0x4000⟩, ⟨"CLAP_TIMEOUT", 31, 20, .rw, 0x64⟩]⟩,
  ⟨"AUD_BITKEY", 0x40008, [], [⟨"KEY", 63, 0, .ro, bitKeyReset⟩]⟩,
  ⟨"AUD_KEY_SRC", 0x40010, [], [⟨"STEPPING", 15, 0, .ro, steppingReset⟩, ⟨"GRADE", 31, 16, .ro, 0x3208⟩, ⟨"ARITH", 47, 32, .ro, arithReset⟩, ⟨"COMPAT", 48, 48, .ro, 0x0⟩]⟩,
  ⟨"AUD_XLATE_VER", 0x40018, [], [⟨"VERSION", 31, 0, .ro, 0x0⟩]⟩,
  ⟨"AUD_REPLAY_CTL", 0x40020, [], [⟨"EN", 0, 0, .rw, 0x0⟩, ⟨"FULL", 1, 1, .ro, 0x0⟩, ⟨"NEXT", 2, 2, .ro, 0x0⟩, ⟨"REPLAYING", 3, 3, .ro, 0x0⟩]⟩,
  ⟨"AUD_REPLAY_STAT", 0x40028, [], [⟨"ENTRIES", 31, 0, .ro, 0x0⟩, ⟨"STALLS", 63, 32, .ro, 0x0⟩]⟩,
  ⟨"AUD_CLAP_STAT", 0x40030, [], [⟨"SEQ", 31, 0, .ro, 0x0⟩, ⟨"SUB", 34, 32, .ro, 0x0⟩, ⟨"TIMEOUT", 35, 35, .w1c, 0x0⟩, ⟨"MISSING", 45, 36, .ro, 0x0⟩]⟩,
  ⟨"AUD_CTX_KEEP", 0x40038, [], [⟨"FIRST", 12, 0, .rw, 0x0⟩, ⟨"COUNT", 25, 13, .rw, 0x0⟩]⟩,
  ⟨"AUD_STAT", 0x40040, [], [⟨"SAVING", 0, 0, .ro, 0x0⟩, ⟨"RESTORING", 1, 1, .ro, 0x0⟩, ⟨"RECORDS", 47, 16, .ro, 0x0⟩]⟩
]

/-- The CLK block. -/
def regsCLK : List RegDef := [
  ⟨"CLK_CTL", 0x50000, [], [⟨"AUTO_DOWN", 0, 0, .rw, 0x1⟩, ⟨"LEAD_US", 31, 16, .rw, 0x3e8⟩]⟩,
  ⟨"CLK_STEP", 0x50008, [], [⟨"STEP", 6, 0, .tw, bootStepReset⟩, ⟨"RSV", 31, 7, .tw, 0⟩, ⟨"STEP_N", 63, 32, .tw, bootStepResetN⟩]⟩,
  ⟨"CLK_CHANGE_FRAME", 0x50010, [], [⟨"FRAME", 63, 0, .ro, 0x0⟩]⟩,
  ⟨"CLK_CUR", 0x50018, [], [⟨"STEP", 6, 0, .ro, bootStepReset⟩, ⟨"SYNTH", 7, 7, .ro, 0x0⟩]⟩,
  ⟨"CLK_STAT", 0x50020, [], [⟨"WARN", 0, 0, .w1c, 0x0⟩, ⟨"CRIT", 1, 1, .w1c, 0x0⟩, ⟨"REF_LOST", 2, 2, .w1c, 0x0⟩, ⟨"LOCK_LATE", 3, 3, .w1c, 0x0⟩, ⟨"REPLAN", 4, 4, .w1c, 0x0⟩, ⟨"WR_REJECT", 31, 16, .ro, 0x0⟩]⟩,
  ⟨"CLK_FMAX", 0x50028, [], [⟨"OWN_STEP", 6, 0, .ro, ownStepReset⟩, ⟨"DOMAIN_STEP", 14, 8, .ro, ownStepReset⟩, ⟨"LIMIT_POS", 25, 16, .ro, 0x0⟩, ⟨"LIMIT_REGION", 31, 26, .ro, 0x0⟩, ⟨"XQ_STEP", 38, 32, .ro, 0x48⟩]⟩,
  ⟨"CLK_SLOW_LAST", 0x50030, [], [⟨"REGION", 5, 0, .ro, 0x0⟩, ⟨"CRIT", 6, 6, .ro, 0x0⟩, ⟨"SLACK", 31, 16, .ro, 0x0⟩, ⟨"SECONDS", 63, 32, .ro, 0x0⟩]⟩,
  ⟨"CLK_AGE_FORECAST", 0x50038, [], [⟨"HOURS", 31, 0, .ro, 0xffffffff⟩, ⟨"EOL_STEP", 38, 32, .ro, ownStepReset⟩]⟩,
  ⟨"CLK_CANARY_SLACK", 0x50100, [(64, 8)], [⟨"NOW", 15, 0, .ro, 0x0⟩, ⟨"MIN", 31, 16, .ro, 0x7fff⟩]⟩,
  ⟨"CLK_VF", 0x50400, [(73, 8)], [⟨"VNOM", 11, 0, .ro, vnomReset⟩, ⟨"VEFF", 23, 12, .ro, vnomReset⟩, ⟨"AGE_ADD", 31, 24, .ro, 0x0⟩, ⟨"AGE_MAX", 39, 32, .ro, ageMaxReset⟩]⟩
]

/-- The PWR block. -/
def regsPWR : List RegDef := [
  ⟨"PWR_CTL", 0x60000, [], [⟨"DROP_OFF", 9, 0, .rw, 0x0⟩, ⟨"WAKE_HOLD", 31, 16, .rw, 0x64⟩, ⟨"CUE_EN", 32, 32, .rw, 0x1⟩]⟩,
  ⟨"PWR_STATE", 0x60008, [], [⟨"STATE", 19, 0, .ro, 0xfffff⟩, ⟨"TRANSIT", 29, 20, .ro, 0x0⟩]⟩,
  ⟨"PWR_STAT", 0x60010, [], [⟨"RECOVERY", 0, 0, .ro, 0x0⟩, ⟨"LIMIT_HIT", 1, 1, .w1c, 0x0⟩, ⟨"THERMAL", 2, 2, .w1c, 0x0⟩, ⟨"VOTE_REFUSED", 3, 3, .w1c, 0x0⟩, ⟨"RECOVERIES", 31, 16, .ro, 0x0⟩]⟩,
  ⟨"PWR_REFUSE_CNT", 0x60018, [], [⟨"COUNT", 31, 0, .ro, 0x0⟩]⟩,
  ⟨"PWR_REFUSE_LAST", 0x60020, [], [⟨"DOMAIN", 3, 0, .ro, 0x0⟩, ⟨"WHO", 7, 4, .ro, 0x0⟩, ⟨"ABORT", 8, 8, .ro, 0x0⟩, ⟨"NS", 63, 16, .ro, 0x0⟩]⟩,
  ⟨"PWR_WAKE_SRC", 0x60028, [], [⟨"CUE", 0, 0, .w1c, 0x0⟩, ⟨"LINK", 1, 1, .w1c, 0x0⟩, ⟨"HOST", 2, 2, .w1c, 0x0⟩, ⟨"I3C", 3, 3, .w1c, 0x0⟩, ⟨"PORT", 11, 8, .ro, 0x0⟩]⟩,
  ⟨"PWR_LIMIT", 0x60030, [], [⟨"SUSTAIN", 15, 0, .rw, 0x640⟩, ⟨"PEAK", 31, 16, .rw, 0x708⟩]⟩,
  ⟨"PWR_IN", 0x60038, [], [⟨"POWER", 15, 0, .ro, 0x0⟩, ⟨"VOLTS", 31, 16, .ro, 0x0⟩, ⟨"TJ_MAX", 47, 32, .ro, 0x0⟩]⟩,
  ⟨"PWR_VOTE", 0x60100, [(10, 8)], [⟨"SLOTS", 31, 0, .ro, 0x0⟩]⟩
]

/-- The CAL block. CAL_FACTORY is fused with no number in the spec: 0 (DESIGN CHOICE, log entry 2). -/
def regsCAL : List RegDef := [
  ⟨"CAL_FACTORY", 0x70000, [(512, 8)], [⟨"DATA", 63, 0, .ro, 0⟩]⟩,
  ⟨"CAL_USER", 0x71000, [(512, 8)], [⟨"DATA", 63, 0, .ro, 0⟩]⟩,
  ⟨"CAL_EFFECTIVE", 0x72000, [(512, 8)], [⟨"DATA", 63, 0, .ro, 0⟩]⟩,
  ⟨"CAL_STAT", 0x73000, [], [⟨"USER_BAD", 0, 0, .w1c, 0x0⟩, ⟨"USER_PENDING", 1, 1, .ro, 0x0⟩, ⟨"CLAMPED", 31, 16, .ro, 0x0⟩]⟩
]

/-- The DBG block. -/
def regsDBG : List RegDef := [
  ⟨"DBG_CTL", 0x80000, [], [⟨"PROBE", 0, 0, .rw, 0x0⟩]⟩,
  ⟨"DBG_STAT", 0x80008, [], [⟨"TRIG_FREEZE", 0, 0, .w1c, 0x0⟩, ⟨"JTAG_REFUSED", 31, 16, .ro, 0x0⟩]⟩,
  ⟨"DBG_TEST_CTL", 0x80010, [], [⟨"AUTO_EN", 0, 0, .rw, 0x1⟩, ⟨"AUTO_INTERVAL", 4, 1, .rw, 0xc⟩, ⟨"NOMINATE", 5, 5, .rw, 0x1⟩]⟩,
  ⟨"DBG_TEST_STAT", 0x80018, [], [⟨"TEST", 7, 0, .ro, 0x0⟩, ⟨"TILE", 16, 8, .ro, 0x0⟩, ⟨"AUTO_UNITS", 47, 32, .ro, 0x0⟩, ⟨"FAILS", 63, 48, .ro, 0x0⟩]⟩,
  ⟨"DBG_TRIG_TIME", 0x80020, [], [⟨"NS", 63, 0, .ro, 0x0⟩]⟩,
  ⟨"DBG_MUX", 0x80100, [(16, 8)], [⟨"SIG", 7, 0, .rw, 0xe⟩, ⟨"UNIT", 16, 8, .rw, 0x0⟩]⟩,
  ⟨"DBG_TRIG", 0x80200, [(4, 8)], [⟨"DIR", 0, 0, .rw, 0x0⟩, ⟨"ACT", 2, 1, .rw, 0x0⟩, ⟨"SIG", 15, 8, .rw, 0x0⟩, ⟨"UNIT", 24, 16, .rw, 0x0⟩]⟩
]

/-- The MOD block. -/
def regsMOD : List RegDef := [
  ⟨"MOD_ID", 0x90000, [], [⟨"SERIAL", 63, 0, .ro, serialReset⟩]⟩,
  ⟨"MOD_ROLE", 0x90008, [], [⟨"POSITION", 9, 0, .ro, 0⟩, ⟨"ROLE", 11, 10, .ro, 1⟩, ⟨"TAKEN_OVER", 12, 12, .ro, 0x0⟩]⟩,
  ⟨"MOD_BYPASS", 0x90010, [], [⟨"AUTO", 0, 0, .rw, 0x1⟩, ⟨"OPEN_REQ", 1, 1, .wo, 0x0⟩, ⟨"CLOSE", 2, 2, .wo, 0x0⟩, ⟨"OPEN", 8, 8, .ro, 0x0⟩, ⟨"GRANT_WAIT", 9, 9, .ro, 0x0⟩, ⟨"LANE4_OPEN", 10, 10, .ro, 0x0⟩]⟩,
  ⟨"MOD_STAT", 0x90018, [], [⟨"STEP", 3, 0, .ro, 0x0⟩, ⟨"READY", 4, 4, .ro, 0x0⟩, ⟨"STEP_FAIL", 5, 5, .ro, 0x0⟩, ⟨"TRIP", 6, 6, .w1c, 0x0⟩, ⟨"RAIL_FAULT", 7, 7, .w1c, 0x0⟩, ⟨"FAULT_RAIL", 10, 8, .ro, 0x0⟩, ⟨"WARM", 11, 11, .ro, 0x0⟩]⟩,
  ⟨"MOD_ALERT", 0x90020, [], [⟨"THERMAL", 0, 0, .w1c, 0x0⟩, ⟨"LIMIT", 1, 1, .w1c, 0x0⟩, ⟨"TRIP", 2, 2, .w1c, 0x0⟩, ⟨"RAIL", 3, 3, .w1c, 0x0⟩, ⟨"VIN", 4, 4, .w1c, 0x0⟩, ⟨"SENSOR", 5, 5, .w1c, 0x0⟩, ⟨"EVENT", 6, 6, .w1c, 0x0⟩]⟩,
  ⟨"MOD_ALERT_EN", 0x90028, [], [⟨"THERMAL", 0, 0, .rw, 0x1⟩, ⟨"LIMIT", 1, 1, .rw, 0x1⟩, ⟨"TRIP", 2, 2, .rw, 0x1⟩, ⟨"RAIL", 3, 3, .rw, 0x1⟩, ⟨"VIN", 4, 4, .rw, 0x1⟩, ⟨"SENSOR", 5, 5, .rw, 0x1⟩, ⟨"EVENT", 6, 6, .rw, 0x0⟩]⟩,
  ⟨"MOD_BOOT", 0x90030, [], [⟨"PREFER", 0, 0, .rw, 0⟩, ⟨"RUNNING", 1, 1, .ro, 0x0⟩, ⟨"FALLBACK", 2, 2, .ro, 0x0⟩, ⟨"SPI_REPAIRED", 3, 3, .ro, 0x0⟩]⟩,
  ⟨"MOD_TW_REJECT_CNT", 0x90038, [], [⟨"COUNT", 31, 0, .ro, 0x0⟩]⟩
]

/-- Every register of space 7. -/
def chipRegs : List RegDef :=
  regsFRM ++ regsSPK ++ regsTIR ++ regsMSH ++ regsFAB ++ regsROL ++ regsHIF ++ regsAUD ++ regsCLK ++ regsPWR ++ regsCAL ++ regsDBG ++ regsMOD

/-- The STR block. -/
def regsSTR : List RegDef := [
  ⟨"STR_CTL", 0x0, [], [⟨"STREAM_EN", 3, 0, .rw, 0x0⟩, ⟨"RESUME", 8, 8, .wo, 0x0⟩, ⟨"BRK_DOMAIN", 9, 9, .rw, 0x0⟩]⟩,
  ⟨"STR_STAT", 0x8, [], [⟨"HIT", 0, 0, .w1c, 0x0⟩, ⟨"HIT_KIND", 1, 1, .ro, 0x0⟩, ⟨"HIT_STREAM", 3, 2, .ro, 0x0⟩, ⟨"ADDR_FAULT", 4, 4, .w1c, 0x0⟩, ⟨"FAULT_STREAM", 6, 5, .ro, 0x0⟩, ⟨"IMEM_REJECT", 31, 16, .ro, 0x0⟩, ⟨"FREEZE_CYC", 55, 32, .ro, 0x0⟩]⟩,
  ⟨"STR_PC", 0x10, [(4, 8)], [⟨"PC", 11, 0, .ro, 0x0⟩]⟩,
  ⟨"STR_BRK_COUNT", 0x30, [(4, 8)], [⟨"COUNT", 62, 0, .rw, 0x0⟩, ⟨"EN", 63, 63, .rw, 0x0⟩]⟩,
  ⟨"STR_BRK_TAG", 0x50, [(4, 8)], [⟨"TAG", 5, 0, .rw, 0x0⟩, ⟨"EN", 6, 6, .rw, 0x0⟩, ⟨"AFTER", 31, 16, .rw, 0x0⟩]⟩,
  ⟨"STR_ISSUED", 0x70, [(4, 8)], [⟨"COUNT", 62, 0, .ro, 0x0⟩]⟩,
  ⟨"STR_CNT", 0x100, [(4, 64), (8, 8)], [⟨"VALUE", 31, 0, .ro, 0x0⟩]⟩,
  ⟨"STR_CMP", 0x200, [(4, 32), (4, 8)], [⟨"VAL", 28, 0, .ro, 0x0⟩, ⟨"REL", 31, 29, .ro, 0x0⟩, ⟨"SRC", 35, 32, .ro, 0x0⟩, ⟨"SET", 36, 36, .ro, 0x0⟩, ⟨"RESULT", 37, 37, .ro, 0x0⟩]⟩
]

/-- The SPD block. -/
def regsSPD : List RegDef := [
  ⟨"SPD_ECC_STAT", 0x1800, [], [⟨"CE", 0, 0, .w1c, 0x0⟩, ⟨"UE", 1, 1, .w1c, 0x0⟩, ⟨"CE_COUNT", 47, 16, .ro, 0x0⟩]⟩,
  ⟨"SPD_POISON_CNT", 0x1808, [], [⟨"CREATED", 31, 0, .ro, 0x0⟩, ⟨"WRITTEN", 63, 32, .ro, 0x0⟩]⟩,
  ⟨"SPD_ERR_ADDR", 0x1810, [], [⟨"OFFSET", 20, 0, .ro, 0x0⟩]⟩,
  ⟨"SPD_BANK_WAIT", 0x1818, [], [⟨"WAITS", 31, 0, .ro, 0x0⟩]⟩,
  ⟨"SPD_INJECT", 0x1820, [], [⟨"WORD", 20, 3, .rw, 0x0⟩, ⟨"BITS", 22, 21, .rw, 0x1⟩, ⟨"ARM", 23, 23, .rw, 0x0⟩]⟩
]

/-- The WPA block. -/
def regsWPA : List RegDef := [
  ⟨"WPA_CTL", 0x800, [], [⟨"NAN_LOG", 0, 0, .rw, 0x1⟩]⟩,
  ⟨"WPA_CB_SEL", 0x808, [], [⟨"BANK", 0, 0, .tw, 0x0⟩, ⟨"RSV", 31, 1, .tw, 0⟩, ⟨"SEL_N", 63, 32, .tw, 0xffffffff⟩]⟩,
  ⟨"WPA_CB_STAT", 0x810, [], [⟨"ACTIVE", 0, 0, .ro, 0x0⟩, ⟨"PENDING", 1, 1, .ro, 0x0⟩, ⟨"CE", 2, 2, .w1c, 0x0⟩, ⟨"UE", 3, 3, .w1c, 0x0⟩, ⟨"WR_REJECT", 31, 16, .ro, 0x0⟩, ⟨"CE_COUNT", 47, 32, .ro, 0x0⟩, ⟨"UE_COUNT", 63, 48, .ro, 0x0⟩]⟩,
  ⟨"WPA_STAT", 0x818, [], [⟨"NAN_SCALE", 0, 0, .w1c, 0x0⟩, ⟨"NAN_ENTRY", 1, 1, .w1c, 0x0⟩, ⟨"NAN_SCALE_CNT", 47, 16, .ro, 0x0⟩]⟩,
  ⟨"WPA_NAN_ADDR", 0x820, [], [⟨"OFFSET", 23, 0, .ro, 0x0⟩]⟩,
  ⟨"WPA_CB_ADDR", 0x828, [], [⟨"ADDR", 17, 3, .rw, 0x0⟩]⟩,
  ⟨"WPA_CB_DATA", 0x830, [], [⟨"DATA", 63, 0, .rw, 0x0⟩]⟩
]

/-- The MXA block. -/
def regsMXA : List RegDef := [
  ⟨"MXA_CTL", 0x400, [], [⟨"BCHK_EN", 0, 0, .rw, 0x1⟩, ⟨"NOMINATE", 1, 1, .rw, 0x1⟩]⟩,
  ⟨"MXA_FMT", 0x408, [], [⟨"WFMT", 4, 0, .ro, 0x0⟩, ⟨"AFMT", 9, 5, .ro, 0x0⟩, ⟨"OFMT", 14, 10, .ro, 0x0⟩, ⟨"NCOL", 18, 15, .ro, 0x0⟩, ⟨"OLAY", 19, 19, .ro, 0x0⟩, ⟨"K8", 33, 20, .ro, 0x0⟩]⟩,
  ⟨"MXA_BORDER_TOL", 0x410, [], [⟨"TOL0", 5, 0, .rw, 0x12⟩, ⟨"TOL1", 13, 8, .rw, 0xe⟩, ⟨"TOL2", 21, 16, .rw, 0xa⟩, ⟨"TOL3", 29, 24, .rw, 0x6⟩]⟩,
  ⟨"MXA_BORDER_STAT", 0x418, [], [⟨"MISMATCH", 0, 0, .w1c, 0x0⟩, ⟨"FAULT", 1, 1, .w1c, 0x0⟩, ⟨"KIND", 2, 2, .ro, 0x0⟩, ⟨"INDEX", 9, 3, .ro, 0x0⟩, ⟨"CHECKED", 47, 16, .ro, 0x0⟩, ⟨"SKIPPED", 63, 48, .ro, 0x0⟩]⟩,
  ⟨"MXA_REPLAY_CNT", 0x420, [], [⟨"REPLAYS", 31, 0, .ro, 0x0⟩, ⟨"FAULTS", 47, 32, .ro, 0x0⟩]⟩,
  ⟨"MXA_STAT", 0x428, [], [⟨"INT_WRAP", 0, 0, .w1c, 0x0⟩, ⟨"ADP_MISS", 1, 1, .w1c, 0x0⟩, ⟨"ADP_MISS_CNT", 31, 16, .ro, 0x0⟩, ⟨"ADP_WR_REJECT", 47, 32, .ro, 0x0⟩]⟩,
  ⟨"MXA_ADP_SLOT", 0x480, [(16, 8)], [⟨"PKEY", 15, 0, .rw, 0x0⟩, ⟨"ENTRY", 20, 16, .rw, 0x0⟩]⟩,
  ⟨"MXA_ADP_TBL_0", 0x600, [(32, 16)], [⟨"PKEY", 15, 0, .rw, 0x0⟩, ⟨"RANK", 18, 16, .rw, 0x0⟩, ⟨"WFMT", 23, 19, .rw, 0x0⟩, ⟨"A_OFF", 37, 24, .rw, 0x0⟩, ⟨"B_OFF", 51, 38, .rw, 0x0⟩, ⟨"VALID", 63, 63, .rw, 0x0⟩]⟩,
  ⟨"MXA_ADP_TBL_1", 0x608, [(32, 16)], [⟨"A_BOFF", 23, 0, .rw, 0x0⟩, ⟨"B_BOFF", 47, 24, .rw, 0x0⟩]⟩
]

/-- The VEC block. -/
def regsVEC : List RegDef := [
  ⟨"VEC_VL", 0xc00, [], [⟨"VL", 24, 0, .rw, 0x80⟩]⟩,
  ⟨"VEC_STAT", 0xc08, [], [⟨"SAT", 0, 0, .w1c, 0x0⟩, ⟨"ROW_EMPTY", 1, 1, .w1c, 0x0⟩, ⟨"PERM_RANGE", 2, 2, .w1c, 0x0⟩, ⟨"VL_RANGE", 3, 3, .w1c, 0x0⟩, ⟨"SAMPLE_NAN", 4, 4, .w1c, 0x0⟩, ⟨"SAMPLE_CLAMP", 5, 5, .w1c, 0x0⟩, ⟨"SAT_CNT", 47, 16, .ro, 0x0⟩]⟩
]

/-- The SFU block. -/
def regsSFU : List RegDef := [
  ⟨"SFU_CTL", 0x1000, [], [⟨"COMPAT", 0, 0, .rw, 0x0⟩, ⟨"DEGRADE_FORCE", 1, 1, .rw, 0x0⟩]⟩,
  ⟨"SFU_TBL_SEL", 0x1008, [], [⟨"BANK", 0, 0, .tw, 0x0⟩, ⟨"RSV", 31, 1, .tw, 0⟩, ⟨"SEL_N", 63, 32, .tw, 0xffffffff⟩]⟩,
  ⟨"SFU_STAT", 0x1010, [], [⟨"ACTIVE", 0, 0, .ro, 0x0⟩, ⟨"PENDING", 1, 1, .ro, 0x0⟩, ⟨"DEGRADED", 2, 2, .ro, 0x1⟩, ⟨"DEG_CAUSE", 4, 3, .ro, 0x0⟩, ⟨"CE", 5, 5, .w1c, 0x0⟩, ⟨"UE", 6, 6, .w1c, 0x0⟩, ⟨"EVAL_FAIL", 7, 7, .w1c, 0x0⟩, ⟨"HELD", 31, 16, .ro, 0x0⟩, ⟨"WR_REJECT", 47, 32, .ro, 0x0⟩, ⟨"UE_COUNT", 63, 48, .ro, 0x0⟩]⟩,
  ⟨"SFU_TBL_ADDR", 0x1018, [], [⟨"ADDR", 15, 3, .rw, 0x0⟩]⟩,
  ⟨"SFU_TBL_DATA", 0x1020, [], [⟨"DATA", 63, 0, .rw, 0x0⟩]⟩
]

/-- The GRN block. -/
def regsGRN : List RegDef := [
  ⟨"GRN_CTL", 0x1400, [], [⟨"TBL_NUM", 15, 0, .rw, 0x0⟩, ⟨"FILL", 16, 16, .wo, 0x0⟩]⟩,
  ⟨"GRN_SEED_LO", 0x1408, [], [⟨"SEED", 63, 0, .rw, 0x0⟩]⟩,
  ⟨"GRN_SEED_HI", 0x1410, [], [⟨"SEED", 63, 0, .rw, 0x0⟩]⟩,
  ⟨"GRN_MODE", 0x1418, [], [⟨"MODE", 0, 0, .rw, 0x1⟩]⟩,
  ⟨"GRN_TBL_SEL", 0x1420, [], [⟨"BANK", 0, 0, .tw, 0x0⟩, ⟨"RSV", 31, 1, .tw, 0⟩, ⟨"SEL_N", 63, 32, .tw, 0xffffffff⟩]⟩,
  ⟨"GRN_STAT", 0x1428, [], [⟨"ACTIVE", 0, 0, .ro, 0x0⟩, ⟨"PENDING", 1, 1, .ro, 0x0⟩, ⟨"FILL_BUSY", 2, 2, .ro, 0x0⟩, ⟨"FILLED_A", 3, 3, .ro, 0x0⟩, ⟨"FILLED_B", 4, 4, .ro, 0x0⟩, ⟨"CE", 5, 5, .w1c, 0x0⟩, ⟨"UE", 6, 6, .w1c, 0x0⟩, ⟨"FILL_REJECT", 31, 16, .ro, 0x0⟩, ⟨"SEL_REJECT", 47, 32, .ro, 0x0⟩, ⟨"UE_COUNT", 63, 48, .ro, 0x0⟩]⟩,
  ⟨"GRN_BEAT", 0x1430, [], [⟨"BEAT", 31, 0, .ro, 0x0⟩]⟩,
  ⟨"GRN_BANK_0", 0x1440, [(2, 32)], [⟨"SEED_LO", 63, 0, .ro, 0x0⟩]⟩,
  ⟨"GRN_BANK_1", 0x1448, [(2, 32)], [⟨"SEED_HI", 63, 0, .ro, 0x0⟩]⟩,
  ⟨"GRN_BANK_2", 0x1450, [(2, 32)], [⟨"NUM", 15, 0, .ro, 0x0⟩]⟩,
  ⟨"GRN_BANK_3", 0x1458, [(2, 32)], [⟨"KEY", 63, 0, .ro, 0x0⟩]⟩
]

/-- The KVC block. -/
def regsKVC : List RegDef := [
  ⟨"KVC_STAT", 0x1c00, [], [⟨"PATH_FAULT", 0, 0, .w1c, 0x0⟩, ⟨"FULL", 1, 1, .w1c, 0x0⟩, ⟨"DESC_FAULT", 2, 2, .w1c, 0x0⟩, ⟨"PARENT_RANGE", 3, 3, .w1c, 0x0⟩, ⟨"COMMITS", 39, 16, .ro, 0x0⟩, ⟨"DISCARDED", 63, 40, .ro, 0x0⟩]⟩,
  ⟨"KVC_DESC_0", 0x1d00, [(64, 32)], [⟨"BASE", 17, 0, .tw, 0x0⟩, ⟨"ESZM1", 23, 18, .tw, 0x0⟩, ⟨"VALID", 24, 24, .tw, 0x0⟩, ⟨"RSV", 31, 25, .tw, 0⟩, ⟨"DESC_N", 63, 32, .tw, 0xffffffff⟩]⟩,
  ⟨"KVC_DESC_1", 0x1d08, [(64, 32)], [⟨"CAP", 18, 0, .tw, 0x0⟩, ⟨"RSV", 31, 19, .tw, 0⟩, ⟨"CAP_N", 63, 32, .tw, 0xffffffff⟩]⟩,
  ⟨"KVC_DESC_2", 0x1d10, [(64, 32)], [⟨"LEN", 18, 0, .tw, 0x0⟩, ⟨"RSV", 31, 19, .tw, 0⟩, ⟨"LEN_N", 63, 32, .tw, 0xffffffff⟩]⟩,
  ⟨"KVC_STAGE", 0x2500, [(64, 8)], [⟨"STG", 17, 0, .rw, 0x0⟩, ⟨"LAST_NCM1", 51, 48, .ro, 0x0⟩, ⟨"LAST_A", 56, 52, .ro, 0x0⟩, ⟨"LAST_FAIL", 57, 57, .ro, 0x0⟩]⟩
]

/-- Every register of one tile's space 3. -/
def tileRegs : List RegDef :=
  regsSTR ++ regsSPD ++ regsWPA ++ regsMXA ++ regsVEC ++ regsSFU ++ regsGRN ++ regsKVC

/-- Is `off` an element of the array with these dimensions starting at 0? -/
def inDims : List (Nat × Nat) → Nat → Bool
  | [], off => off == 0
  | (n, stride) :: rest, off => decide (off / stride < n) && inDims rest (off % stride)

/-- The register that holds offset `off`, if any map defines one (R6). -/
def findReg (rs : List RegDef) (off : Nat) : Option RegDef :=
  rs.find? fun r => decide (r.base ≤ off) && inDims r.dims (off - r.base)

/-- The register of a store key. -/
def regOf (k : Nat) : Option RegDef :=
  if k < 0x100000 then findReg chipRegs k else findReg tileRegs ((k - 0x100000) % 0x4000)

/-- The word whose fields hold their reset values (R7). -/
def fieldsWord (fs : List FDef) : Word :=
  fs.foldl (fun w f => w ||| (BitVec.ofNat 64 f.rst <<< f.lo)) 0

/-- The reset value of the register with key `k`; 0 where no map defines one (R6). -/
def resetWord (k : Nat) : Word :=
  match regOf k with
  | some r => fieldsWord r.fields
  | none => 0

end Sys2Proof.Machine
end

