-- ==== Sys2Proof/Machine/Sparse.lean ====
section
/-! DEFINITION. Sparse stores: lists of (key, value) pairs in one canonical form. Keys rise strictly and no entry equals what its
key reads as when it is not listed, so that equal contents are equal lists. -/

namespace Sys2Proof.Machine.Sparse

variable {α : Type}

/-- The value at key `k`; `d k` where no entry lists it. -/
def get (d : Nat → α) : List (Nat × α) → Nat → α
  | [], k => d k
  | (j, v) :: m, k => if k = j then v else get d m k

/-- Put an entry at its place, replacing the one with the same key. -/
def insert (k : Nat) (v : α) : List (Nat × α) → List (Nat × α)
  | [] => [(k, v)]
  | (j, w) :: m => if k < j then (k, v) :: (j, w) :: m else if k = j then (k, v) :: m else (j, w) :: insert k v m

/-- Remove every entry of key `k`. -/
def erase (k : Nat) : List (Nat × α) → List (Nat × α)
  | [] => []
  | (j, w) :: m => if k = j then erase k m else (j, w) :: erase k m

/-- Write `v` at key `k`, keeping the canonical form. -/
def set [DecidableEq α] (d : Nat → α) (k : Nat) (v : α) (m : List (Nat × α)) : List (Nat × α) :=
  if v = d k then erase k m else insert k v m

/-- Every key of the list is above `b`. -/
def above (b : Nat) : List (Nat × α) → Bool
  | [] => true
  | (j, _) :: _ => decide (b < j)

/-- The canonical form. -/
def wf [DecidableEq α] (d : Nat → α) : List (Nat × α) → Bool
  | [] => true
  | (j, v) :: m => decide (v ≠ d j) && above j m && wf d m

end Sys2Proof.Machine.Sparse
end

