-- ==== Sys2Proof/Machine/State.lean ====
section
/-! DEFINITION. The state of one module, as plain data. Registers, memories, full/empty bits, poison, error overlays, tiles and
queues are sparse stores: a list of (key, value) pairs with strictly rising keys that lists no entry equal to what an unlisted
key reads as. Everything else of the chip is one record, `Chip`. -/

namespace Sys2Proof.Machine

/-- A stream's issue state beside its registers: marker issued this frame (R71), halted for the job (R73), stopped by a matched
break (R100), the instructions that wait at issue or for their operands (R29, R56), the first frame cycle in which it may
issue, that of its latest issue in the frame, the engine (R88) or lane (R210) occupancy and the D stream's DGSET occupancy (R86), the cycle at which its earlier operations
are complete, and matching tags since the tag break was armed (R100). -/
structure StreamS where
  eof : Bool := false
  halted : Bool := false
  broken : Bool := false
  waitq : List Instr := []
  free : Nat := 0
  last : Nat := 0
  issuedNs : Option Nat := none
  engine : Nat := 0
  dgset : Nat := 0
  xdone : Nat := 0
  tagSeen : Nat := 0
deriving DecidableEq, Repr

/-- The output settings of MOUT (R177). -/
structure MoutS where
  ofmt : Nat := 0
  rnd : Nat := 0
  olay : Nat := 0
  wm : Nat := 0
  ostr : Nat := 8
deriving DecidableEq, Repr

/-- An accumulator's result: 32 bits and poison (R127, R164). -/
structure AccCell where
  bits : Nat
  poison : Bool
deriving DecidableEq, Repr

/-- The adapter a pass uses (R190, R192, R193): weight format, rank, tier byte offset of its image, border byte offset. -/
structure AdpS where
  wfmt : Nat
  rho : Nat
  off : Nat
  border : Nat
deriving DecidableEq, Repr

/-- The content of a 64-byte line as some read sees it: space, offset, bytes, errors over them, poison copies, and a cycle. In
`TileS.olds` the content before a write that reads granted before that cycle do not see yet (R109, R113); in a buffer what was
read, with the cycle of a grant that followed a refetch, else 0. -/
structure LineS where
  sp : Nat
  off : Nat
  data : List Byte
  err : List Byte
  poison : BitVec 3
  cyc : Nat
deriving DecidableEq, Repr

/-- A bank's grant to a line access: cycle, space, line offset, rank (Table: Bank priority), whether it writes, and whether it was
delayed (R107, R112, R114). -/
structure Grant where
  cyc : Nat
  sp : Nat
  off : Nat
  rank : Nat
  wr : Bool
  late : Bool
deriving DecidableEq, Repr

/-- A pass of the matrix array in flight: its instruction and the settings it issued with (R177, R186), the byte offsets after
stepping (R198) of its weight image, activation image, output and border image, its tolerance exponent, whether it is checked,
its codebook bank, its adapter, whether the adapter was refused or its results are +0 (R192), the beats that have entered and whether
all have, its results and border results so far, its attempt (0 first, 1 replay), its issue cycle (of a replay the cycle of the failed
check), the weight lines requested and those read whose beats have yet to enter (R154), the entry cycles of its first and latest
beat (R174), whether its held write has waited (R181), the outcome of its check once it is made (R184), and the border lines whose
refetch that check awaits (R121). -/
structure PassS where
  args : MArgs
  mout : MoutS
  wOff : Nat
  aOff : Nat
  oOff : Nat
  bOff : Nat
  tol : Nat
  chk : Bool
  cbBank : Nat
  adp : Option AdpS
  refused : Bool
  zero : Bool
  next : Nat
  done : Bool
  acc : List AccCell
  bcol : List AccCell
  brow : List AccCell
  attempt : Nat
  issued : Nat
  lines : Nat
  buf : List LineS
  firstEntry : Nat
  lastEntry : Nat
  held : Bool
  verdict : Option Bool
  bwait : List Nat
deriving DecidableEq, Repr

/-- The operation of a V instruction (R207, R257, R265). -/
inductive VKind where
  | add | sub | mul | fma | max | min | cmp | sel | and | or | xor | shl | shr | cvt | pack | unpack | perm | shuf
  | patch (w cm1 pm1 : Nat)
  | red | sfu | smx1 | smx2 | rowstat | sample | tmask | grain
deriving DecidableEq, Repr

/-- A V instruction that has issued and waits for its granules (R204): its operation and operands, and VL, CNT[CTR], GRN_BEAT,
GRN_MODE and its issue cycle as it issued (R201, R208, R252, R255); the beats whose reads have been granted, the cycle of the latest
of those grants, and the lines they read. -/
structure VOp where
  kind : VKind
  a : VArgs
  vl : Nat
  cnt : Nat
  beat : Nat
  mode : Nat
  cyc : Nat
  next : Nat := 0
  last : Nat := 0
  got : List LineS := []
deriving DecidableEq, Repr

/-- A held write waiting in a landing queue (R57, R407). -/
structure Landing where
  off : Nat
  data : List Byte
  wm : Nat
  poison : Bool
  xid : Nat
  srcMod : Nat
  ttag : Nat
  inbound : Bool
deriving DecidableEq, Repr

/-- A remote read request at the tile that owns the data (R49, R56). -/
structure ReadReq where
  id : Nat
  space : Nat
  off : Nat
  len : Nat
  gm : Nat
  sched : Bool
  retMod : Nat
  retTile : Nat
  retOff : Nat
  retSpace : Nat
  wm : Nat
  xid : Nat
  ttag : Nat
  stream : Nat
  cyc : Nat
deriving DecidableEq, Repr

/-- The source of a grain table's content: seed words and table number (R242). -/
structure GrainSrc where
  lo : Nat
  hi : Nat
  num : Nat
deriving DecidableEq, Repr

/-- A grain fill in progress: bank, source, blocks stored by maintenance units, and, where it runs at once, the always-on time
at which block 128 is stored (R244, R246). -/
structure FillS where
  bank : Nat
  src : GrainSrc
  done : Nat
  endNs : Option Nat
deriving DecidableEq, Repr

/-- A repair-buffer entry: tier offset of its line, data, poison (R124). -/
structure Repair where
  off : Nat
  data : List Byte
  poison : Bool
deriving DecidableEq, Repr

/-- A descriptor write held behind a commit in flight (R269). -/
structure KvHeld where
  key : Nat
  val : Word
  desc : Nat
deriving DecidableEq, Repr

/-- The state of one logical tile beside its registers and memories: streams, MOUT settings, what is in flight, the matrix array's
next free entry cycle, its last L and the places held in its drain buffer (from, until; R174, R181), the cycle in which the weight path
requests next and its requests of that cycle (R154), frame end, maintenance, rolls, commits, the granules with the cycle from which
they are readable, those being emptied with the cycle from which they are empty (R53, R86), the bank grants (R114), and the lines
whose latest write some reads do not see yet, and the cycle from which a landing queue that was full has room again (R57). -/
structure TileS where
  c : StreamS := {}
  d : StreamS := {}
  m : StreamS := {}
  v : StreamS := {}
  mout : MoutS := {}
  passes : List PassS := []
  entryFree : Nat := 0
  lastL : Nat := 0
  wcyc : Nat := 0
  wcnt : Nat := 0
  places : List (Nat × Nat) := []
  vops : List VOp := []
  landing : List Landing := []
  reads : List ReadReq := []
  retired : Option Nat := none
  retiredNs : Option Nat := none
  doneAt : Nat := 0
  winMin : Option Int := none
  lastMin : Option Int := none
  scrubLine : Nat := 0
  scrubStart : Option Nat := none
  scrubPasses : Nat := 0
  scrubLast : Option Nat := none
  autoLast : Option Nat := none
  fill : Option FillS := none
  bankA : Option GrainSrc := none
  bankB : Option GrainSrc := none
  cbUnits : Nat := 0
  serving : Option Nat := none
  servNext : Option (Nat × Nat) := none
  repair : List Repair := []
  granted : List Repair := []
  hardLines : List Nat := []
  sfuFails : List Nat := []
  sfuPasses : List Nat := []
  autoTurn : Bool := false
  autoUnit : Nat := 0
  kvInflight : List (Nat × Nat × Nat) := []
  kvHeld : List KvHeld := []
  sliceUsed : Nat := 0
  avail : List (Nat × Nat) := []
  empties : List (Nat × Nat) := []
  grants : List Grant := []
  olds : List LineS := []
  roomAt : Nat := 0
deriving DecidableEq, Repr

/-- A 64-byte flit in the mesh (R280): its number, the transfer it belongs to, its kind (0 write, 1 read request, 2 read data), the
logical tile whose router holds it, the input port it came in by, its destination tile or port stop, its class, whether it was
demoted, poison, the global address of its first byte, its data, the write and read mode, the transfer's length in flits, where a
read returns to, its packet within the transfer, its source, transfer tag, congestion mark, whether it came from another module,
the first cycle in which it may pass its output, the one after its latch, and whether it waits at its source for a place in the input port's
buffer (R284). -/
structure Flit where
  id : Nat
  xid : Nat
  kind : Nat
  cur : Nat
  inPort : Nat
  dstTile : Nat
  dstPort : Option Nat
  sched : Bool
  demoted : Bool
  poison : Bool
  g : Nat
  data : List Byte
  wm : Nat
  gm : Nat
  len : Nat
  ret : Nat
  pkt : Nat
  srcMod : Nat
  srcTile : Nat
  stream : Nat
  ttag : Nat
  ce : Bool
  inbound : Bool
  cyc : Nat
  wait : Bool
deriving DecidableEq, Repr

/-- A transfer of one of the module's streams (R86, R312): the issuing tile and stream, its destination, the bytes still to land,
the granules it fills with the bytes each still awaits (R55), the flits that have not left the source router, whether a
tracker holds it until its completion returns (R312), the latest cycle from which bytes of it that have landed are readable,
and its length in 64-byte units (R311). -/
structure Xfer where
  id : Nat
  tile : Nat
  stream : Nat
  dstMod : Nat
  dstTile : Nat
  ttag : Nat
  left : Nat
  inRouter : Nat
  grans : List (Nat × Nat)
  tracked : Bool
  seen : Nat
  tlen : Nat
deriving DecidableEq, Repr

/-- An inbound transfer tracker (R312, R313), with the partition key of its packets. -/
structure Inbound where
  pkey : Nat
  srcMod : Nat
  ttag : Nat
  tlen : Nat
  bytes : Nat
  ce : Bool
  grans : List (Nat × Nat)
  stream : Nat
  srcTile : Nat
deriving DecidableEq, Repr

/-- A packet in a port's receive buffers: its release position (0 for an unscheduled one) and whether its release returns credit:
it was sent unscheduled (R305, R306). -/
structure RxPacket where
  pos : Nat
  credit : Bool
  pkt : Packet
deriving DecidableEq, Repr

/-- One fabric port. Receiving: packets that await release (R305), the last LSEQ received and the next one expected, the runs of
losses to report (R307), and the credit returned since training (R307, R308). Sending: the retransmit buffer in sending order
(R309), flits from the mesh that await the rest of their packet with the cycles of their latch at the stop, counted back from the
tick where they lie before it, unscheduled packets that wait for a slot, credit or room (R309,
R310), scheduled packets whose slot may lie past the coming tick (cycle, transfer, packet), the next LSEQ, the unscheduled credit held and the
total received with it, the cycles that scheduled packets take (from, until, transfer), the cycle from which the egress is free to unscheduled ones, the clapper tokens
carried so far and the bytes of the last control symbol sent. The measured latency in 1/16 cycles (R304) and the MODE in effect
since training began (R327). -/
structure PortS where
  rx : List RxPacket := []
  tx : List Packet := []
  asm : List (Int × Flit) := []
  queue : List Packet := []
  late : List (Nat × Nat × Packet) := []
  lseq : Nat := 1
  lastRx : Nat := 0
  nextRx : Nat := 1
  losses : List (Nat × Nat) := []
  credit : Nat := 1024
  creditIn : Nat := 0
  creditOut : Nat := 0
  booked : List (Int × Int × Nat) := []
  freeU : Nat := 0
  told : Nat := 0
  symbol : List Byte := []
  lat16 : Nat := 0
  mode : Nat := 0
deriving DecidableEq, Repr

/-- A queued refetch (R121, R122): tile, line offset, rewrites done. -/
structure Refetch where
  tile : Nat
  off : Nat
  tries : Nat
deriving DecidableEq, Repr

/-- A retirement in progress (R293, R294): nomination entry, row, nominated site, remaining steps (site vacated, site taken,
column), phase of the current step (0 wake, 1 weights, 2 copy, 3 state, 4 armed, 5 switched), units left to copy, the lines (space,
offset) that read uncorrectable when they were copied (R295), and the row's staged map as it stood before the step armed its own (R297). -/
structure Retire where
  nom : Nat
  row : Nat
  site : Nat
  plan : List (Nat × Nat × Nat)
  phase : Nat
  unitsLeft : Nat
  bad : List (Nat × Nat) := []
  staged : Option Nat := none
deriving DecidableEq, Repr

/-- What a roll descriptor holds beside its registers: its group table, group digests, codebook digest, the codebook
section, its regions (tile, region), and whether a ROLL_FREE has named it while OLD (R332, R336, R346, R353). -/
structure RollS where
  groups : List Byte := []
  gdigest : List Byte := []
  cbDigest : List Byte := []
  cbData : List Byte := []
  regions : List (Nat × Nat) := []
  freeNamed : Bool := false
deriving DecidableEq, Repr

/-- A load asked for: its command, whether this module owes the reply (the manager, R340), adapter or roll, source, STORE, and whether
an arm and a switch follow it. -/
structure LoadAsk where
  cmd : Cmd
  own : Bool
  adapter : Bool
  source : Nat
  store : Bool
  switchAfter : Bool
deriving DecidableEq, Repr

/-- A load in progress (R340): what was asked, descriptor (or adapter entry), header and shard table, shards done,
resend counts, the regions whose vault copies are being written, the shards that this module has sent as the reading module,
the bytes of shards that came by a port (shard, port, bytes; R343), the shards that it is to send again (shard, module; R344), whether its
own part is complete, and the other modules that are. -/
structure LoadS where
  ask : LoadAsk
  desc : Nat
  root : List Byte
  table : List Byte
  shards : Nat
  done : List Nat
  resent : List (Nat × Nat)
  vault : List (Nat × Nat)
  cbNeeded : Bool
  startNs : Nat
  cbData : List Byte := []
  sent : List Nat := []
  passed : List (Nat × Nat × Nat) := []
  again : List (Nat × Nat) := []
  ownDone : Bool := false
  built : List Nat := []
deriving DecidableEq, Repr

/-- A status reply or event waiting for its completion ring (R365, R369). -/
structure Reply where
  tag : Nat
  status : Nat
  opcode : Nat
  detail : Nat
  frame : Nat
  detail2 : Nat
  sqHead : Nat
  event : Bool
deriving DecidableEq, Repr

/-- A result record in the result buffer (R378): its header fields and its bytes after the header. -/
structure Record where
  tag : Nat
  status : Nat
  final : Bool
  crec : Bool
  frame : Nat
  plen : Nat
  slot : Nat
  doneNs : Nat
  dueNs : Nat
  body : List Byte
deriving DecidableEq, Repr

/-- A queue pair (R361): its registers, heads and tails, completion phase, next result SEQ, waiting replies, buffered records
(held ones in window mode) and the sequence number of the oldest held record. -/
structure QueueS where
  base : Word := 0
  cq : Word := 0
  res : Word := 0
  cfg : Word := 0
  sqHead : Nat := 0
  sqTail : Nat := 0
  cqHead : Nat := 0
  cqTail : Nat := 0
  phase : Bool := false
  resHead : Nat := 0
  resTail : Nat := 0
  seq : Nat := 0
  replies : List Reply := []
  records : List Record := []
  rereadSeq : Option Nat := none
deriving DecidableEq, Repr

/-- An open request in its slot (R374, R375, R407). -/
structure Slot where
  slot : Nat
  tag : Nat
  queue : Nat
  pkey : Nat
  crec : Bool
  aFrame : Nat
  n : Nat
  arrival : Nat
  dueNs : Nat
  timed : Bool
  adpEn : Bool
  adpEntry : Nat
  desc : Nat
  input : List Byte
  chain : List Byte
  records : Nat
  complete : Bool
  ended : Bool
  drained : Bool
  fullFrame : Nat
  fullNs : Nat
deriving DecidableEq, Repr

/-- A comparator of a cue stream (R77). -/
structure CmpS where
  src : Nat := 0
  rel : Nat := 0
  val : Nat := 0
  set : Bool := false
deriving DecidableEq, Repr

/-- A cue stream (R90): program counter, counters, comparators, admission-result latch (R78), current command and its words,
whether its reply is still owed, commands waiting on its bound queues, status of the last check. -/
structure CueS where
  pc : Nat := 0
  cnt : Vector Nat 8 := Vector.replicate 8 0
  cmp : Vector CmpS 4 := Vector.replicate 4 {}
  admitted : Bool := false
  cur : Option Cmd := none
  owed : Bool := false
  inq : List Cmd := []
  status : Nat := 0
  waitq : List Instr := []
  free : Nat := 0
deriving DecidableEq, Repr

/-- Recording of external inputs (R398, R399): the buffer in use, the bytes used, a continuation buffer, entries, and whether it stops
once the entries that wait are written. -/
structure RecS where
  armed : Bool := false
  active : Bool := false
  addr : Nat := 0
  len : Nat := 0
  used : Nat := 0
  next : Option (Nat × Nat) := none
  entries : Nat := 0
  stopping : Bool := false
deriving DecidableEq, Repr

/-- A replay entry read from host memory (R400). -/
structure RepEntry where
  kind : Nat
  src : Nat
  frame : Nat
  seq : Nat
  addr : Nat
  val : Nat
  tag : Nat
  body : List Byte
deriving DecidableEq, Repr

/-- A clap in progress (R387): GO SUB (0 start, 1 resume, 2 realign, 3 restore), sequence number, positions whose READY has
arrived, the countdown in 1/16 cycles once the GO is there, the time of the call or, with a countdown, of its start, F_C of a
restore, and the command that waits. -/
structure ClapS where
  sub : Nat
  seq : Nat
  ready : List Nat
  rem : Option Nat
  callNs : Nat
  frame : Nat
  cmd : Option Cmd
deriving DecidableEq, Repr

/-- Why the chip holds before issue release (R404, R416, R434). -/
inductive Hold where
  | capture | park | reference
deriving DecidableEq, Repr

/-- A capture announced or in progress (R404, R434): its frame, whether it is a park, its command. -/
structure Capture where
  frame : Nat
  park : Bool
  cmd : Option Cmd
deriving DecidableEq, Repr

/-- What a module held before the call of a clap where its preparation changed it (R387): entries of the stores, the votes the preparation placed,
and of the chip record what a start or a restore replaces. -/
structure BeforeS where
  regs : List (Nat × Word)
  mem : List Host.Cell
  err : List Host.Cell
  poison : List (Nat × BitVec 3)
  full : List (Nat × Bool)
  tiles : List (Nat × TileS)
  twLast : List (Nat × Nat)
  votes : List (Nat × Nat)
  slots : List Slot
  cues : List (Nat × CueS)
  xfers : List Xfer
  inbound : List Inbound
  restored : Option Nat
  winFrame : Nat
  winLen : Nat
  slackWin : Nat
  capture : Option Capture
  hold : Option Hold
  rollA : RollS
  rollB : RollS
deriving DecidableEq, Repr

/-- A TEST_RUN in progress (R450–R454). -/
structure TestS where
  cmd : Cmd
  test : Nat
  full : Bool
  tile : Nat
  failTile : Nat
  unitsRun : Nat
  failed : Bool
  firstFail : Nat
  ce : Bool
  lastFrame : Option Nat
deriving DecidableEq, Repr

/-- A thermal sensor or input sensor (R464): last accepted reading, consecutive rejections, failed mark. -/
structure SensorS where
  last : Int := 0
  lastNs : Nat := 0
  seen : Bool := false
  rejects : Nat := 0
  failed : Bool := false
deriving DecidableEq, Repr

/-- A vault roll-store entry: Merkle root, shard digest, stored bytes (Table: Vault partitions). -/
structure StoredShard where
  root : List Byte
  digest : List Byte
  bytes : List Byte
deriving DecidableEq, Repr

/-- What the part, the manifest and the fabric timing map fix: grade, module count, digests, translator version, the manager's
position in the manifest and now, the standby's likewise, the provisioned ID of the management bus (R481), the neighbour entries of the ports (pos, port, depth; for 0, 1 and 2 bypassed modules),
and the job's circuit plan: for a circuit port the far module, its port, its depth to the switch and the switch transit (R318). Of the
whole domain `plan` holds the circuits (position, port, far position, far port, depth), `exits` the routing tables of the other baskets (basket, destination
basket, exit place, exit port), and `depths` the depths that the manifest declares for a port of another module (position, port, for 0, 1 and 2 bypassed
modules; R383, R386). -/
structure Part where
  grade3207 : Bool := false
  modules : Nat := 1
  manifestDigest : List Byte := []
  depthDigest : List Byte := []
  translator : Nat := 1
  manifestManager : Nat := 0
  managerPos : Nat := 0
  manifestStandby : Option Nat := none
  standbyPos : Option Nat := none
  provId : Nat := 0
  plan : List (Nat × Nat × Nat × Nat × Nat) := []
  exits : List (Nat × Nat × Nat × Nat) := []
  depths : List (Nat × Nat × List Nat) := []
  nb : List (List (Nat × Nat × Nat)) := []
  circuits : List (Nat × Nat × Nat × Nat × Nat) := []
deriving DecidableEq, Repr

/-- What the management bus answers (R457, R459, R463): codes, a numeric sensor's reading, none where it has none, or the provisioned ID
(R481). -/
inductive PldmCode where
  | success
  | verificationFailed
  | activationBlocked
  | errorInvalidData
  | reading (v : Option Int)
  | provisionedId (v : Nat)
deriving DecidableEq, Repr

set_option maxRecDepth 1024 in
/-- The state of the chip and module beside registers, memories, tiles and queues. -/
structure Chip where
  part : Part := {}
  -- time
  fcyc : Nat := 0
  ns : Nat := 0
  nsSub : Nat := 0
  -- frame
  starvedDone : Bool := false
  overrunDone : Bool := false
  winFrame : Nat := 0
  winLen : Nat := 0
  slackWin : Nat := 4
  sliceLen : Nat := 64
  halting : Bool := false
  haltCmds : List Cmd := []
  hold : Option Hold := none
  freezeAt : Option Nat := none
  freezeDomain : Bool := false
  freezeHits : List Nat := []
  -- mesh and transfers
  flits : List Flit := []
  nextId : Nat := 0
  xfers : List Xfer := []
  served : List (Nat × Nat) := []
  taken : List (Nat × Nat) := []
  credAt : List (Nat × Nat) := []
  spkPrev : Nat := 0
  lastTick : Nat := 0
  armedMaps : Option (List Nat) := none
  inbound : List Inbound := []
  ttagNext : Nat := 0
  rate : List (Nat × Nat) := []
  sent : List (Nat × Nat × Nat) := []
  marked : List Nat := []
  histCycles : Nat := 0
  readCycles : Nat := 0
  histCount : List (Nat × Nat) := []
  histRead : List (Nat × Nat) := []
  cmaps : List (Nat × List (Nat × Nat)) := []
  ports : List (Nat × PortS) := []
  -- maintenance
  refetch : List Refetch := []
  sfuTested : Bool := false
  noms : List Nat := []
  retire : Option Retire := none
  test : Option TestS := none
  -- rolls
  rollA : RollS := {}
  rollB : RollS := {}
  load : Option LoadS := none
  loadWait : List LoadAsk := []
  relay : Option LoadS := none
  armedRoll : Option Nat := none
  mirror : List (Nat × Nat) := []
  rollStore : List StoredShard := []
  reelStore : List (Nat × List Byte) := []
  lastLive : List Byte := []
  lastMask : Nat := 0
  lastRoll : RollS := {}
  -- job
  reel : Option (List Byte) := none
  translated : Nat := 0
  -- host
  fetched : List Cmd := []
  started : List Cmd := []
  slots : List Slot := []
  cues : List (Nat × CueS) := []
  readData : Word := 0
  window : List Byte := []
  msix : List (Nat × Nat) := []
  -- claps, capture, replay
  clap : Option ClapS := none
  clapSub : Nat := 0
  clapSeq : Nat := 0
  before : Option BeforeS := none
  tokensOut : List Token := []
  capture : Option Capture := none
  restored : Option Nat := none
  record : RecS := {}
  replay : List RepEntry := []
  replayCmd : Option Cmd := none
  freezeSeen : List Nat := []
  heldWrites : List Instr := []
  backlog : List RepEntry := []
  overrunCall : Bool := false
  reclap : Bool := false
  writer : Nat := 0x200
  selBy : List (Nat × Nat) := []
  haltBy : Option Nat := none
  -- clocks and power
  refBack : Bool := true
  samples : List Nat := []
  sensors : List (Nat × SensorS) := []
  powerSensor : SensorS := {}
  passWarn : List (Nat × Nat) := []
  dropDue : List Nat := []
  refused : List Nat := []
  parked : Bool := false
  heldDown : List Nat := []
  refHold : Bool := false
  tickHold : Nat := 0
  nextStep : Option Nat := none
  stepDue : Bool := false
  said : List (Nat × Nat) := []
  ageHalf : List (Nat × Nat) := []
  ageRise : Option (Nat × Nat) := none
  passSince : List (Nat × Nat) := []
  throttleNs : Nat := 0
  peakOn : Bool := false
  vinBad : Nat := 0
  wakeUntil : Nat := 0
  -- module
  vin : Bool := true
  mainUp : Bool := true
  inReset : Bool := false
  releaseWaits : Option Nat := none
  upSeq : Option Nat := none
  i3cAddr : Option Nat := none
  wasManager : Bool := false
  cold : Bool := true
  fwA : List Byte := []
  fwB : List Byte := []
  vaultFwA : List Byte := []
  vaultFwB : List Byte := []
  fwBad : Bool := false
  heartbeatNs : Nat := 0
  mgmtOut : List (Nat × Nat) := []
  grantWait : Bool := false
  loopback : List Nat := []
  lane4 : List (Nat × Bool) := []
  openWait : Bool := false
  mgmtIn : List Packet := []
  jtag : Nat := 0
  pldmReplies : List PldmCode := []
  ibis : Nat := 0
  sigs : List (Nat × Nat) := []
  retMaps : Option (List Nat) := none
  retSites : List (Nat × Nat) := []
  calCopies : List (Nat × List Byte) := []
  twLast : List (Nat × Nat) := []
  freeCtr : Nat := 0
deriving DecidableEq, Repr

/-- The state of the block. `pending` is the queue of commands that wait, first in, first out. -/
structure State where
  regs : List (Nat × Word)
  mem : List Host.Cell
  err : List Host.Cell
  poison : List (Nat × BitVec 3)
  full : List (Nat × Bool)
  host : List Host.Cell
  vault : List Host.Cell
  tiles : List (Nat × TileS)
  queues : List (Nat × QueueS)
  chip : Chip
  pending : List Instr
deriving DecidableEq, Repr

/-- Why the machine stops with a fault: nothing does, since every command has its effect. -/
inductive Fault where
deriving DecidableEq, Repr

/-- Why a command has no meaning. -/
inductive Refusal where
  /-- The command is not modelled yet. Safe. -/
  | notModelled (mnemonic : String)
  /-- The instruction is one that the translator refuses (R80–R98), or names a tile, stream, port, slot or queue that the part
  does not have: no translated program issues it and no unit raises it. Safe. -/
  | illFormed
deriving DecidableEq, Repr

/-- The module after RESET_N is released (R7): registers at their reset values, memories as the power-up zero-fill leaves
them (R134, R158, R230, R243), every granule empty, nothing in flight, no command waiting. -/
def State.reset : State :=
  { regs := [], mem := [], err := [], poison := [], full := [], host := [], vault := [], tiles := [], queues := [],
    chip := {}, pending := [] }

end Sys2Proof.Machine
end

