-- ==== Sys2Proof/Machine/Ops.lean ====
section
/-! DEFINITION. The named operations over registers, memories and the clock, and the one way a command changes the state: a
transaction (`Tx`) computes a list of primitive updates from the state it starts from, and `run` applies them. -/

namespace Sys2Proof.Machine

/-- What an unlisted entry of each store reads as. Memory: zero, as the power-up zero-fill leaves it (R134, R158, R230, R243);
instruction memory, sprocket store, class map, host memory and vault: zero (log entry 4). -/
def byte0 : Nat → Byte := fun _ => 0
def pois0 : Nat → BitVec 3 := fun _ => 0
def empty0 : Nat → Bool := fun _ => false
def tile0 : Nat → TileS := fun _ => {}
def queue0 : Nat → QueueS := fun _ => {}

/-- The outcome type of every meaning. -/
abbrev Out := Host.Outcome State Fault Refusal

/-- The primitive updates. The `drop` updates give what they name its reset value: bytes, errors and poison by key, registers by key,
full/empty bits, tiles, queues. -/
inductive Upd where
  | reg (k : Nat) (v : Word)
  | mem (k : Nat) (bs : List Byte)
  | err (k : Nat) (bs : List Byte)
  | poison (line : Nat) (c : BitVec 3)
  | full (g : Nat) (b : Bool)
  | host (a : Nat) (bs : List Byte)
  | vault (a : Nat) (bs : List Byte)
  | tile (t : Nat) (v : TileS)
  | queue (q : Nat) (v : QueueS)
  | chip (c : Chip)
  | dropMem (p : Nat → Bool)
  | dropRegs (p : Nat → Bool)
  | dropFull
  | dropTiles
  | dropQueues

/-- Write consecutive bytes of a byte store. -/
def putBytes (m : List Host.Cell) : Nat → List Byte → List Host.Cell
  | _, [] => m
  | k, b :: bs => putBytes (Sparse.set byte0 k b m) (k + 1) bs

/-- Apply one update. No update touches the queue of waiting commands. -/
def Upd.apply (u : Upd) (s : State) : State :=
  match u with
  | .reg k v => { s with regs := Sparse.set resetWord k v s.regs }
  | .mem k bs => { s with mem := putBytes s.mem k bs }
  | .err k bs => { s with err := putBytes s.err k bs }
  | .poison l c => { s with poison := Sparse.set pois0 l c s.poison }
  | .full g b => { s with full := Sparse.set empty0 g b s.full }
  | .host a bs => { s with host := putBytes s.host a bs }
  | .vault a bs => { s with vault := putBytes s.vault a bs }
  | .tile t v => { s with tiles := Sparse.set tile0 t v s.tiles }
  | .queue q v => { s with queues := Sparse.set queue0 q v s.queues }
  | .chip c => { s with chip := c }
  | .dropMem p => { s with
      mem := s.mem.filter fun c => !p c.1
      err := s.err.filter fun c => !p c.1
      poison := s.poison.filter fun c => !p (c.1 * 64) }
  | .dropRegs p => { s with regs := s.regs.filter fun c => !p c.1 }
  | .dropFull => { s with full := [] }
  | .dropTiles => { s with tiles := [] }
  | .dropQueues => { s with queues := [] }

/-- Apply updates in order. -/
def applyAll : List Upd → State → State
  | [], s => s
  | u :: us, s => applyAll us (u.apply s)

/-- A transaction: the updates a command makes, computed from the state it finds. -/
abbrev Tx := State → List Upd

/-- The state a transaction leaves. -/
def run (t : Tx) (s : State) : State := applyAll (t s) s

/-- A command's outcome when it completes. -/
def commit (t : Tx) (s : State) : Out := .next (run t s)

/-- No effect. -/
def skip : Tx := fun _ => []

/-- First `a`, then `b` on the state that `a` leaves. -/
def Tx.seq (a b : Tx) : Tx := fun s =>
  let u := a s
  u ++ b (applyAll u s)

/-- Transactions one after another. -/
def chain : List Tx → Tx
  | [] => skip
  | t :: ts => t.seq (chain ts)

/-- A transaction for each element, one after another. -/
def forEach {α : Type} (xs : List α) (f : α → Tx) : Tx := chain (xs.map f)

/-- `t` where the condition holds of the state found. -/
def whenS (p : State → Bool) (t : Tx) : Tx := fun s => if p s then t s else []

/-- `t` where the condition holds. -/
def when (p : Bool) (t : Tx) : Tx := fun s => if p then t s else []

/-- Choose a transaction from the state found. -/
def look (f : State → Tx) : Tx := fun s => f s s

/-! ### Registers and fields -/

/-- The stored word of the register with key `k`. -/
def State.reg (s : State) (k : Nat) : Word := Sparse.get resetWord s.regs k

/-- Number of bits of a field. -/
def Fld.width (f : Fld) : Nat := f.hi + 1 - f.lo

/-- A field of a word. -/
def fget (w : Word) (f : Fld) : Nat := (w.toNat >>> f.lo) % 2 ^ f.width

/-- The mask of a field's bits. -/
def fmask (f : Fld) : Word := BitVec.ofNat 64 ((2 ^ f.width - 1) <<< f.lo)

/-- A word with a field replaced. -/
def fset (w : Word) (f : Fld) (v : Nat) : Word :=
  (w &&& ~~~fmask f) ||| (BitVec.ofNat 64 ((v % 2 ^ f.width) <<< f.lo))

/-- A field of a register. -/
def State.rf (s : State) (k : Nat) (f : Fld) : Nat := fget (s.reg k) f

/-- A one-bit field of a register. -/
def State.rb (s : State) (k : Nat) (f : Fld) : Bool := s.rf k f == 1

/-- Store a whole register. -/
def setReg (k : Nat) (v : Word) : Tx := fun _ => [.reg k v]

/-- Store a natural number in a whole register. -/
def setRegN (k v : Nat) : Tx := setReg k (BitVec.ofNat 64 v)

/-- Store one field of a register. -/
def setF (k : Nat) (f : Fld) (v : Nat) : Tx := fun s => [.reg k (fset (s.reg k) f v)]

/-- Set a one-bit field. -/
def setB (k : Nat) (f : Fld) (b : Bool) : Tx := setF k f b.toNat

/-- Increase a counter field by `n`, saturating at its largest value. -/
def incF (k : Nat) (f : Fld) (n : Nat) : Tx := fun s =>
  [.reg k (fset (s.reg k) f (min (s.rf k f + n) (2 ^ f.width - 1)))]

/-- The word of a TW register whose low half is `v` (R8). -/
def twWord (v : Nat) : Word :=
  BitVec.ofNat 64 (v % 0x100000000 + (0xFFFFFFFF - v % 0x100000000) * 0x100000000)

/-- Do the halves of a TW word agree (R8, R10)? -/
def twAgree (w : Word) : Bool := w.toNat / 0x100000000 == 0xFFFFFFFF - w.toNat % 0x100000000

/-- The registers whose reset value depends on the grade, with the LZM-3207's value: the grade code, the bit-identity key and the
row maps, which hold four unused sites (R1, R288, R391; log entry 2). -/
def gradeWords : List (Nat × Word) :=
  [(R.AUD_KEY_SRC, fset (resetWord R.AUD_KEY_SRC) F.AUD_KEY_SRC_GRADE 0x3207), (R.AUD_BITKEY, BitVec.ofNat 64 bitKeyReset3207)] ++
    (List.range 16).flatMap fun y => [(R.MSH_ROWMAP y, twWord Config.rowMap3207Val),
      (R.MSH_ROWMAP_CUR y, BitVec.ofNat 64 Config.rowMap3207Val), (R.MSH_ROWFUSE y, BitVec.ofNat 64 Config.rowMap3207Val)]

/-- The reset value of the register with key `k` on this part (R1, R7). -/
def State.resetTo (s : State) (k : Nat) : Word :=
  if s.chip.part.grade3207 then ((gradeWords.find? (·.1 == k)).map (·.2)).getD (resetWord k) else resetWord k

/-- On an LZM-3207, those registers of `gradeWords` that `p` names take their values (R1). -/
def gradeRegistersOf (p : Nat → Bool) : Tx := fun s =>
  if s.chip.part.grade3207 then (gradeWords.filter fun x => p x.1).map fun x => .reg x.1 x.2 else []

/-- All of them do. -/
def gradeRegisters : Tx := gradeRegistersOf fun _ => true

/-- The value a unit takes from a TW register: its low half, or the last value that agreed when the halves differ (R10). -/
def State.tw (s : State) (k : Nat) : Nat :=
  if twAgree (s.reg k) then (s.reg k).toNat % 0x100000000
  else match s.chip.twLast.find? (fun p => p.1 == k) with
    | some p => p.2
    | none => (s.resetTo k).toNat % 0x100000000

/-- Store a TW register in both halves and note its value as the last that agreed. -/
def setTw (k v : Nat) : Tx := fun s =>
  [.reg k (twWord v),
   .chip { s.chip with twLast := (k, v % 0x100000000) :: s.chip.twLast.filter (fun p => p.1 != k) }]

/-! ### The rest of the state -/

/-- Change the chip record. -/
def modChip (f : Chip → Chip) : Tx := fun s => [.chip (f s.chip)]

/-- Tile `t`'s state. -/
def State.tile (s : State) (t : Nat) : TileS := Sparse.get tile0 s.tiles t

/-- Change tile `t`'s state. -/
def modTile (t : Nat) (f : TileS → TileS) : Tx := fun s => [.tile t (f (s.tile t))]

/-- Queue `q`. -/
def State.queue (s : State) (q : Nat) : QueueS := Sparse.get queue0 s.queues q

/-- Change queue `q`. -/
def modQueue (q : Nat) (f : QueueS → QueueS) : Tx := fun s => [.queue q (f (s.queue q))]

/-- Port `p`'s state. -/
def State.port (s : State) (p : Nat) : PortS := Sparse.get (fun _ => {}) s.chip.ports p

/-- Change port `p`'s state. -/
def modPort (p : Nat) (f : PortS → PortS) : Tx := fun s =>
  [.chip { s.chip with ports := Sparse.set (fun _ => {}) p (f (s.port p)) s.chip.ports }]

/-- Cue stream `k`. -/
def State.cue (s : State) (k : Nat) : CueS := Sparse.get (fun _ => {}) s.chip.cues k

/-- Change cue stream `k`. -/
def modCue (k : Nat) (f : CueS → CueS) : Tx := fun s =>
  [.chip { s.chip with cues := Sparse.set (fun _ => {}) k (f (s.cue k)) s.chip.cues }]

/-- The granule's full/empty bit (R53). -/
def State.isFull (s : State) (t g : Nat) : Bool := Sparse.get empty0 s.full (t * 6144 + g % 6144)

/-- A fresh free value: the value the model's opaque source gives for the state's counter (log entry 3). -/
def State.free (s : State) : Word := Config.freeValue s.chip.freeCtr

/-- Move to the next free value. -/
def bumpFree : Tx := modChip fun c => { c with freeCtr := c.freeCtr + 1 }

/-! ### Memories -/

/-- The key of byte `off` of a space of a tile: bits [53:0] of its global address (R11). -/
def memKey (space tile off : Nat) : Nat := (tile * 8 + space) * 0x40000000000 + off

/-- The size of each space (R12); space 6 is reserved. -/
def spaceSize : Nat → Nat
  | 0 => 0x180000
  | 1 => 0x1000000
  | 2 => 0x20000
  | 3 => 0x4000
  | 4 => 0x4000
  | 5 => 0x50000
  | 7 => 0x100000
  | _ => 1

/-- An offset within its space (R14). -/
def wrapOff (space off : Nat) : Nat := off % spaceSize space

/-- The stored byte before any error (the byte that was written). -/
def State.byte (s : State) (k : Nat) : Byte := Sparse.get byte0 s.mem k

/-- The error over a stored byte: the bits that differ from what was written. -/
def State.errByte (s : State) (k : Nat) : Byte := Sparse.get byte0 s.err k

/-- `n` consecutive bytes as written. -/
def State.bytes (s : State) (k : Nat) : Nat → List Byte
  | 0 => []
  | n + 1 => s.byte k :: State.bytes s (k + 1) n

/-- The errors over `n` consecutive bytes. -/
def State.errBytes (s : State) (k : Nat) : Nat → List Byte
  | 0 => []
  | n + 1 => s.errByte k :: State.errBytes s (k + 1) n

/-- Is the line poisoned: two or more of its three copies are set (R118)? -/
def State.linePoison (s : State) (line : Nat) : Bool :=
  let c := (Sparse.get pois0 s.poison line).toNat
  decide (2 ≤ c % 2 + c / 2 % 2 + c / 4 % 2)

/-- The three copies of a poison state (R118). -/
def poisonCopies (b : Bool) : BitVec 3 := if b then 7 else 0

/-- The host's address space: addresses are 64 bits, and a buffer that passes the top goes on at 0 (DESIGN CHOICE, log entry 11). -/
def hostSpace : Nat := 0x10000000000000000

/-- Host memory byte. -/
def State.hostByte (s : State) (a : Nat) : Byte := Sparse.get byte0 s.host (a % hostSpace)

/-- `n` bytes of host memory. -/
def State.hostBytes (s : State) (a : Nat) : Nat → List Byte
  | 0 => []
  | n + 1 => s.hostByte a :: State.hostBytes s (a + 1) n

/-- `n` bytes of the vault's tier mirror. -/
def State.vaultBytes (s : State) (a : Nat) : Nat → List Byte
  | 0 => []
  | n + 1 => Sparse.get byte0 s.vault a :: State.vaultBytes s (a + 1) n

/-- The key of byte `off` of the sprocket store (R45). -/
def sprocketKey (off : Nat) : Nat := memKey 6 0 (off % 0x40000)

/-- The key of byte `off` of the class map (R119). -/
def classKey (off : Nat) : Nat := memKey 6 1 (off % 0x4000)

/-- The current frame number. -/
def State.frame (s : State) : Nat := (s.reg R.FRM_COUNT).toNat

/-- Is granule `g` of tile `t` the first of request slot `n`'s result area (R372, R377)? -/
def State.resultHead (s : State) (n t g : Nat) : Bool :=
  let a := (s.reg (R.HIF_REQ_AREA_1 n)).toNat
  a / 0x200000000000 % 512 == t && a / 0x40000000000 % 8 == 0 && a % 0x40000000000 / 256 == g

/-- What a slot keeps when granule 0 of its result area becomes full in frame `f` at time `ns`; `fin` says FINAL. -/
def Slot.filled (x : Slot) (f ns : Nat) (fin : Bool) : Slot :=
  { x with fullFrame := f, fullNs := ns, complete := x.complete || (!x.ended && fin) }

/-- A result area's granule 0 became full: its frame and time are kept, and a FINAL record completes its request (R375–R378). -/
def noteResult (t g : Nat) : Tx := fun s =>
  let fin := (s.byte (memKey 0 t (256 * g + 4))).toNat.testBit 0
  let f := fun (x : Slot) => if s.resultHead x.slot t g then x.filled s.frame s.chip.ns fin else x
  if s.chip.slots.any (fun x => s.resultHead x.slot t g) then [.chip { s.chip with slots := s.chip.slots.map f }] else []

/-- Set a granule's full/empty bit. -/
def setFull (t g : Nat) (b : Bool) : Tx := fun s =>
  .full (t * 6144 + g % 6144) b :: (if b && !s.isFull t g then noteResult t (g % 6144) s else [])

/-! ### The part -/

/-- Logical columns per row (R1). -/
def State.cols (s : State) : Nat := if s.chip.part.grade3207 then 30 else 32

/-- Logical tile count (R1). -/
def State.numTiles (s : State) : Nat := 16 * s.cols

/-- The grade code. -/
def State.grade (s : State) : Nat := if s.chip.part.grade3207 then 0x3207 else 0x3208

/-- The logical tiles. -/
def State.tileList (s : State) : List Nat := List.range s.numTiles

/-- The module's position in the job domain. -/
def State.position (s : State) : Nat := s.rf R.MOD_ROLE F.MOD_ROLE_POSITION

/-- Is this module the manager? -/
def State.isManager (s : State) : Bool := s.rf R.MOD_ROLE F.MOD_ROLE_ROLE == 1

/-- Is a job running? -/
def State.running (s : State) : Bool := s.rb R.FRM_CTL F.FRM_CTL_RUN

/-- Is the chip frozen (R101)? -/
def State.frozen (s : State) : Bool := s.rb R.FRM_CTL F.FRM_CTL_FROZEN

/-- The frame length in cycles. -/
def State.frmLen (s : State) : Nat := s.tw R.FRM_LEN

/-! ### Power (R428, R435, R483, R484) -/

/-- State of power domain `d`: 3 ACTIVE, 2 IDLE, 1 RETAIN, 0 OFF. -/
def State.domState (s : State) (d : Nat) : Nat := s.rf R.PWR_STATE F.PWR_STATE_STATE / 4 ^ d % 4

/-- Set a domain's state. -/
def setDom (d v : Nat) : Tx := fun s =>
  setF R.PWR_STATE F.PWR_STATE_STATE (s.rf R.PWR_STATE F.PWR_STATE_STATE - s.domState d * 4 ^ d + v * 4 ^ d) s

/-- The votes that clients hold on a domain. -/
def State.held (s : State) (d : Nat) : Nat := s.rf (R.PWR_VOTE d) F.PWR_VOTE_SLOTS

/-- The fabric ports of a domain (Table: Power domains). -/
def domPorts : Nat → List Nat
  | 4 => [0, 1, 2, 3, 4, 5, 6, 7]
  | 5 => [8, 9, 10, 11]
  | 6 => [12, 13]
  | _ => []

/-- The slots that firmware holds on a domain while it works there (Table: Vote slots): slot 2 for loads, slot 3 for refetches, scrub and
training (which slot stands for which is a DESIGN CHOICE, log entry 62). -/
def State.fwVotes (s : State) (d : Nat) : Nat :=
  let c := s.chip
  let load := [2, 3, 7].contains d && (c.load.isSome || !c.loadWait.isEmpty)
  let work := ([2, 3, 7].contains d && !c.refetch.isEmpty) ||
    ([2, 3].contains d && s.running && c.hold.isNone && !c.parked && s.rb R.TIR_SCRUB_CTL F.TIR_SCRUB_CTL_EN) ||
    (domPorts d).any fun p => [1, 2].contains (s.rf (R.FAB_PORT_STAT p) F.FAB_PORT_STAT_STATE)
  4 * load.toNat + 8 * work.toNat

/-- Votes of a domain (R431). -/
def State.votes (s : State) (d : Nat) : Nat := s.held d ||| s.fwVotes d

/-- Firmware begins work on domains: each is up, and where no client holds it, its drop is due once the work ends (R431). -/
def workOn (ds : List Nat) : Tx := forEach ds fun d => chain [
  setDom d 3, whenS (fun s => s.held d == 0) (modChip fun c => { c with dropDue := d :: c.dropDue.filter (· != d) })]

/-- Work or an access takes a domain out of IDLE (R435). -/
def rouse (d : Nat) : Tx := whenS (fun s => s.domState d == 2) (setDom d 3)

/-- The power domain of a fabric port (Table: Power domains). -/
def portDom (p : Nat) : Nat := if p < 8 then 4 else if p < 12 then 5 else 6

/-- Is there standby power (R474)? -/
def State.powered (s : State) : Bool := s.chip.vin

/-- Does the PCIe endpoint serve the host: there is power, RESET_N is released, and step 5 is complete (R483, R484, R488)? STEP reads 0 in
`State.reset` alone, which is the module after its power-up (log entry 66). -/
def State.served (s : State) : Bool :=
  s.chip.vin && !s.chip.inReset && (s.rf R.MOD_STAT F.MOD_STAT_STEP == 0 || decide (5 ≤ s.rf R.MOD_STAT F.MOD_STAT_STEP))

/-- May bypass switches open: VAON is there, RESET_N is released and no fault has removed the main group (R482)? -/
def State.mayOpen (s : State) : Bool := s.chip.vin && !s.chip.inReset && s.chip.mainUp

/-! ### The clock -/

/-- Core cycles per 80 ns: the core frequency is 12.5 MHz × (72 + STEP) (R417). -/
def State.perUnit (s : State) : Nat := 72 + s.rf R.CLK_CUR F.CLK_CUR_STEP

/-- HIF_TIME when `n` more core cycles have passed, rounded up. -/
def State.nsAfter (s : State) (n : Nat) : Nat := s.chip.ns + (s.chip.nsSub + 80 * n + s.perUnit - 1) / s.perUnit

/-- Flits of unscheduled traffic in the buffer of input port `p` of tile `t`'s router. -/
def Chip.held (c : Chip) (t p : Nat) : Nat := (c.flits.filter fun f => !f.sched && !f.wait && f.cur == t && f.inPort == p).length

/-- Flits in a port's unscheduled egress queue. -/
def PortS.queued (x : PortS) : Nat := (x.queue.map fun k => max 1 (k.payload.length / 64)).foldl (· + ·) 0

/-- The histogram bin of a router whose fullest input holds `n` flits (R326). -/
def routerBin (n : Nat) : Nat := if n = 0 then 0 else if n ≤ 2 then 1 else if n ≤ 5 then 2 else 3

/-- The histogram bin of an egress queue of `n` flits, in eighths of its capacity (R326). -/
def portBin (n : Nat) : Nat := if n = 0 then 0 else min 7 (1 + (8 * n - 1) / Config.egressCapacity)

/-- The histogram words, bin 0 apart, that count a cycle now. -/
def Chip.bins (c : Chip) : List Nat :=
  ((c.ports.map fun x => (x.1, portBin x.2.queued)).filter fun x => x.2 != 0).map (fun x => 8 * x.1 + x.2) ++
    ((c.flits.filter fun f => !f.sched).map (·.cur)).eraseDups.map fun t =>
      128 + 4 * t + routerBin (((List.range 5).map fun p => c.held t p).foldl max 0)

/-- Add `n` to the count of word `w`. -/
def addCount (n : Nat) (h : List (Nat × Nat)) (w : Nat) : List (Nat × Nat) :=
  Sparse.set (fun _ => 0) w (Sparse.get (fun _ => 0) h w + n) h

/-- `n` core cycles pass: the always-on time moves on, and the frame cycle counter while frames run and are not frozen or held
(R23, R101); the congestion histograms count (R326). -/
def elapse (n : Nat) : Tx := fun s =>
  let c := s.chip
  let tot := c.nsSub + 80 * n
  let en := s.rb R.FAB_CMAP_CTL F.FAB_CMAP_CTL_EN
  [.chip { c with
    ns := c.ns + tot / s.perUnit
    nsSub := tot % s.perUnit
    fcyc := if s.running && !s.frozen && c.hold.isNone then c.fcyc + n else c.fcyc
    histCycles := if en then c.histCycles + n else c.histCycles
    histCount := if en then c.bins.foldl (addCount n) c.histCount else c.histCount }]

/-- Time moves on to frame cycle `c`, if it has not passed it (log entry 5). -/
def elapseTo (c : Nat) : Tx := fun s => elapse (c - s.chip.fcyc) s

/-- The always-on time moves on to `ns`, if it has not passed it (log entry 5). -/
def elapseToNs (ns : Nat) : Tx := fun s =>
  if s.chip.ns < ns then elapse (((ns - s.chip.ns) * s.perUnit + 79) / 80) s else []

/-! ### Replies and events -/

/-- Entries of a completion ring: 2^(CQSZ + 4). -/
def QueueS.cqSize (q : QueueS) : Nat := 2 ^ (fget q.cfg F.HIF_Q_CFG_CQSZ + 4)

/-- Slots of a submission ring: 2^(SQSZ + 4). -/
def QueueS.sqSize (q : QueueS) : Nat := 2 ^ (fget q.cfg F.HIF_Q_CFG_SQSZ + 4)

/-- Slots of a result ring: 2^(RSZ + 8). -/
def QueueS.resSize (q : QueueS) : Nat := 2 ^ (fget q.cfg F.HIF_Q_CFG_RSZ + 8)

/-- Is the queue enabled? -/
def QueueS.en (q : QueueS) : Bool := fget q.cfg F.HIF_Q_CFG_EN == 1

/-- Free entries of the completion ring, the replies that wait already counted (R365, log entry 6). -/
def QueueS.cqRoom (q : QueueS) : Nat :=
  q.cqSize - 1 - (q.cqTail + q.cqSize - q.cqHead) % q.cqSize - q.replies.length

/-- The list without the one command that is answered: `c` itself, or the oldest of its queue with its place in the ring and its tag (R365). -/
def answeredOnce (c : Cmd) (cs : List Cmd) : List Cmd :=
  if cs.contains c then cs.erase c else cs.eraseP fun d => d.queue == c.queue && d.sqHead == c.sqHead && d.tag == c.tag

/-- A command's reply waits for room in the queue's completion ring (R365). That of a queue disabled meanwhile is discarded (R361). -/
def queueReply (c : Cmd) (status detail detail2 : Nat) : Tx := look fun s =>
  when (s.queue c.queue).en <| modQueue c.queue fun q =>
    { q with replies := q.replies ++ [⟨c.tag.toNat, status, c.opcode, detail, s.frame, detail2, c.sqHead, false⟩] }

/-- Post the reply of a command that was fetched: it is no longer outstanding. -/
def postReply (c : Cmd) (status detail detail2 : Nat) : Tx :=
  chain [
    queueReply c status detail detail2,
    modChip fun ch => { ch with fetched := answeredOnce c ch.fetched, started := answeredOnce c ch.started }]

/-- Does `c` start next: it is the oldest fetched command of its queue that has not started (R364)? -/
def State.mayStart (s : State) (c : Cmd) : Bool :=
  (s.chip.fetched.find? fun d => d.queue == c.queue && !s.chip.started.contains d) == some c

/-- The commands of one queue start in ring order (R364): a command that is not the next of its queue does nothing. -/
def onStart (c : Cmd) (tx : Tx) : Tx := whenS (fun s => s.mayStart c) <|
  chain [modChip fun ch => { ch with started := ch.started ++ [c] }, tx]

/-- Is ALERT_N asserted: is an enabled bit of MOD_ALERT set (R480)? -/
def State.alerts (s : State) : Bool := s.reg R.MOD_ALERT &&& s.reg R.MOD_ALERT_EN != 0

/-- After a change that may assert ALERT_N: its fall raises an in-band interrupt of the management bus (R481). `was` says how it stood. -/
def noteAlert (was : Bool) : Tx := whenS (fun s => !was && s.alerts) (modChip fun c => { c with ibis := c.ibis + 1 })

/-- A bit of MOD_ALERT is set. -/
def raiseAlert (f : Fld) : Tx := fun s => chain [setF R.MOD_ALERT f 1, noteAlert s.alerts] s

/-- A signal of an observation pin or trigger pin occurs now: `sig` of unit `u` (R466, R467). -/
def noteSig (sig u : Nat) : Tx := modChip fun c => { c with sigs := Sparse.set (fun _ => 0) (512 * sig + u) (c.ns + 1) c.sigs }

/-- Post an event to queue 0, or drop and count it when the ring is full or the queue is not enabled (R369, log entry 6). -/
def postEvent (status detail : Nat) : Tx := fun s =>
  let q := s.queue 0
  if q.en && decide (0 < q.cqRoom) then
    chain [modQueue 0 fun q => { q with replies := q.replies ++ [⟨0xFFFFFFFFFFFFFFFF, status, 0, detail, s.frame, 0, q.sqHead, true⟩] },
      raiseAlert F.MOD_ALERT_EVENT] s
  else incF R.HIF_STAT F.HIF_STAT_EVENT_LOST 1 s

/-- Set a status bit; where it was 0, post its event (R369). -/
def raise (k : Nat) (f : Fld) (status detail : Nat) : Tx := fun s =>
  if s.rb k f then [] else chain [setF k f 1, postEvent status detail] s

/-- A TW register is checked at a use: where its halves disagree a TW_UPSET fault is raised (R10). -/
def twCheck (k gaddr : Nat) : Tx := fun s =>
  if twAgree (s.reg k) then [] else postEvent 0x0806 (gaddr % 0x100000000) s

/-- A use of chip register `k`, whose offset is the low half of its global address (R10, R11). -/
def twUse (k : Nat) : Tx := twCheck k k

/-- Write bytes into host memory, in the 64-bit address space. -/
def hostWrite (a : Nat) (bs : List Byte) : Tx := fun _ =>
  let k := a % hostSpace
  let n := hostSpace - k
  if bs.length ≤ n then [.host k bs] else [.host k (bs.take n), .host 0 (bs.drop n)]

end Sys2Proof.Machine
end

