-- ==== Sys2Proof/Machine/Memory.lean ====
section
/-! DEFINITION. Tier columns and scratchpads (spec/04): error codes, poison, the repair buffer, refetch requests, roll-slot
translation, reads and writes of whole lines and of parts of lines, with the counters they move. -/

namespace Sys2Proof.Machine

/-! ### Global addresses (R11) -/

/-- Module id of a global address. -/
def gMod (g : Nat) : Nat := g / 0x40000000000000 % 1024
/-- Logical tile of a global address. -/
def gTile (g : Nat) : Nat := g / 0x200000000000 % 512
/-- Space code of a global address. -/
def gSpace (g : Nat) : Nat := g / 0x40000000000 % 8
/-- Offset of a global address. -/
def gOff (g : Nat) : Nat := g % 0x40000000000
/-- The global address of an offset (R11). -/
def gaddr (m t sp off : Nat) : Nat := m * 0x40000000000000 + t * 0x200000000000 + sp * 0x40000000000 + off
/-- An address that R13 detects: space code 6, or a tile at or above the part's count. Space 7 ignores the tile field (R12). -/
def State.badAddr (s : State) (g : Nat) : Bool :=
  gSpace g == 6 || (gSpace g != 7 && decide (s.numTiles ≤ gTile g))

/-! ### Error codes -/

/-- Number of ones among the lowest `n` bits. -/
def popcount : Nat → Nat → Nat
  | 0, _ => 0
  | n + 1, x => x % 2 + popcount n (x / 2)

/-- The columns of the (72,64) code: weight 3 ascending, then the eight smallest of weight 5 (R117). -/
def secCols : List Nat :=
  (List.range 256).filter (fun v => popcount 8 v == 3) ++ [0x1F, 0x2F, 0x37, 0x3B, 0x3D, 0x3E, 0x4F, 0x57]

/-- The syndrome that an error mask over a word's data bits gives (R117). -/
def secSyndrome (mask : Nat) : Nat :=
  (secCols.zipIdx.filter (fun ci => mask.testBit ci.2)).foldl (fun a ci => a ^^^ ci.1) 0

/-- What decoding delivers: data, corrected units, uncorrectable. -/
structure Decoded where
  data : List Byte
  fixed : Nat
  ue : Bool
deriving DecidableEq, Repr

/-- Decode one scratchpad word stored as `raw` whose data bits differ from what was written by `mask` (R117). -/
def secDecode (raw : List Byte) (mask : Nat) : Decoded :=
  if mask = 0 then ⟨raw, 0, false⟩ else
    let syn := secSyndrome mask
    if syn = 0 then ⟨raw, 0, false⟩ else
      match secCols.findIdx? (· == syn) with
      | some i => ⟨leBytes 8 (leNat raw ^^^ 2 ^ i), 1, false⟩
      | none => if popcount 8 syn = 1 then ⟨raw, 1, false⟩ else ⟨raw, 0, true⟩

/-- Twice an element of GF(2^8), modulo x^8 + x^4 + x^3 + x^2 + 1 (R115). -/
def gfTwice (a : Nat) : Nat := if a < 128 then 2 * a else (2 * a) ^^^ 0x11D

/-- The product of `a` and the lowest `n` bits of `b`. -/
def gfMulN : Nat → Nat → Nat → Nat
  | 0, _, _ => 0
  | n + 1, a, b => (if b % 2 = 1 then a else 0) ^^^ gfMulN n (gfTwice a) (b / 2)

/-- The product of two elements. -/
def gfMul (a b : Nat) : Nat := gfMulN 8 a b

/-- `a` to the power `n`. -/
def gfPow (a : Nat) : Nat → Nat
  | 0 => 1
  | n + 1 => gfMul a (gfPow a n)

/-- The quotient of two elements, the divisor not zero. -/
def gfDiv (a b : Nat) : Nat := gfMul a (gfPow b 254)

/-- The generator polynomial (x − α⁰)…(x − α⁵), α = 2, highest coefficient first (R115). -/
def rsGen : List Nat := (List.range 6).foldl (fun g i =>
  List.zipWith (· ^^^ ·) (g ++ [0]) (0 :: g.map (gfMul (gfPow 2 i)))) [1]

/-- The six check bytes of a line: what the data as the coefficients of x^69 down to x^6 leaves by the generator (R115). -/
def rsCheck (data : List Byte) : List Byte :=
  (data.foldl (fun (r : List Nat) d =>
    List.zipWith (· ^^^ ·) (r.tail ++ [0]) (rsGen.tail.map (gfMul (d.toNat ^^^ r.headD 0)))) (List.replicate 6 0)).map (BitVec.ofNat 8)

/-- The six syndromes of a stored word: its values at α⁰ to α⁵. -/
def rsSyndromes (word : List Byte) : List Nat :=
  (List.range 6).map fun j => word.foldl (fun a c => gfMul a (gfPow 2 j) ^^^ c.toNat) 0

/-- The error of at most two symbols that gives some syndromes: (power of x, value). -/
def rsLocate (s : List Nat) : Option (List (Nat × Nat)) :=
  let x (i : Nat) := s.getD i 0
  let det := gfMul (x 1) (x 1) ^^^ gfMul (x 0) (x 2)
  if det = 0 then
    ((List.range 70).find? fun p => (List.range 6).all fun j => x j == gfMul (x 0) (gfPow 2 (j * p))).bind fun p =>
      if x 0 = 0 then none else some [(p, x 0)]
  else
    let a := gfDiv (gfMul (x 1) (x 2) ^^^ gfMul (x 0) (x 3)) det
    let b := gfDiv (gfMul (x 2) (x 2) ^^^ gfMul (x 1) (x 3)) det
    if x 4 == gfMul a (x 3) ^^^ gfMul b (x 2) && x 5 == gfMul a (x 4) ^^^ gfMul b (x 3) then
      match (List.range 70).filter fun p => let r := gfPow 2 p; gfMul r r ^^^ gfMul a r ^^^ b == 0 with
      | [p, q] =>
        let v := gfDiv (x 1 ^^^ gfMul (x 0) (gfPow 2 q)) (gfPow 2 p ^^^ gfPow 2 q)
        some [(p, v), (q, x 0 ^^^ v)]
      | _ => none
    else none

/-- Decode the stored word of a tier line, its data written as `data` with the error `e` over it: up to two symbols are corrected, three
and four detected; what the decoder makes of more is open (R115, R116). -/
def rsDecode (data e : List Byte) : Decoded :=
  let raw := List.zipWith (· ^^^ ·) data e
  if e.all (· == 0) then ⟨data, 0, false⟩
  else if 4 < (e.filter (· != 0)).length then
    match Config.rsBeyond raw e with
    | some d => ⟨d, 1, false⟩
    | none => ⟨raw, 0, true⟩
  else match rsLocate (rsSyndromes (raw ++ rsCheck data)) with
    | some es => ⟨raw.zipIdx.map fun b => es.foldl (fun a x => if x.1 + b.2 = 69 then a ^^^ BitVec.ofNat 8 x.2 else a) b.1, 1, false⟩
    | none => ⟨raw, 0, true⟩

/-! ### Reading lines -/

/-- What a read of a line delivers: 64 bytes, whether they are poisoned, corrected units, and where the line is uncorrectable
the offset of its first uncorrectable word. -/
structure LineRead where
  data : List Byte
  poison : Bool
  fixed : Nat
  ue : Option Nat
deriving DecidableEq, Repr

/-- The words of a scratchpad line at byte offset `off`, each decoded (R117). -/
def State.spdWords (s : State) (t off : Nat) : List Decoded :=
  (List.range 8).map fun w =>
    let k := memKey 0 t (off + 8 * w)
    let raw := List.zipWith (· ^^^ ·) (s.bytes k 8) (s.errBytes k 8)
    secDecode raw (leNat (s.errBytes k 8))

/-- A read of the scratchpad line that holds offset `off` (R117, R118, R126). -/
def State.spdLine (s : State) (t off : Nat) : LineRead :=
  let o := wrapOff 0 off / 64 * 64
  let ws := s.spdWords t o
  let ue := (ws.findIdx? (·.ue)).map (fun i => o + 8 * i)
  { data := (ws.map (·.data)).flatten, poison := s.linePoison (memKey 0 t o / 64) || ue.isSome,
    fixed := (ws.map (·.fixed)).foldl (· + ·) 0, ue := ue }

/-- Is region `r` of tile `t` a weight region (R119)? -/
def State.weightRegion (s : State) (t r : Nat) : Bool :=
  (s.byte (classKey (32 * t + r % 256 / 8))).toNat.testBit (r % 8)

/-- The repair-buffer entry, or the line a fresh refetch has delivered, that stands for a line (R124). -/
def State.standIn (s : State) (t off : Nat) : Option Repair :=
  ((s.tile t).repair ++ (s.tile t).granted).find? (·.off == off)

/-- The tier line at a line offset as its storage holds it (R116, R118). -/
def State.tierStored (s : State) (t o : Nat) : LineRead :=
  let k := memKey 1 t o
  let d := rsDecode (s.bytes k 64) (s.errBytes k 64)
  { data := d.data, poison := s.linePoison (k / 64) || d.ue, fixed := d.fixed, ue := if d.ue then some o else none }

/-- A read of the tier line that holds offset `off`, not translated (R124). -/
def State.tierLine (s : State) (t off : Nat) : LineRead :=
  let o := wrapOff 1 off / 64 * 64
  match s.standIn t o with
  | some r => ⟨r.data, r.poison, 0, none⟩
  | none => s.tierStored t o

/-- A line as it was written, whatever error lies over it. -/
def State.lineMeant (s : State) (sp t o : Nat) : List Byte :=
  match if sp = 1 then s.standIn t o else none with
  | some e => e.data
  | none => s.bytes (memKey sp t o) 64

/-- The slot mask of a roll descriptor (0 A, 1 B), bit `g` (R338). -/
def State.slotMask (s : State) (x g : Nat) : Bool :=
  (s.reg (if x = 0 then R.ROL_DESC_A_MASK (g / 64) else R.ROL_DESC_B_MASK (g / 64))).toNat.testBit (g % 64)

/-- Group `g`'s table entry where it is USED: A_FIRST, region count, B_FIRST, HAS_B (R337). -/
def State.group (s : State) (g : Nat) : Option (Nat × Nat × Nat × Bool) :=
  let k := R.ROL_GROUP g
  if s.rb k F.ROL_GROUP_USED then
    some (s.rf k F.ROL_GROUP_A_FIRST, s.rf k F.ROL_GROUP_COUNTM1 + 1, s.rf k F.ROL_GROUP_B_FIRST, s.rb k F.ROL_GROUP_HAS_B)
  else none

/-- Roll-slot translation of a tier read at tile `t` (R339). -/
def State.translate (s : State) (t off : Nat) : Nat :=
  let o := wrapOff 1 off
  match (s.tile t).serving with
  | none => o
  | some x =>
    let r := o / 0x10000
    match (List.range 256).find? (fun g => match s.group g with
        | some (a, n, _, _) => decide (a ≤ r ∧ r < a + n) && s.slotMask x g
        | none => false) with
    | some g => match s.group g with
      | some (a, _, b, _) => wrapOff 1 (o + b * 0x10000 + 0x1000000 - a * 0x10000)
      | none => o
    | none => o

/-- The line that a stream's read of a space touches: translated in the tier. -/
def State.lineAt (s : State) (sp t off : Nat) : LineRead :=
  if sp = 1 then s.tierLine t (s.translate t off) else s.spdLine t off

/-- A byte with its poison. -/
abbrev PByte := Byte × Bool

/-- Cut a span into the parts of 64-byte lines: (offset, length) of each part. -/
def cutSpan : Nat → Nat → Nat → List (Nat × Nat)
  | 0, _, _ => []
  | fuel + 1, off, n =>
    if n = 0 then [] else
      let k := min n (64 - off % 64)
      (off, k) :: cutSpan fuel (off + k) (n - k)

/-- The parts of lines that `n` bytes from `off` touch. -/
def spanParts (off n : Nat) : List (Nat × Nat) := cutSpan (n / 64 + 2) off n

/-- Read `n` bytes of a scratchpad (0) or tier (1), each with its line's poison. -/
def State.rd (s : State) (sp t off n : Nat) : List PByte :=
  (spanParts off n).flatMap fun p =>
    let l := s.lineAt sp t p.1
    ((l.data.drop (p.1 % 64)).take p.2).map fun b => (b, l.poison)

/-- The bytes of a read. -/
def pdata (bs : List PByte) : List Byte := bs.map (·.1)

/-- Is any byte of a read poisoned? -/
def ppoison (bs : List PByte) : Bool := bs.any (·.2)

/-- The line offsets that a read touches, translated in the tier. -/
def State.spanLines (s : State) (sp t off n : Nat) : List Nat :=
  (spanParts off n).map fun p =>
    if sp = 1 then s.translate t p.1 / 64 * 64 else wrapOff 0 p.1 / 64 * 64

/-! ### Lines as a cycle sees them -/

/-- The line at offset `o` of a space as it is stored, with cycle `c`. -/
def State.lineNow (s : State) (sp t o c : Nat) : LineS :=
  let k := memKey sp t o
  ⟨sp, o, s.bytes k 64, s.errBytes k 64, Sparse.get pois0 s.poison (k / 64), c⟩

/-- The state with some lines of tile `t` as given; of two for one line the first counts. -/
def State.withLines (s : State) (t : Nat) (ls : List LineS) : State :=
  applyAll (ls.reverse.flatMap fun l =>
    let k := memKey l.sp t l.off
    [.mem k l.data, .err k l.err, .poison (k / 64) l.poison]) s

/-- The memory of tile `t` as reads granted in cycle `c` see it: a line whose write they do not see yet has its previous content
(R109, R113, R205). -/
def State.asOf (s : State) (t c : Nat) : State := s.withLines t ((s.tile t).olds.filter fun l => decide (c < l.cyc))

/-! ### The effects of a read -/

/-- Record the first uncorrectable tier line since both bits were clear (Table: TIR_ERR_ADDR). -/
def noteTierAddr (t o : Nat) : Tx := fun s =>
  if s.rb R.TIR_ECC_STAT F.TIR_ECC_STAT_UE_WEIGHT || s.rb R.TIR_ECC_STAT F.TIR_ECC_STAT_UE_DATA then []
  else setRegN R.TIR_ERR_ADDR (gaddr s.position t 1 o) s

/-- Does an uncorrectable read of a weight line wait for an entry of the refetch queue to free (R122)? -/
def State.queueFull (s : State) (t o : Nat) : Bool :=
  !(s.chip.refetch.any fun r => r.tile == t && r.off == o) && decide (64 ≤ s.chip.refetch.length)

/-- Queue a refetch of a weight line, join the entry that is there, or wait while the queue is full (R121, R122). -/
def queueRefetch (t o : Nat) : Tx := fun s =>
  if s.chip.refetch.any (fun r => r.tile == t && r.off == o) || decide (64 ≤ s.chip.refetch.length) then []
  else chain [
    when s.chip.refetch.isEmpty (chain [noteSig 0x0A 0, workOn [2, 3, 7]]),
    modChip fun c => { c with refetch := c.refetch ++ [⟨t, o, 0⟩] },
    look fun s' => setF R.TIR_REFETCH_CNT F.TIR_REFETCH_CNT_QUEUE_PEAK
      (max (s'.rf R.TIR_REFETCH_CNT F.TIR_REFETCH_CNT_QUEUE_PEAK) s'.chip.refetch.length)] s

/-- What a read of one tier line granted in cycle `c` records: corrected lines, uncorrectable data lines, refetch requests (R109, R121,
R126). -/
def noteTierLine (t o c : Nat) : Tx := fun s =>
  if (s.standIn t o).isSome then
    modTile t (fun ts => { ts with granted := ts.granted.filter (·.off != o) }) s
  else
    let l := (s.asOf t c).tierStored t o
    if l.ue.isSome then
      if s.weightRegion t (o / 0x10000) then
        chain [noteTierAddr t o, setB R.TIR_ECC_STAT F.TIR_ECC_STAT_UE_WEIGHT true, queueRefetch t o] s
      else
        chain [noteTierAddr t o, incF R.TIR_ECC_STAT F.TIR_ECC_STAT_UE_DATA_CNT 1,
          look fun s' => raise R.TIR_ECC_STAT F.TIR_ECC_STAT_UE_DATA 0x0802
            ((s'.reg R.TIR_ERR_ADDR).toNat % 0x100000000)] s
    else if l.fixed = 0 then []
    else chain [setB R.TIR_ECC_STAT F.TIR_ECC_STAT_CE true, incF R.TIR_ECC_STAT F.TIR_ECC_STAT_CE_COUNT l.fixed] s

/-- What an access of one scratchpad line records (R117, R126); only a read counts in CREATED (log entry 7). -/
def noteSpdLine (isRead : Bool) (t o : Nat) : Tx := fun s =>
  let l := s.spdLine t o
  chain [
    when (decide (0 < l.fixed)) (chain [setB (R.SPD_ECC_STAT t) F.SPD_ECC_STAT_CE true,
      incF (R.SPD_ECC_STAT t) F.SPD_ECC_STAT_CE_COUNT l.fixed]),
    match l.ue with
    | none => skip
    | some w => chain [
        whenS (fun s' => !s'.rb (R.SPD_ECC_STAT t) F.SPD_ECC_STAT_UE) (setF (R.SPD_ERR_ADDR t) F.SPD_ERR_ADDR_OFFSET w),
        setB (R.SPD_ECC_STAT t) F.SPD_ECC_STAT_UE true,
        when isRead (incF (R.SPD_POISON_CNT t) F.SPD_POISON_CNT_CREATED 1)]] s

/-- What a read of a span granted in cycle `c` records, line by line. -/
def noteRead (sp t off n c : Nat) : Tx := fun s =>
  forEach (s.spanLines sp t off n) (fun o => if sp = 1 then noteTierLine t o c else noteSpdLine true t o) s

/-- The vault copy of `n` bytes at a tier offset (R331). -/
def State.vaultCopy (s : State) (t o n : Nat) : List Byte := s.vaultBytes (t * 0x1000000 + wrapOff 1 o) n

/-- The vault copy of 64 bytes at a tier offset. -/
def State.vaultLine (s : State) (t o : Nat) : List Byte := s.vaultCopy t o 64

/-- Does the tier line at `o` await a refetch: is it an uncorrectable weight line (R121)? -/
def State.lineStalls (s : State) (t o : Nat) : Bool :=
  s.weightRegion t (o / 0x10000) && (s.standIn t o).isNone && (s.tierStored t o).ue.isSome

/-- Must a read of the span wait for a refetch: a weight line it touches is uncorrectable (R121)? -/
def State.needsRefetch (s : State) (sp t off n : Nat) : Bool :=
  sp == 1 && (s.spanLines 1 t off n).any (s.lineStalls t)

/-- Ask for the refetch of each of these lines that is waited for (R121, R122). -/
def askLines (t : Nat) (os : List Nat) : Tx :=
  forEach os fun o => whenS (fun s => s.lineStalls t o) (look fun s => noteTierLine t o s.chip.fcyc)

/-- Ask for the refetch of every line that a read of the span waits for (R121, R122). -/
def askRefetch (sp t off n : Nat) : Tx := fun s => when (sp == 1) (askLines t (s.spanLines 1 t off n)) s

/-! ### Writing lines -/

/-- A line about to be written is seen new by reads granted in cycle `till` or later. -/
def keepOld (sp t o till : Nat) : Tx := fun s =>
  if till ≤ s.chip.fcyc then []
  else modTile t (fun ts => { ts with
    olds := ts.olds.filter (fun l => decide (s.chip.fcyc < l.cyc)) ++ [s.lineNow sp t o till] }) s

/-! ### Bank grants (R106, R107, R111, R112, R114) -/

/-- The bank of a line: bits [9:6] of its offset, in the tier (tier and bank within it) and in the scratchpad. -/
def bankOf (o : Nat) : Nat := o / 64 % 16

/-- The bank of a grant. -/
def Grant.bank (g : Grant) : Nat := bankOf g.off

/-- Do two accesses want one bank in one cycle, or two writes one tier (R107)? -/
def Grant.clash (g h : Grant) : Bool :=
  g.cyc == h.cyc && g.sp == h.sp && (g.bank == h.bank || (g.sp == 1 && g.wr && h.wr && g.bank % 4 == h.bank % 4))

/-- Does `g` take the bank from `h`: it ranks higher, or both are the matrix array's and only `h` writes (log entry 56)? -/
def Grant.beats (g h : Grant) : Bool := decide (g.rank < h.rank) || (g.rank == 1 && h.rank == 1 && !g.wr && h.wr)

/-- Does grant `h` stand against request `g`: it came first, and `g` does not take its bank (R114)? -/
def Grant.stands (h g : Grant) : Bool := h.clash g && !g.beats h

/-- Does grant `h` keep request `g` waiting? The V stream's own accesses find their places within its beats (R209) and never wait for
one another. -/
def Grant.blocks (h g : Grant) : Bool := h.stands g && !(h.rank == 2 && g.rank == 2)

/-- The first cycle from the request's on in which the bank is free for it. -/
def freeGrant (gs : List Grant) (g : Grant) : Nat → Nat
  | 0 => g.cyc
  | n + 1 => if gs.any (·.stands g) then freeGrant gs { g with cyc := g.cyc + 1 } n else g.cyc

/-- Grants after a booking: all of them, the cycle of the one booked, whether it was delayed, and the displaced ones with their new
cycles. -/
structure Booked where
  all : List Grant
  cyc : Nat
  waits : Bool
  moved : List (Grant × Nat)

/-- Book `g` in the first cycle that is free for it; those it takes a bank from ask again a cycle later (R114). -/
def bookGrant : Nat → Grant → List Grant → Booked
  | 0, g, gs => ⟨g :: gs, g.cyc, false, []⟩
  | n + 1, g, gs =>
    let c := freeGrant gs g gs.length
    let g' := { g with cyc := c, late := g.late || gs.any (·.blocks g) }
    (gs.filter (·.clash g')).foldl (fun b h =>
        let r := bookGrant n { h with cyc := c + 1, late := true } b.all
        { b with all := r.all, moved := b.moved ++ (h, r.cyc) :: r.moved })
      ⟨g' :: gs.filter (fun h => !h.clash g'), c, gs.any (·.blocks g), []⟩

/-- The cycle in which the bank of the line at `off` is granted to a read or write (`w`) of a rank asked for in cycle `c`. -/
def State.grantAt (s : State) (t sp off rank c : Nat) (w : Bool) : Nat :=
  let gs := (s.tile t).grants
  freeGrant gs ⟨c, sp, wrapOff sp off / 64 * 64, rank, w, false⟩ gs.length

/-- Cycles from the grant of a write until reads see it (R109, R113). -/
def seenAfter (sp : Nat) : Nat := if sp = 1 then 3 else 1

/-- Cycles from the grant of a read until its data is there (R109, R113). -/
def dataAfter (sp : Nat) : Nat := if sp = 1 then 7 else 4

/-- A displaced grant takes what hangs on it along: when the line it writes is seen and its granule readable, when the granule it consumes
is empty, when the tile is done (R53, R114). -/
def Grant.moved (h : Grant) (c : Nat) (ts : TileS) : TileS :=
  let g := h.off / 256
  let from_ := h.cyc + if h.wr then seenAfter h.sp else dataAfter h.sp
  let to_ := c + if h.wr then seenAfter h.sp else dataAfter h.sp
  let later (p : Nat × Nat) : Nat × Nat := if p.1 = g ∧ p.2 = from_ then (g, to_) else p
  { ts with
    avail := if h.sp = 0 && h.wr then ts.avail.map later else ts.avail
    empties := if h.sp = 0 && !h.wr then ts.empties.map later else ts.empties
    olds := if h.wr then ts.olds.map fun l => if l.sp = h.sp ∧ l.off = h.off ∧ l.cyc = from_ then { l with cyc := to_ } else l else ts.olds
    doneAt := max ts.doneAt to_ }

/-- Grants that were delayed are counted (R114, R136, R137). -/
def noteWaits (t : Nat) (ds : List Grant) : Tx :=
  let n (sp : Nat) (w : Bool) := (ds.filter fun g => g.sp == sp && g.wr == w).length
  when (!ds.isEmpty) (chain [
    incF R.TIR_BANK_WAIT F.TIR_BANK_WAIT_READ_WAIT (n 1 false), incF R.TIR_BANK_WAIT F.TIR_BANK_WAIT_WRITE_WAIT (n 1 true),
    incF (R.SPD_BANK_WAIT t) F.SPD_BANK_WAIT_WAITS (n 0 false + n 0 true)])

/-- A bank access gets its grant. -/
def takeGrant (t : Nat) (g : Grant) : Tx := fun s =>
  let gs := (s.tile t).grants.filter fun h => decide (s.chip.fcyc ≤ h.cyc)
  let r := bookGrant (gs.length + 1) g gs
  chain [
    modTile t fun ts => r.moved.foldl (fun ts x => x.1.moved x.2 ts) { ts with grants := r.all },
    noteWaits t ((if r.waits && !g.late then [g] else []) ++ (r.moved.map (·.1)).filter (!·.late))] s

/-- A request for a line's bank, granted in cycle `State.grantAt`. Only the tier and the scratchpad have banks. -/
def takeBank (t sp off rank c : Nat) (w : Bool) : Tx :=
  when (decide (sp ≤ 1)) (takeGrant t ⟨c, sp, wrapOff sp off / 64 * 64, rank, w, false⟩)

/-- The grant cycles of reads or writes of consecutive lines from `off`, one a cycle from cycle `c` on. -/
def State.grantRun (s : State) (t sp rank : Nat) (w : Bool) : Nat → Nat → Nat → List Nat
  | 0, _, _ => []
  | n + 1, off, c =>
    let g := if sp ≤ 1 then s.grantAt t sp off rank c w else c
    g :: s.grantRun t sp rank w n (off + 64) (g + 1)

/-- Those grants are taken. -/
def takeRun (t sp rank off : Nat) (w : Bool) (cs : List Nat) : Tx :=
  forEach cs.zipIdx fun x => takeBank t sp (off + 64 * x.2) rank x.1 w

/-! ### Lines written -/

/-- Store the three copies of a line's poison (R118). -/
def setPoison (sp t o : Nat) (b : Bool) : Tx := fun _ => [.poison (memKey sp t o / 64) (poisonCopies b)]

/-- The error with which a whole-line tier write is stored: none, the one TIR_INJECT asks for, or that of a hard-failed line
(R124, log entry 7). -/
def State.tierWriteErr (s : State) (t o : Nat) : List Byte :=
  let syms := s.rf R.TIR_INJECT F.TIR_INJECT_SYMS
  if (s.tile t).hardLines.contains o then [1, 1, 1] ++ List.replicate 61 0
  else if s.rb R.TIR_INJECT F.TIR_INJECT_ARM && s.rf R.TIR_INJECT F.TIR_INJECT_TILE == t && decide (1 ≤ syms ∧ syms ≤ 4) then
    List.replicate syms 1 ++ List.replicate (64 - syms) 0
  else List.replicate 64 0

/-- Does TIR_INJECT hit this tile's next line write? -/
def State.tierInjects (s : State) (t : Nat) : Bool :=
  let syms := s.rf R.TIR_INJECT F.TIR_INJECT_SYMS
  s.rb R.TIR_INJECT F.TIR_INJECT_ARM && s.rf R.TIR_INJECT F.TIR_INJECT_TILE == t && decide (1 ≤ syms ∧ syms ≤ 4)

/-- Write a whole tier line, seen by reads granted from cycle `till` on: storage, its poison, and the repair entry that stands for it
(R108, R109, R118, R124). -/
def tierWriteLine (t off : Nat) (data : List Byte) (poison : Bool) (till : Nat) : Tx := fun s =>
  let o := wrapOff 1 off / 64 * 64
  chain [
    keepOld 1 t o till,
    fun s' => [.mem (memKey 1 t o) data, .err (memKey 1 t o) (s'.tierWriteErr t o)],
    setPoison 1 t o poison,
    when (s.tierInjects t) (setF R.TIR_INJECT F.TIR_INJECT_ARM 0),
    when ((s.tile t).repair.any (·.off == o)) (modTile t fun ts =>
      { ts with repair := ts.repair.map fun r => if r.off = o then ⟨o, data, poison⟩ else r })] s

/-- A whole tier line is written at a rank from cycle `c` on: seen from its grant on where frames run, else at once (R109, R114). -/
def tierPut (t off rank c : Nat) (data : List Byte) (poison : Bool) : Tx := fun s =>
  if !s.running then tierWriteLine t off data poison 0 s
  else chain [takeBank t 1 off rank c true, tierWriteLine t off data poison (s.grantAt t 1 off rank c true + 3)] s

/-- Requests of which only the waits matter: those that a grant stands against are counted (R114). -/
def countWaits (t : Nat) (gs : List Grant) : Tx := fun s =>
  noteWaits t (gs.filter fun g => (s.tile t).grants.any (·.blocks g)) s

/-- The error SPD_INJECT stores over the word at offset `w`, and whether it does. -/
def State.spdInject (s : State) (t w : Nat) : Option Nat :=
  let k := R.SPD_INJECT t
  let bits := s.rf k F.SPD_INJECT_BITS
  if s.rb k F.SPD_INJECT_ARM && wrapOff 0 (8 * s.rf k F.SPD_INJECT_WORD) == w && (bits == 1 || bits == 2) then
    some (if bits = 1 then 1 else 3)
  else none

/-- Write part `data` of the scratchpad word at `w`, starting `lo` bytes into it: a part merges with the decoded word, a whole
word replaces it (R112). -/
def spdWriteWord (t w lo : Nat) (data : List Byte) : Tx := fun s =>
  let k := memKey 0 t w
  let raw := List.zipWith (· ^^^ ·) (s.bytes k 8) (s.errBytes k 8)
  let d := secDecode raw (leNat (s.errBytes k 8))
  let merged := d.data.take lo ++ data ++ d.data.drop (lo + data.length)
  chain [
    fun _ => [.mem k merged],
    match s.spdInject t w with
    | none => fun _ => [.err k (List.replicate 8 0)]
    | some e => chain [fun _ => [.err k (leBytes 8 e)], setF (R.SPD_INJECT t) F.SPD_INJECT_ARM 0]] s

/-- Write `data` inside one scratchpad line, seen by reads granted from cycle `till` on (R112, R113, R118, R127). Every access decodes
all words of its line (R117). -/
def spdWriteLine (t off : Nat) (data : List Byte) (poison : Bool) (till : Nat) : Tx := fun s =>
  let o := wrapOff 0 off
  let line := o / 64 * 64
  let whole := data.length == 64
  let parts := (List.range 8).filterMap fun i =>
    let a := max (o % 64) (8 * i)
    let b := min (o % 64 + data.length) (8 * i + 8)
    if a < b then some (line + 8 * i, a - 8 * i, (data.drop (a - o % 64)).take (b - a)) else none
  chain [
    noteSpdLine false t line,
    keepOld 0 t line till,
    when (!whole && (s.spdLine t line).ue.isSome) (setPoison 0 t line true),
    forEach parts (fun p => spdWriteWord t p.1 p.2.1 p.2.2),
    if whole then setPoison 0 t line poison else when poison (setPoison 0 t line true),
    when poison (incF (R.SPD_POISON_CNT t) F.SPD_POISON_CNT_WRITTEN 1)] s

/-- Write bytes with their poison to a scratchpad (0) or, in whole lines, a tier column (1), readable from cycle `till` on. A line takes
the poison of any byte written into it (R127). -/
def wr (sp t off : Nat) (bs : List PByte) (till : Nat) : Tx :=
  forEach ((spanParts off bs.length).map fun p => (p.1, (bs.drop (p.1 - off)).take p.2)) fun p =>
    if sp = 1 then tierWriteLine t p.1 (pdata p.2) (ppoison p.2) till else spdWriteLine t p.1 (pdata p.2) (ppoison p.2) till

/-- Write bytes of one poison state. -/
def wrBytes (sp t off : Nat) (bs : List Byte) (poison : Bool) (till : Nat) : Tx := wr sp t off (bs.map (·, poison)) till

/-! ### Granules -/

/-- The granules of the scratchpad that a span touches (R54). -/
def granulesOf (off n : Nat) : List Nat :=
  if n = 0 then [] else
    let first := off / 256
    let last := (off + n - 1) / 256
    ((List.range (last + 1 - first)).map fun i => (first + i) % 6144)

/-- Are all granules of a span full? -/
def State.allFull (s : State) (t off n : Nat) : Bool := (granulesOf off n).all (s.isFull t)

/-- Are all granules of a span empty? -/
def State.allEmpty (s : State) (t off n : Nat) : Bool := (granulesOf off n).all (fun g => !s.isFull t g)

/-- Set the granules of a span. -/
def setGranules (t off n : Nat) (b : Bool) : Tx := forEach (granulesOf off n) fun g => setFull t g b

/-- The cycle from which a span's granules are readable: the latest at which one of them became full this frame. -/
def State.availAt (s : State) (t off n : Nat) : Nat :=
  (granulesOf off n).foldl (fun a g => match (s.tile t).avail.find? (·.1 == g) with | some p => max a p.2 | none => a) 0

/-- The granules of a span become readable at cycle `cyc`, or later where an earlier piece of them does (R55). -/
def noteAvail (t off n cyc : Nat) : Tx := modTile t fun ts =>
  let gs := granulesOf off n
  let was (g : Nat) : Nat := ((ts.avail.find? (·.1 == g)).map (·.2)).getD 0
  { ts with avail := gs.map (fun g => (g, max cyc (was g))) ++ ts.avail.filter fun p => !gs.contains p.1 }

/-- The cycle until which granule `g`, whose emptying is under way, still reads full (R53, R86). -/
def State.fullTill (s : State) (t g : Nat) : Nat := match (s.tile t).empties.find? (·.1 == g % 6144) with | some p => p.2 | none => 0

/-- Is a granule full at the clock's cycle: its bit is set, or it is not emptied yet? -/
def State.fullNow (s : State) (t g : Nat) : Bool := s.isFull t g || decide (s.chip.fcyc < s.fullTill t g)

/-- The cycle from which a span's granules that are being emptied are empty. -/
def State.emptyAt (s : State) (t off n : Nat) : Nat := (granulesOf off n).foldl (fun a g => max a (s.fullTill t g)) 0

/-- Granule `g`, where it is full, is empty from cycle `cyc` on, or sooner where it is being emptied already. -/
def emptyFrom (t g cyc : Nat) : Tx := whenS (fun s => s.fullNow t g) <| fun s => chain [
  setFull t g false,
  modTile t fun ts => { ts with
    empties := (g % 6144, if s.isFull t g then cyc else min cyc (s.fullTill t g)) :: ts.empties.filter (·.1 != g % 6144) }] s

/-- Granule `g` is empty at once. -/
def emptyNow (t g : Nat) : Tx := chain [
  setFull t g false, modTile t fun ts => { ts with empties := ts.empties.filter (·.1 != g % 6144) }]

/-- Granule `g` is full from cycle `cyc` on; one that is full then already stays as it is, to be emptied later or not (R86). -/
def fullFrom (t g cyc : Nat) : Tx := whenS (fun s => !s.isFull t g && decide (s.fullTill t g ≤ cyc)) <| chain [
  setFull t g true, noteAvail t (256 * g) 256 cyc]

/-- Does a read with granule mode `gm` (0 plain, 1 keep, 2 consume) have its data now: every granule full and readable at the
clock's cycle (R53, R54)? -/
def State.readReady (s : State) (t gm off n : Nat) : Bool :=
  gm == 0 || ((granulesOf off n).all (s.fullNow t) && decide (s.availAt t off n ≤ s.chip.fcyc))

/-- The cycle, `c` or later, in which a read with granule mode `gm` of a span is granted: in it each granule is full and readable, or not
emptied yet; none while one is empty (R53, R54). -/
def State.readAt (s : State) (t gm off n c : Nat) : Option Nat :=
  let gs := granulesOf off n
  let d := max c (s.availAt t off n)
  if gm = 0 then some c
  else if gs.all fun g => s.isFull t g || decide (d < s.fullTill t g) then some d
  else none

/-- What a read with granule mode `gm` whose data is there at cycle `cyc` does to the bits: a consume read empties its granules in
that cycle (R53, R54). -/
def readDone (t gm off n cyc : Nat) : Tx := when (gm == 2) (forEach (granulesOf off n) fun g => emptyFrom t g cyc)

/-- May a write with write mode `wm` (0 plain, 1 fill, 2 held) proceed (R53)? -/
def State.writeReady (s : State) (t wm off n : Nat) : Bool :=
  wm != 2 || (s.allEmpty t off n && decide (s.emptyAt t off n ≤ s.chip.fcyc))

/-- What a complete write with write mode `wm` does to the bits (R53, R55). -/
def writeDone (t wm off n : Nat) : Tx := when (wm == 1 || wm == 2) (setGranules t off n true)

end Sys2Proof.Machine
end

