-- ==== Sys2Proof/WellFormed.lean ====
section
/-! DEFINITION. The instructions that the translator accepts (R80–R85, R89–R91, R98, R151, R153, R167, R178, R183, R191–R198,
R206–R207, R257, R265, R270): operand ranges, formats, granule modes and fields that must be 0. Checks that need the whole
program (branch targets, R178's paths) belong to the reel load. -/

namespace Sys2Proof

/-- Lane formats (R207). -/
def laneFmt (f : Nat) : Bool := [0, 1, 2, 3, 4, 11, 14, 15].contains f
/-- Float lane formats (R207). -/
def floatFmt (f : Nat) : Bool := [0, 1, 2, 3, 4].contains f
/-- Integer lane formats. -/
def intFmt (f : Nat) : Bool := [11, 14, 15].contains f
/-- Microscaled formats (R142). -/
def mxFmt (f : Nat) : Bool := [5, 6, 7, 8, 9, 10].contains f
/-- MX formats of 8-bit elements. -/
def mx8Fmt (f : Nat) : Bool := [5, 6, 10].contains f

/-- An operand pair of Table: Operand pairs; `some true` for an INT32 accumulator (R167). -/
def operandPair (w a : Nat) : Option Bool :=
  if [11, 12].contains w && a == 11 then some true
  else if [11, 12].contains w && [3, 4, 5, 6, 10].contains a then some false
  else if [3, 4, 7, 8, 9, 13, 5, 6, 10].contains w && [3, 4, 5, 6, 10, 11].contains a then some false
  else if [1, 2].contains w && [1, 2].contains a then some false
  else none

/-- Output formats allowed for an accumulator (`true` INT32) and layout (Table: Output formats, R178). -/
def outputFmt (int : Bool) (olay f : Nat) : Bool :=
  match int, olay with
  | false, 0 => [0, 1, 2, 3, 4].contains f
  | false, 1 => [1, 2, 3, 4, 5, 6].contains f
  | true, 0 => [15, 14, 11, 0, 1].contains f
  | true, 1 => f == 11
  | _, _ => false

/-- K = 8 × K8 fits the weight format (R153, R195). -/
def kFits (f k8 : Nat) : Bool :=
  decide (1 ≤ k8 ∧ k8 ≤ 16383) && (if mxFmt f then k8 % 4 == 0 else if f == 13 then k8 % 8 == 0 else true)

def Hdr.ok (h : Hdr) : Bool := decide (h.tag < 64)

/-- A header of a stream that has no EOF bit (R71, R90). -/
def Hdr.okC (h : Hdr) : Bool := h.ok && !h.eof

/-- A stream and its header (R71, R90): the C and cue streams have no EOF bit. -/
def StreamId.ok (st : StreamId) (h : Hdr) : Bool :=
  match st with
  | .tile t s => decide (t < 512) && decide (s < 4) && (if s = 0 then h.okC else h.ok)
  | .cue k => decide (k < 8) && h.okC

def StreamId.isCue : StreamId → Bool
  | .cue _ => true
  | _ => false

/-- Ranges shared by MMUL and MMULA (R194, R195). -/
def MArgs.ok (a : MArgs) : Bool :=
  decide (a.tile < 512) && a.h.ok && decide (a.gm ≤ 2) && kFits a.fmt a.k8 && decide (a.ncol < 16) && decide (a.cb < 4) &&
    (a.cb == 0 || a.fmt == 13) && decide (a.aslot < 16) && decide (a.bchk ≤ 2) && decide (a.tsel < 4) && decide (a.ctr < 8) &&
    decide (a.woff < 0x4000) && decide (a.ag < 0x2000) && decide (a.og < 0x2000) && decide (a.boff < 0x1000000) &&
    !(a.bchk == 2 && [3, 4, 11, 5, 6, 10].contains a.fmt)

/-- Ranges of the V-stream layout (R206). -/
def VArgs.ok (a : VArgs) : Bool :=
  decide (a.tile < 512) && a.h.ok && decide (a.gm ≤ 2) && decide (a.rnd ≤ 2) && decide (a.wm ≤ 2) && decide (a.ctr < 8) &&
    decide (a.tid < 0x10000) && decide (a.xf < 64) && decide (a.srca < 0x40000) && decide (a.srcb < 0x8000) &&
    decide (a.srcc < 0x8000) && decide (a.dst < 0x8000)

/-- Fields unused by an instruction are 0 (R206): which of B, C, XF, SAT, RND with TID it uses, as the Operands column of Table:
V-stream instructions gives them for the whole instruction (log entry 27). -/
def VArgs.uses (a : VArgs) (b c xf sat rnd : Bool) : Bool :=
  (b || (a.srcb == 0 && !a.bb)) && (c || a.srcc == 0) && (xf || a.xf == 0) && (sat || !a.sat) && (rnd || (a.rnd == 0 && a.tid == 0))

/-- Two-source arithmetic on lane formats. -/
def VArgs.arith (a : VArgs) : Bool := a.ok && laneFmt a.fmt && laneFmt a.dfmt

/-- The instructions that the translator accepts. Commands that are not stream instructions are all well formed here: their own
checks are part of their meanings. -/
def Instr.wf : Instr → Bool
  | .idle st h cyc => st.ok h && decide (cyc < 0x10000)
  | .cset st h c v => st.ok h && decide (c < 8) && decide (v < 0x100000000)
  | .loop st h c tg l => st.ok h && decide (c < 8) && decide (tg < 4096) && decide (1 ≤ l ∧ l < 0x800000)
  | .jump st h tg => st.ok h && decide (tg < 4096)
  | .cmpset st h c src rel v =>
    st.ok h && decide (c < 4) && (decide (src ≤ 9) || (src == 10 && st.isCue)) && decide (rel ≤ 5) && decide (v < 0x20000000)
  | .br st h c _ tg => st.ok h && decide (c < 4) && decide (tg < 4096)
  | .waitc st h c _ => st.ok h && decide (c < 4)
  | .frameEnd t h => decide (t < 512) && h.okC
  | .cwaitg t h gm g => decide (t < 512) && h.okC && (gm == 1 || gm == 2) && decide (g < 6144)
  | .dcpy a => decide (a.tile < 512) && a.h.ok && decide (a.gm ≤ 2) && decide (1 ≤ a.len ∧ a.len ≤ 63) && decide (a.src < 6144) &&
      decide (a.dst < 6144) && decide (a.wm ≤ 2) && decide (a.ctr < 8)
  | .dmov a => decide (a.tile < 512) && a.h.ok && decide (a.gm ≤ 2) && decide (1 ≤ a.len ∧ a.len ≤ 32767) && decide (a.loc < 32768) &&
      decide (a.wm ≤ 2) && decide (a.ctr < 8) && decide (a.g < 0x10000000000000000) &&
      (let sp := a.g / 0x40000000000 % 8
       !(sp == 2 || sp == 4 || sp == 5) &&
       (sp != 1 || ((if a.dir then a.gm else a.wm) == 0 && a.g % 64 == 0)))
  | .dgset t h f c _ => decide (t < 512) && h.ok && decide (f < 6144) && decide (1 ≤ c ∧ c ≤ 6144)
  | .dfence t h => decide (t < 512) && h.ok
  | .kvCommit a => decide (a.tile < 512) && a.h.ok && decide (a.gm ≤ 2) && decide (a.desc < 64) && decide (a.path < 0x8000) &&
      decide (a.ncm1 < 16) && decide (a.nwm ≤ 2) && decide (a.g < 0x10000000000000000) &&
      (if a.ntf then a.g / 0x40000000000 % 8 == 0 else a.g == 0)
  | .cueNext k h => decide (k < 8) && h.okC
  | .cueWr k h aw vw => decide (k < 8) && h.okC && decide (aw < 8) && decide (vw < 8)
  | .cueInject k h aw wm => decide (k < 8) && h.okC && decide (aw < 8) && decide (wm ≤ 2)
  | .cueAdmit k h => decide (k < 8) && h.okC
  | .cueReply k h st => decide (k < 8) && h.okC && decide (st < 0x10000)
  | .cueRun k h => decide (k < 8) && h.okC
  | .cueHalt k h => decide (k < 8) && h.okC
  | .mmul a => a.ok && (operandPair a.fmt a.afmt).isSome && (!a.adp || operandPair a.fmt a.afmt == some false && !(a.afmt == 1 || a.afmt == 2))
  | .mmula a => a.ok && !a.adp && operandPair a.fmt a.afmt == some false && !(a.afmt == 1 || a.afmt == 2) && a.woff == 0 && a.boff == 0
  | .mout a => decide (a.tile < 512) && a.h.ok && (outputFmt false a.olay a.fmt || outputFmt true a.olay a.fmt) && decide (a.rnd ≤ 1) &&
      decide (a.wm ≤ 2) && decide (1 ≤ a.ostr ∧ a.ostr ≤ 4095)
  | .msync t h => decide (t < 512) && h.ok
  | .vsetvl t h gm mode vlm1 line => decide (t < 512) && h.ok &&
      (if mode then decide (gm ≤ 2) && vlm1 == 0 && decide (line < 0x8000) else gm == 0 && decide (vlm1 < 0x1000000) && line == 0)
  | .vsync t h => decide (t < 512) && h.ok
  | .vadd a => a.arith && a.uses true false false true true
  | .vsub a => a.arith && a.uses true false false true true
  | .vmul a => a.arith && a.uses true false false true true
  | .vfma a => a.arith && a.uses true true false true true
  | .vmax a => a.arith && a.uses true false false true true
  | .vmin a => a.arith && a.uses true false false true true
  | .vcmp a => a.arith && a.uses true false true true true && decide (a.xf < 4)
  | .vsel a => a.arith && a.uses true true false true true && a.fmt == a.dfmt
  | .vand a => a.arith && a.uses true false false false false && a.fmt == a.dfmt
  | .vor a => a.arith && a.uses true false false false false && a.fmt == a.dfmt
  | .vxor a => a.arith && a.uses true false false false false && a.fmt == a.dfmt
  | .vshl a => a.ok && intFmt a.fmt && a.fmt == a.dfmt && a.uses true false false true false
  | .vshr a => a.ok && intFmt a.fmt && a.fmt == a.dfmt && a.uses true false true false false && decide (a.xf < 2)
  | .vcvt a => a.arith && a.uses false false false false true
  | .vpack a => a.ok && [0, 1, 2].contains a.fmt && decide (a.xf < 2) && a.uses false true true false true &&
      (if a.xf = 0 then mxFmt a.dfmt || a.dfmt == 12 else [3, 4, 11, 1, 2, 5, 6, 10].contains a.dfmt)
  | .vunpack a => a.ok && (mxFmt a.fmt || a.fmt == 12) && [0, 1, 2].contains a.dfmt && a.uses false true false false true
  | .vperm a => a.arith && a.fmt == a.dfmt && a.uses true false false false false
  | .vshuf a => a.arith && a.fmt == a.dfmt && decide (a.xf < 4) && a.uses true false true false false
  | .vpatch a w cm1 pm1 => a.arith && a.fmt == a.dfmt && a.uses false false false false false && decide (1 ≤ w ∧ w ≤ 8191) &&
      decide (cm1 < 4) && decide (pm1 < 32)
  | .vred a => a.ok && laneFmt a.fmt && a.uses false false true true true && a.tid == 0 && a.rnd != 2 && decide (a.xf < 4) &&
      a.dfmt == (if floatFmt a.fmt && a.xf != 3 then 0 else 15)
  | .vsfu a => a.ok && floatFmt a.fmt && floatFmt a.dfmt && decide (a.xf ≤ 5) && a.uses false false true false true
  | .smx1 a => a.ok && floatFmt a.fmt && a.dfmt == 0 && decide (a.xf < 2) && a.uses false false true false true && a.tid == 0 && a.rnd != 2
  | .smx2 a => a.ok && floatFmt a.fmt && floatFmt a.dfmt && a.uses true false false false true && !a.bb
  | .rowstat a => a.ok && floatFmt a.fmt && a.dfmt == 0 && a.uses false false false false true && a.tid == 0 && a.rnd != 2
  | .sample a => a.ok && floatFmt a.fmt && a.dfmt == 0 && a.uses true false false false true && !a.bb && a.rnd != 2
  | .tmask a => a.ok && a.fmt == 11 && decide (a.xf % 4 < 2) && !a.ta && a.srca == 0 && a.uses true false true false false && !a.bb &&
      (if a.xf % 4 = 0 then [0, 1, 2, 4, 11, 14, 15].contains a.dfmt else intFmt a.dfmt)
  | .vgrain a => a.ok && a.fmt == 15 && a.dfmt == 15 && a.gm == 0 && a.srca == 0 && a.srcb == 0 && a.srcc == 0 && a.xf == 0 &&
      a.rnd == 0 && !a.sat && !a.bb && !a.ta
  | _ => true

/-- The tile that a stream instruction belongs to. -/
def StreamId.tile? : StreamId → Option Nat
  | .tile t _ => some t
  | .cue _ => none

end Sys2Proof
end

