-- ==== Sys2Proof/Machine/Streams.lean ====
section
/-! DEFINITION. Streams and issue (spec/03): when a stream may issue, what every issue records, waits at issue, breaks, and the
instructions of the common group and of the C stream. -/

namespace Sys2Proof.Machine

/-! ### A stream's own state -/

/-- Stream `k` of a tile. -/
def TileS.stream (ts : TileS) (k : Nat) : StreamS :=
  match k with | 0 => ts.c | 1 => ts.d | 2 => ts.m | _ => ts.v

/-- Replace stream `k` of a tile. -/
def TileS.setStream (ts : TileS) (k : Nat) (v : StreamS) : TileS :=
  match k with
  | 0 => { ts with c := v } | 1 => { ts with d := v } | 2 => { ts with m := v } | _ => { ts with v := v }

/-- Change stream `k` of tile `t`. -/
def modStream (t k : Nat) (f : StreamS → StreamS) : Tx := modTile t fun ts => ts.setStream k (f (ts.stream k))

/-- Is stream `k` of tile `t` enabled (R72)? -/
def State.enabled (s : State) (t k : Nat) : Bool := (s.rf (R.STR_CTL t) F.STR_CTL_STREAM_EN).testBit k

/-- The instructions that wait at issue. -/
def State.waitq (s : State) : StreamId → List Instr
  | .tile t k => ((s.tile t).stream k).waitq
  | .cue k => (s.cue k).waitq

/-- Set the instructions that wait at issue. -/
def setWaitq (st : StreamId) (q : List Instr) : Tx :=
  match st with
  | .tile t k => modStream t k fun x => { x with waitq := q }
  | .cue k => modCue k fun x => { x with waitq := q }

/-- The first frame cycle in which the stream may issue. -/
def State.freeAt (s : State) : StreamId → Nat
  | .tile t k => ((s.tile t).stream k).free
  | .cue k => (s.cue k).free

/-- Set the first frame cycle in which the stream may issue. -/
def setFree (st : StreamId) (c : Nat) : Tx :=
  match st with
  | .tile t k => modStream t k fun x => { x with free := c }
  | .cue k => modCue k fun x => { x with free := c }

/-- Program counter (R70). -/
def State.pcOf (s : State) : StreamId → Nat
  | .tile t k => s.rf (R.STR_PC t k) F.STR_PC_PC
  | .cue k => (s.cue k).pc

/-- Set the program counter. -/
def setPc (st : StreamId) (pc : Nat) : Tx :=
  match st with
  | .tile t k => setF (R.STR_PC t k) F.STR_PC_PC (pc % 4096)
  | .cue k => modCue k fun x => { x with pc := pc % 4096 }

/-- Loop counter (R76). -/
def State.cnt (s : State) (st : StreamId) (c : Nat) : Nat :=
  match st with
  | .tile t k => s.rf (R.STR_CNT t k c) F.STR_CNT_VALUE
  | .cue k => (s.cue k).cnt[c]?.getD 0

/-- Set a loop counter. -/
def setCnt (st : StreamId) (c v : Nat) : Tx :=
  match st with
  | .tile t k => setF (R.STR_CNT t k c) F.STR_CNT_VALUE (v % 0x100000000)
  | .cue k => modCue k fun x => { x with cnt := x.cnt.setIfInBounds c (v % 0x100000000) }

/-- A comparator's setting (R77). -/
def State.cmp (s : State) (st : StreamId) (c : Nat) : CmpS :=
  match st with
  | .tile t k =>
    let r := R.STR_CMP t k c
    ⟨s.rf r F.STR_CMP_SRC, s.rf r F.STR_CMP_REL, s.rf r F.STR_CMP_VAL, s.rb r F.STR_CMP_SET⟩
  | .cue k => (s.cue k).cmp[c]?.getD {}

/-- Set a comparator (R77). -/
def setCmp (st : StreamId) (c src rel v : Nat) : Tx :=
  match st with
  | .tile t k =>
    let r := R.STR_CMP t k c
    chain [setF r F.STR_CMP_SRC src, setF r F.STR_CMP_REL rel, setF r F.STR_CMP_VAL v, setF r F.STR_CMP_SET 1]
  | .cue k => modCue k fun x => { x with cmp := x.cmp.setIfInBounds c ⟨src, rel, v, true⟩ }

/-- The value of a comparator source at frame cycle `cyc` (Table: Comparator sources and relations, R78). -/
def State.cmpSource (s : State) (st : StreamId) (src cyc : Nat) : Nat :=
  if src ≤ 7 then s.cnt st src
  else if src = 8 then s.frame % 0x100000000
  else if src = 9 then cyc
  else match st with
    | .cue k => (s.cue k).admitted.toNat
    | .tile _ _ => 0

/-- A relation of Table: Comparator sources and relations, unsigned. -/
def cmpRel (rel a b : Nat) : Bool :=
  match rel with
  | 0 => a == b
  | 1 => a != b
  | 2 => decide (a < b)
  | 3 => decide (b ≤ a)
  | 4 => decide (a ≤ b)
  | _ => decide (b < a)

/-- A comparator's result when it is read at frame cycle `cyc`; one never set reads false (R77). -/
def State.cmpResult (s : State) (st : StreamId) (c cyc : Nat) : Bool :=
  let k := s.cmp st c
  k.set && cmpRel k.rel (s.cmpSource st k.src cyc) k.val

/-- The result as last evaluated is kept in STR_CMP.RESULT. -/
def noteCmp (st : StreamId) (c : Nat) (b : Bool) : Tx :=
  match st with
  | .tile t k => setB (R.STR_CMP t k c) F.STR_CMP_RESULT b
  | .cue _ => skip

/-! ### Issue -/

/-- Do frames run: a job runs, the chip is not frozen or held, its capture frame has not come (R404), and no clap other than a
realign stands before its event? -/
def State.released (s : State) : Bool :=
  s.running && !s.frozen && s.chip.hold.isNone &&
    (match s.chip.capture with | none => true | some c => decide (s.frame < c.frame)) &&
    (match s.chip.clap with | none => true | some c => c.sub == 2)

/-- The frame cycle at which a tile's FRAME_END retired; 16 for a tile with no enabled stream (R72). -/
def State.retiredAt (s : State) (t : Nat) : Option Nat :=
  match (s.tile t).retired with
  | some e => some e
  | none => if s.rf (R.STR_CTL t) F.STR_CTL_STREAM_EN = 0 then some 16 else none

/-- May the stream issue now, waits apart (R26, R71–R73, R100)? A cue stream is not bound to frames (R90); it does not issue while
a capture holds the chip (R404) or in a replay (R403), without power or in reset, and, DESIGN CHOICE (log entry 67), while the chip is
frozen: R101 names the core regions only. -/
def State.canIssue (s : State) : StreamId → Bool
  | .tile t k =>
    let x := (s.tile t).stream k
    s.released && s.enabled t k && !x.eof && !x.halted && !x.broken && (s.tile t).retired.isNone
  | .cue _ => s.chip.vin && !s.chip.inReset && !s.frozen && (s.chip.hold != some .capture || s.chip.parked) && !s.rb R.AUD_REPLAY_CTL F.AUD_REPLAY_CTL_REPLAYING

/-- What an instruction needs in order to issue: its native words, the addresses R73 checks, whether its waits are met and
what a failed wait does, its issue cycle and its effect. -/
structure Need where
  words : Nat := 1
  addrs : List Nat := []
  ready : Bool := true
  blocked : Tx := skip
  cyc : Nat
  go : Tx

/-- The freeze cycle of a match or token at cycle `cyc` (R101): at most 64 cycles later, which of them the spec leaves open, and
never within the tick sequence. -/
def State.freezeCycle (s : State) (cyc : Nat) : Nat := max (cyc + s.free.toNat % 65) 16

/-- The chip is to freeze: at the earlier of two freeze cycles; `domain` says that a FREEZE token goes out (R101, R102). -/
def freezeSoon (cyc : Nat) (domain : Bool) : Tx := fun s => chain [
  modChip fun c => { c with
    freezeAt := some (match c.freezeAt with | some f => min f (s.freezeCycle cyc) | none => s.freezeCycle cyc)
    freezeDomain := c.freezeDomain || domain },
  bumpFree] s

/-- A break matched in tile `t` (R100, R101): `kind` 0 count, 1 tag. -/
def breakHit (t k kind cyc : Nat) : Tx := fun s =>
  chain [
    setF (R.STR_STAT t) F.STR_STAT_HIT 1, setF (R.STR_STAT t) F.STR_STAT_HIT_KIND kind,
    setF (R.STR_STAT t) F.STR_STAT_HIT_STREAM k,
    modChip fun c => { c with freezeHits := c.freezeHits ++ [t] },
    modStream t k fun x => { x with broken := true },
    freezeSoon cyc (s.rb (R.STR_CTL t) F.STR_CTL_BRK_DOMAIN)] s

/-- The break checks at an issue of stream `k` of tile `t` (R100). Where both breaks match at one issue HIT_KIND is left at 1, the tag's
(DESIGN CHOICE, log entry 67). -/
def checkBreaks (t k : Nat) (h : Hdr) (cyc : Nat) : Tx := chain [
  look fun s =>
    when (s.rb (R.STR_BRK_COUNT t k) F.STR_BRK_COUNT_EN &&
        s.rf (R.STR_ISSUED t k) F.STR_ISSUED_COUNT == s.rf (R.STR_BRK_COUNT t k) F.STR_BRK_COUNT_COUNT) (breakHit t k 0 cyc),
  look fun s =>
    when (s.rb (R.STR_BRK_TAG t k) F.STR_BRK_TAG_EN && s.rf (R.STR_BRK_TAG t k) F.STR_BRK_TAG_TAG == h.tag) <|
      chain [
        when (((s.tile t).stream k).tagSeen == s.rf (R.STR_BRK_TAG t k) F.STR_BRK_TAG_AFTER) (breakHit t k 1 cyc),
        modStream t k fun x => { x with tagSeen := x.tagSeen + 1 }]]

/-- What every issue records: the program counter moves on, the count of issued instructions, the next issue cycle, the
end-of-frame marker, breaks (R69, R71, R100). -/
def issued (st : StreamId) (h : Hdr) (words cyc : Nat) : Tx := chain [
  look fun s => setPc st (s.pcOf st + words),
  setFree st (cyc + 1),
  match st with
  | .cue _ => skip
  | .tile t k => chain [
      look fun s => setF (R.STR_ISSUED t k) F.STR_ISSUED_COUNT ((s.rf (R.STR_ISSUED t k) F.STR_ISSUED_COUNT + 1) % 2 ^ 63),
      look fun s => modStream t k fun x =>
        { x with last := cyc, eof := x.eof || h.eof, issuedNs := some (s.nsAfter (cyc - s.chip.fcyc)) },
      checkBreaks t k h cyc]]

/-- An address fault halts the stream for the rest of the job (R73). -/
def addrFault (st : StreamId) : Tx :=
  match st with
  | .cue _ => skip
  | .tile t k => chain [
      modStream t k fun x => { x with halted := true },
      setF (R.STR_STAT t) F.STR_STAT_FAULT_STREAM k,
      raise (R.STR_STAT t) F.STR_STAT_ADDR_FAULT 0x0807 (t + 512 * k)]

/-- A stream of a tile stalls: signal 0x06 rises (Table: Observation signals). -/
def noteStalled : StreamId → Tx
  | .tile t _ => noteSig 0x06 t
  | .cue _ => skip

/-- Issue an instruction. Where the stream may not issue, nothing happens; behind waiting instructions, or while its own waits
are not met, the instruction waits (R56); an address that R13 detects stops it before it issues (R73). -/
def issue (st : StreamId) (h : Hdr) (i : Instr) (need : State → Nat → Need) : Tx := fun s =>
  if !s.canIssue st then []
  else if !(s.waitq st).isEmpty then setWaitq st (s.waitq st ++ [i]) s
  else
    let nd := need s (max s.chip.fcyc (s.freeAt st))
    if !nd.ready then chain [nd.blocked, noteStalled st, setWaitq st [i]] s
    else if nd.addrs.any s.badAddr then addrFault st s
    else chain [issued st h nd.words nd.cyc, nd.go] s

/-- Does the tile exist on this part (R1, R13)? -/
def State.tileOk (s : State) (t : Nat) : Bool := decide (t < s.numTiles)

/-- Does the stream exist on this part? -/
def State.streamOk (s : State) : StreamId → Bool
  | .tile t _ => s.tileOk t
  | .cue _ => true

/-- A stream instruction: one that the translator refuses, or of a tile that the part does not have, is no instruction of any
translated program (R98). -/
def instruction (i : Instr) (st : StreamId) (t : Tx) (s : State) : Out :=
  if i.wf && s.streamOk st then commit t s else .refused .illFormed

/-- A command about tile `t`. -/
def onTile (t : Nat) (tx : Tx) (s : State) : Out := if s.tileOk t then commit tx s else .refused .illFormed

/-! ### Operations -/

/-- An operation of the tile runs until cycle `cyc` (R25). -/
def busyUntil (t cyc : Nat) : Tx := modTile t fun ts => { ts with doneAt := max ts.doneAt cyc }

/-! ### Common group (R83) -/

/-- A branch that is taken. One that carries the end-of-frame marker resumes at the word after it (R70). -/
def branch (st : StreamId) (h : Hdr) (target : Nat) : Tx := when (!h.eof) (setPc st target)

def idleTx (st : StreamId) (h : Hdr) (cyc : Nat) : Tx :=
  issue st h (.idle st h cyc) fun _ c => { cyc := c, go := setFree st (c + cyc + 2) }

def csetTx (st : StreamId) (h : Hdr) (ctr v : Nat) : Tx :=
  issue st h (.cset st h ctr v) fun _ c => { cyc := c, go := setCnt st ctr v }

def loopTx (st : StreamId) (h : Hdr) (ctr target limit : Nat) : Tx :=
  issue st h (.loop st h ctr target limit) fun s c =>
    let n := (s.cnt st ctr + 1) % 0x100000000
    { cyc := c, go := if n < limit then chain [setCnt st ctr n, branch st h target] else setCnt st ctr 0 }

def jumpTx (st : StreamId) (h : Hdr) (target : Nat) : Tx :=
  issue st h (.jump st h target) fun _ c => { cyc := c, go := branch st h target }

def cmpsetTx (st : StreamId) (h : Hdr) (cmp src rel v : Nat) : Tx :=
  issue st h (.cmpset st h cmp src rel v) fun _ c => { cyc := c, go := setCmp st cmp src rel v }

def brTx (st : StreamId) (h : Hdr) (cmp : Nat) (sense : Bool) (target : Nat) : Tx :=
  issue st h (.br st h cmp sense target) fun s c =>
    let r := s.cmpResult st cmp c
    { cyc := c, go := chain [noteCmp st cmp r, when (r == sense) (branch st h target)] }

def waitcTx (st : StreamId) (h : Hdr) (cmp : Nat) (sense : Bool) : Tx :=
  issue st h (.waitc st h cmp sense) fun s c =>
    let r := s.cmpResult st cmp c
    { cyc := c, ready := r == sense, blocked := noteCmp st cmp r, go := noteCmp st cmp r }

/-- IDLE. -/
def execIdle (st : StreamId) (h : Hdr) (cyc : Nat) (s : State) : Out := instruction (.idle st h cyc) st (idleTx st h cyc) s

/-- CSET. -/
def execCset (st : StreamId) (h : Hdr) (ctr val : Nat) (s : State) : Out :=
  instruction (.cset st h ctr val) st (csetTx st h ctr val) s

/-- LOOP. -/
def execLoop (st : StreamId) (h : Hdr) (ctr target limit : Nat) (s : State) : Out :=
  instruction (.loop st h ctr target limit) st (loopTx st h ctr target limit) s

/-- JUMP. -/
def execJump (st : StreamId) (h : Hdr) (target : Nat) (s : State) : Out := instruction (.jump st h target) st (jumpTx st h target) s

/-- CMPSET. -/
def execCmpset (st : StreamId) (h : Hdr) (cmp src rel val : Nat) (s : State) : Out :=
  instruction (.cmpset st h cmp src rel val) st (cmpsetTx st h cmp src rel val) s

/-- BR. -/
def execBr (st : StreamId) (h : Hdr) (cmp : Nat) (sense : Bool) (target : Nat) (s : State) : Out :=
  instruction (.br st h cmp sense target) st (brTx st h cmp sense target) s

/-- WAITC. -/
def execWaitc (st : StreamId) (h : Hdr) (cmp : Nat) (sense : Bool) (s : State) : Out :=
  instruction (.waitc st h cmp sense) st (waitcTx st h cmp sense) s

/-! ### C stream (R85) -/

/-- FRAME_END is the C stream's end-of-frame marker (R71); it retires under R25 (FRAME_END_RETIRE). -/
def frameEndTx (t : Nat) (h : Hdr) : Tx :=
  issue (.tile t 0) h (.frameEnd t h) fun _ c => { cyc := c, go := modStream t 0 fun x => { x with eof := true } }

def cwaitgTx (t : Nat) (h : Hdr) (gm gran : Nat) : Tx :=
  issue (.tile t 0) h (.cwaitg t h gm gran) fun s c =>
    { cyc := c, ready := s.readReady t 1 (gran * 256) 256, go := when (gm == 2) (emptyNow t gran) }

/-- FRAME_END. -/
def execFrameEnd (t : Nat) (h : Hdr) (s : State) : Out := instruction (.frameEnd t h) (.tile t 0) (frameEndTx t h) s

/-- CWAITG. -/
def execCwaitg (t : Nat) (h : Hdr) (gm gran : Nat) (s : State) : Out :=
  instruction (.cwaitg t h gm gran) (.tile t 0) (cwaitgTx t h gm gran) s

end Sys2Proof.Machine
end

