-- ==== Sys2Proof/Machine/Tree.lean ====
section
/-! DEFINITION. The ways between modules (R315, R316, R383): the links of a packet's path, and the clap tree that is built of them. -/

namespace Sys2Proof.Machine

/-- The port that leads one ring step from coordinate `a` to `b` (the shorter way, + at a distance of 2); `m` and `l` are the twin-0
ports of the − and + directions. -/
def ringStep (a b m l : Nat) : Option Nat :=
  match (b + 4 - a) % 4 with
  | 0 => none
  | 3 => some m
  | _ => some l

/-- The ring steps from place `a` of a basket to place `b`, along x, then along y: each place reached, with the twin-0 port it is entered
by (R316). -/
def ringPath : Nat → Nat → Nat → List (Nat × Nat)
  | 0, _, _ => []
  | n + 1, a, b =>
    let x := a % 4
    let y := a / 4
    let go (q p : Nat) := (q, p) :: ringPath n q b
    match ringStep x (b % 4) 0 4, ringStep y (b / 4) 2 6 with
    | some 4, _ => go (4 * y + (x + 1) % 4) 0
    | some _, _ => go (4 * y + (x + 3) % 4) 4
    | none, some 6 => go (4 * ((y + 1) % 4) + x) 2
    | none, some _ => go (4 * ((y + 3) % 4) + x) 6
    | none, none => []

/-- A link of a path: the position and port of its two ends in the direction of the path, twin 0 of a ring step, and the bypassed modules
that it goes through. -/
structure Link where
  up : Nat
  upPort : Nat
  low : Nat
  lowPort : Nat
  skip : Nat
deriving DecidableEq, Repr

/-- The links of ring steps in basket `b` from place `a` on: a place without a module of the domain is bypassed, and a link through it counts as one
link (R383). `held` is the first port of a link under way and the modules it has bypassed. -/
def ringLinks (has : Nat → Bool) (b : Nat) : Nat → Option (Nat × Nat) → List (Nat × Nat) → List Link
  | _, _, [] => []
  | a, held, (q, p) :: rest =>
    let from_ := held.getD ((p + 4) % 8, 0)
    if has (16 * b + q) then ⟨16 * b + a, from_.1, 16 * b + q, p, from_.2⟩ :: ringLinks has b q none rest
    else ringLinks has b a (some (from_.1, from_.2 + 1)) rest

/-- The exit place and circuit port of basket `b` towards basket `d`: of the own basket as FAB_GROUTE has it, of another as its modules'
registers were written (R316; log entry 9). -/
def State.exitOf (s : State) (b d : Nat) : Option (Nat × Nat) :=
  if b = s.position / 16 then
    if s.rb (R.FAB_GROUTE d) F.FAB_GROUTE_VALID then
      some (s.rf (R.FAB_GROUTE d) F.FAB_GROUTE_EXIT_POS, 8 + s.rf (R.FAB_GROUTE d) F.FAB_GROUTE_EXIT_PORT)
    else none
  else (s.chip.part.exits.find? fun e => e.1 == b && e.2.1 == d).map (·.2.2)

/-- The links of the path from module `a` to module `d` (R316), over at most as many circuits as the fuel says; it ends where the routing
tables have no way. -/
def State.pathLinks (s : State) : Nat → Nat → Nat → List Link
  | 0, _, _ => []
  | n + 1, a, d =>
    let ring (q : Nat) := ringLinks (fun m => decide (m < s.chip.part.modules)) (a / 16) (a % 16) none (ringPath 4 (a % 16) q)
    if a / 16 = d / 16 then ring (d % 16)
    else match s.exitOf (a / 16) (d / 16) with
      | none => []
      | some (e, p) =>
        let x := a / 16 * 16 + e
        ring e ++ match s.chip.part.plan.find? fun c => c.1 == x && c.2.1 == p with
          | some (_, _, far, port, _) => ⟨x, p, far, port, 0⟩ :: s.pathLinks n far d
          | none => []

/-- The path from module `a` to module `d`. -/
def State.pathTo (s : State) (a d : Nat) : List Link := s.pathLinks 64 a d

/-! ### The clap tree (R383) -/

/-- The path down the clap tree from the manager to module `m`: that of R316. -/
def State.treePath (s : State) (m : Nat) : List Link := s.pathTo s.chip.part.managerPos m

/-- The twin-0 port, or the circuit port, of the link towards the manager. -/
def State.treeParent (s : State) : Option Nat := (s.treePath s.position).getLast?.map (·.lowPort)

/-- The twin-0 ports and circuit ports of the links to the modules that hang off this one. -/
def State.treeChildren (s : State) : List Nat :=
  (List.range s.chip.part.modules).filterMap fun m =>
    (s.treePath m).getLast?.bind fun l => if l.up = s.position then some l.upPort else none

/-- The modules below this one in the clap tree. -/
def State.treeBelow (s : State) : List Nat :=
  (List.range s.chip.part.modules).filter fun m => m != s.position && (s.treePath m).any (·.up == s.position)

/-- Modules bypassed by the link at own port `p`, as training found them (R318). -/
def State.bypassed (s : State) (p : Nat) : Nat := s.rf R.FAB_BYPASS_STAT F.FAB_BYPASS_STAT_BYP / 4 ^ p % 4

/-- The depth of a link of the clap tree: the circuit plan's, or that which the manifest declares for the entry that R318 matched. -/
def State.linkDepth (s : State) (l : Link) : Nat :=
  if 8 ≤ l.upPort then (s.chip.part.plan.find? fun c => c.1 == l.up && c.2.1 == l.upPort).elim 0 (·.2.2.2.2)
  else if l.up = s.position then ((s.chip.part.nb.getD l.upPort []).getD (s.bypassed l.upPort) (0, 0, 0)).2.2
  else
    let k := if l.low = s.position then s.bypassed l.lowPort else l.skip
    (s.chip.part.depths.find? fun e => e.1 == l.up && e.2.1 == l.upPort).elim 0 fun e => e.2.2.getD k 0

/-- The longest clap-tree path: DEPTH + 78 cycles a link (R386). -/
def State.treeDepth (s : State) : Nat :=
  (List.range s.chip.part.modules).foldl (fun a m => max a (((s.treePath m).map fun l => s.linkDepth l + 78).foldl (· + ·) 0)) 0

end Sys2Proof.Machine
end

