-- ==== Sys2Proof/Machine/Announce.lean ====
section
/-! DEFINITION. Clapper announcements and calls (R62, R382–R389): the frame that an ANNOUNCE names, the call of a clap, its READY
tokens and the raising of its GO. -/

namespace Sys2Proof.Machine

/-- GO delay in cycles (R384). -/
def State.clapDelay (s : State) : Nat := s.rf R.AUD_CTL F.AUD_CTL_CLAP_DELAY

/-- D of R62. -/
def State.clapD (s : State) : Nat := max 4 ((s.clapDelay + s.frmLen - 1) / s.frmLen + 1)

/-- The earliest frame that begins at least CLAP_DELAY cycles after an ANNOUNCE raised now (R389). -/
def State.leadFrame (s : State) : Nat :=
  s.frame + 1 + (s.clapDelay - (s.frmLen - s.chip.fcyc) + s.frmLen - 1) / s.frmLen

/-- The frame that an ANNOUNCE with minimum `m` names (R389). -/
def State.announceFrame (s : State) (m : Nat) : Nat := max m s.leadFrame

/-- A token leaves down or up the clap tree (R382, R383). -/
def sendToken (kind sub arg : Nat) : Tx := fun s =>
  modChip (fun c => { c with tokensOut := c.tokensOut ++ [⟨kind, sub, s.position, c.clapSeq, arg⟩] }) s

/-- A management message leaves, with its argument: 0 heartbeat, 1 takeover, to a position; to the manager 2 NACK of a shard, 3 a load failed
(status, and from bit 16 the shard), 4 a load is complete, 5 a re-clap is asked for, 6 a step-down to a step is asked for, 8 the opening of
the bypass is asked for; to the standby's position 7 a change of the coordination state; from the manager to every module 9 a roll is armed,
10 a roll is freed, 13 a load of source 3 or 4 (each with the root), 12 the load has failed, 14 the step of the clock change, 15 the park, that is announced next; to a position 11 the grant of an
opening. -/
def sendMgmt (kind pos : Nat) : Tx := modChip fun c => { c with mgmtOut := c.mgmtOut ++ [(kind, pos)] }

/-- The manager tells the other modules of the domain. -/
def tellModules (kind arg : Nat) : Tx := whenS (fun s => s.isManager && decide (1 < s.chip.part.modules)) (sendMgmt kind arg)

/-- The manager tells its standby of a change of the coordination state before it acts on it (R460). -/
def tellStandby : Tx := fun s =>
  match s.isManager, s.chip.part.standbyPos with
  | true, some p => sendMgmt 7 p s
  | _, _ => []

/-- ANNOUNCE; the standby learns of the announced frame or the clap's number first (R460). -/
def announce (sub arg : Nat) : Tx := chain [tellStandby, sendToken 3 sub arg]

/-- Have READY tokens of every position arrived (R387)? -/
def State.allReady (s : State) (c : ClapS) : Bool := (List.range s.chip.part.modules).all fun p => c.ready.contains p

/-- The manager raises the GO once READY of every module is there (R384, R387). -/
def tryGo : Tx := fun s =>
  match s.chip.clap with
  | some c =>
    if s.isManager && c.rem.isNone && s.allReady c then
      let rem := s.clapDelay * 16
      chain [modChip fun ch => { ch with clap := some { c with rem := some rem, callNs := ch.ns }, clapSub := ch.nsSub }, sendToken 2 c.sub rem] s
    else []
  | none => []

/-- Are this module and every module below it ready (R387)? -/
def State.branchReady (s : State) (c : ClapS) : Bool := c.ready.contains s.position && s.treeBelow.all c.ready.contains

/-- The module at position `p` is ready for the clap: at the manager that may be the last, another module sends its READY up the tree once it
and every module below it are ready (R387). -/
def noteReady (p : Nat) : Tx := fun s =>
  match s.chip.clap with
  | some c =>
    let c' := { c with ready := c.ready ++ [p] }
    if c.ready.contains p then []
    else chain [
      modChip fun ch => { ch with clap := some c' },
      if s.isManager then tryGo else when (s.branchReady c') (sendToken 1 0 0)] s
  | none => []

/-- This module is ready for the clap. -/
def selfReady : Tx := fun s => noteReady s.position s

/-- The manager calls a clap (R387). -/
def callClap (sub frame : Nat) (cmd : Option Cmd) : Tx := fun s =>
  let seq := (s.chip.clapSeq + 1) % 0x100000000
  chain [
    rouse 8,
    modChip fun c => { c with clapSeq := seq, clap := some ⟨sub, seq, [], none, s.chip.ns, frame, cmd⟩ },
    setF R.AUD_CLAP_STAT F.AUD_CLAP_STAT_SEQ seq, setF R.AUD_CLAP_STAT F.AUD_CLAP_STAT_SUB sub,
    announce 4 0] s

/-- A re-clap is asked for (R104), which the manager calls as a resume clap (GO 1): every module that holds is ready at once (Table:
Claps). A call that finds another clap open waits for its end; where another module is the manager, the call comes as its ANNOUNCE. -/
def callResume : Tx := fun s =>
  if !s.isManager then sendMgmt 5 s.position s
  else if s.chip.clap.isSome then modChip (fun c => { c with reclap := true }) s
  else chain [callClap 1 0 none, selfReady] s

/-- A clap has ended: the resume clap that waited for it is called, unless nothing holds any more. -/
def callWaiting : Tx := whenS (fun s => s.chip.reclap && s.chip.clap.isNone) <| chain [
  modChip fun c => { c with reclap := false },
  whenS (fun s => s.frozen || s.chip.hold.isSome || s.chip.parked) callResume]

end Sys2Proof.Machine
end

