-- ==== Sys2Proof/Machine/Clock.lean ====
section
/-! DEFINITION. Frequency, canaries and ageing (R414–R427): arming and applying clock steps, the canary responses, the ageing plan,
and loss of the reference. -/

namespace Sys2Proof.Machine

/-! ### Calibration values (R443) -/

/-- A byte of the effective calibration page. -/
def State.calByte (s : State) (o : Nat) : Nat := (s.reg (R.CAL_EFFECTIVE (o / 8))).toNat / 256 ^ (o % 8) % 256

/-- A 16-bit value of the page. -/
def State.cal16 (s : State) (o : Nat) : Nat := s.calByte o + 256 * s.calByte (o + 1)

/-- A signed value of `n` bits. -/
def toSigned (n v : Nat) : Int := if v < 2 ^ (n - 1) then (v : Int) else (v : Int) - 2 ^ n

/-- An integer in `n` bits of two's complement. -/
def fromSigned (n : Nat) (v : Int) : Nat := (v % (2 ^ n : Int)).toNat

/-! ### Steps (R417–R422) -/

/-- Step in effect. -/
def State.curStep (s : State) : Nat := s.rf R.CLK_CUR F.CLK_CUR_STEP

/-- Armed step. -/
def State.armedStep (s : State) : Nat := s.tw R.CLK_STEP % 128

/-- Frame of the armed change that has not begun, 0 when none. -/
def State.changeFrame (s : State) : Nat := (s.reg R.CLK_CHANGE_FRAME).toNat

/-- Is a change armed? -/
def State.changeArmed (s : State) : Bool := s.changeFrame != 0

/-- The armed step takes effect (R417, R421). -/
def applyStep : Tx := fun s => chain [
  twUse R.CLK_STEP,
  setF R.CLK_CUR F.CLK_CUR_STEP s.armedStep,
  setB R.CLK_CUR F.CLK_CUR_SYNTH (!s.rb R.CLK_CUR F.CLK_CUR_SYNTH),
  setRegN R.CLK_CHANGE_FRAME 0] s

/-- The frame of a change with least frame `m` and a lead of `us` microseconds (R419). -/
def State.stepFrame (s : State) (m us : Nat) : Nat :=
  s.announceFrame (max m (max (s.frame + 4) (s.frame + (us * 25 * s.perUnit + 2 * s.frmLen - 1) / (2 * s.frmLen) + 1)))

/-- Arm a change at frame `f` on every module (R419); a message tells them the step (log entry 70). -/
def armStep (step f : Nat) : Tx := chain [
  twUse R.FRM_LEN, setTw R.CLK_STEP step, setRegN R.CLK_CHANGE_FRAME f, tellModules 14 step, announce 2 f]

/-- The manager arms a step-down of the device itself (R420); with no job it takes effect without a frame (R418). A step that lowers
nothing is not armed. Another module asks the manager for it. -/
def stepDown (step us : Nat) : Tx := fun s =>
  if !s.isManager then sendMgmt 6 step s
  else if !s.running then
    if step < s.curStep then chain [setTw R.CLK_STEP step, applyStep] s else []
  else if s.changeArmed then
    if s.armedStep ≤ step then []
    else if s.leadFrame ≤ s.changeFrame then armStep step s.changeFrame s
    else modChip (fun c => { c with nextStep := some (match c.nextStep with | some n => min n step | none => step) }) s
  else if step < s.curStep then armStep step (s.stepFrame 0 us) s
  else []

/-- The tick of the armed frame applies the step, and the first tick after a park one that was armed before it (R436); a step-down that waited behind it is armed for the earliest frame after it
(R420, R421). -/
def tickStep : Tx := whenS (fun s => s.changeArmed && (s.changeFrame == s.frame || s.chip.stepDue)) <| chain [
  modChip fun c => { c with stepDue := false },
  applyStep,
  look fun s => match s.chip.nextStep with
    | none => skip
    | some n => chain [
        modChip fun c => { c with nextStep := none },
        when (decide (n < s.curStep)) (armStep n (s.stepFrame (s.frame + 1) 0))]]

/-! ### Canaries (R423–R425) -/

/-- A region's highest step that passes its thresholds, as its last responses left it; none recorded stands for 72. -/
def State.regionStep (s : State) (r : Nat) : Nat := (s.chip.passWarn.find? (·.1 == r)).elim 72 (·.2)

/-- DOMAIN_STEP with the position and region that set it (R425); the manager's standby learns of a change first (R460). -/
def setDomainStep (step pos r : Nat) : Tx := fun s => chain [
  when (step != s.rf R.CLK_FMAX F.CLK_FMAX_DOMAIN_STEP) tellStandby,
  setF R.CLK_FMAX F.CLK_FMAX_DOMAIN_STEP step, setF R.CLK_FMAX F.CLK_FMAX_LIMIT_POS pos, setF R.CLK_FMAX F.CLK_FMAX_LIMIT_REGION r] s

/-- OWN_STEP (R425) and, where this module sets the lowest, DOMAIN_STEP with its position and region. -/
def noteOwnStep (r : Nat) : Tx := fun s =>
  let own := (List.range 64).foldl (fun a q => min a (s.regionStep q)) (s.rf R.CLK_FMAX F.CLK_FMAX_XQ_STEP)
  chain [
    setF R.CLK_FMAX F.CLK_FMAX_OWN_STEP own,
    when (decide (own < s.rf R.CLK_FMAX F.CLK_FMAX_DOMAIN_STEP)) (setDomainStep own s.position r)] s

/-- The crossing queues measure their phases (R414): the highest step that they pass is open, and the chip runs no core region above it. -/
def measureQueues : Tx := fun s =>
  let q := s.free.toNat % 73
  chain [
    bumpFree, setF R.CLK_FMAX F.CLK_FMAX_XQ_STEP q, noteOwnStep 0,
    when (decide (q < s.armedStep)) (setTw R.CLK_STEP q), when (decide (q < s.curStep)) (setF R.CLK_CUR F.CLK_CUR_STEP q)] s

/-- Record region `r`'s highest passing step. -/
def setRegionStep (r step : Nat) : Tx := chain [
  modChip fun c => { c with passWarn := (r, step) :: c.passWarn.filter (·.1 != r) }, noteOwnStep r]

/-- Automatic step-down under WARN (Table: Canary responses). -/
def autoDown : Tx := fun s =>
  let d := s.rf R.CLK_FMAX F.CLK_FMAX_DOMAIN_STEP
  if s.rb R.CLK_CTL F.CLK_CTL_AUTO_DOWN && decide (d < s.curStep) then
    stepDown d (s.rf R.CLK_CTL F.CLK_CTL_LEAD_US) s
  else []

/-- CLK_SLOW_LAST. -/
def noteSlow (r : Nat) (crit : Bool) (slack : Int) : Tx := fun s => chain [
  setF R.CLK_SLOW_LAST F.CLK_SLOW_LAST_REGION r, setB R.CLK_SLOW_LAST F.CLK_SLOW_LAST_CRIT crit,
  setF R.CLK_SLOW_LAST F.CLK_SLOW_LAST_SLACK (fromSigned 16 slack),
  setF R.CLK_SLOW_LAST F.CLK_SLOW_LAST_SECONDS (s.chip.ns / 1000000000)] s

/-- VEFF of step `k`: VNOM + AGE_ADD + core trim, never above VNOM + AGE_MAX + 25 (R427, Table: CLK_VF). -/
def noteVeff (k : Nat) : Tx := fun s =>
  let vnom := s.rf (R.CLK_VF k) F.CLK_VF_VNOM
  let v : Int := vnom + s.rf (R.CLK_VF k) F.CLK_VF_AGE_ADD + toSigned 16 (s.cal16 0x400)
  setF (R.CLK_VF k) F.CLK_VF_VEFF (min v.toNat (vnom + s.rf (R.CLK_VF k) F.CLK_VF_AGE_MAX + 25)) s

/-- Twice AGE_ADD of a step in mV, with the half millivolts of the 2.5 mV steps. -/
def State.ageHalf (s : State) (k : Nat) : Nat :=
  (s.chip.ageHalf.find? (·.1 == k)).elim (2 * s.rf (R.CLK_VF k) F.CLK_VF_AGE_ADD) (·.2)

/-- Set AGE_ADD of a step from a doubled value; the register shows whole millivolts. -/
def setAge (k half : Nat) : Tx := chain [
  modChip fun c => { c with ageHalf := (k, half) :: c.ageHalf.filter (·.1 != k) },
  setF (R.CLK_VF k) F.CLK_VF_AGE_ADD (half / 2), noteVeff k]

/-- Has AGE_ADD already risen in this millisecond: at the measurement of another region, each of which is measured once in it (R423)? -/
def State.ageRisen (s : State) (r : Nat) : Bool :=
  s.chip.ageRise.any fun x => x.1 == s.chip.ns / 1000000 && x.2 != r

/-- A WARN: AGE_ADD rises by 2.5 mV, once in a millisecond, while it is below AGE_MAX; at that limit OWN_STEP drops (Table: Canary
responses). -/
def warnResponse (r passWarn : Nat) : Tx := fun s =>
  let k := s.curStep
  let lim := 2 * s.rf (R.CLK_VF k) F.CLK_VF_AGE_MAX
  if s.ageHalf k < lim then
    when (!s.ageRisen r) (chain [
      setAge k (min lim (s.ageHalf k + 5)), modChip fun c => { c with ageRise := some (c.ns / 1000000, r) }]) s
  else setRegionStep r (min passWarn (s.regionStep r)) s

/-- A region that passes WARN by 10% for one hour raises its step again (R425). -/
def recoverRegion (r : Nat) (slack : Int) (passWarn warn : Nat) : Tx := fun s =>
  if slack * 10 < (warn : Int) * 11 then modChip (fun c => { c with passSince := c.passSince.filter (·.1 != r) }) s
  else match s.chip.passSince.find? (·.1 == r) with
    | none => modChip (fun c => { c with passSince := (r, s.chip.ns) :: c.passSince }) s
    | some p => if p.2 + 3600000000000 ≤ s.chip.ns && decide (s.regionStep r < passWarn) then setRegionStep r passWarn s else []

/-- CANARY_MEASURE: region `r`'s smallest slack, with the highest steps whose last measured slacks pass WARN and CRIT. -/
def canaryMeasureTx (r : Nat) (slack : Int) (passWarn passCrit : Nat) : Tx := fun s =>
  let warn := s.cal16 (0x500 + 4 * r)
  let crit := s.cal16 (0x502 + 4 * r)
  let k := R.CLK_CANARY_SLACK r
  chain [
    setF k F.CLK_CANARY_SLACK_NOW (fromSigned 16 slack),
    when (decide (slack < toSigned 16 (s.rf k F.CLK_CANARY_SLACK_MIN))) (setF k F.CLK_CANARY_SLACK_MIN (fromSigned 16 slack)),
    recoverRegion r slack passWarn warn,
    when (decide (slack < warn)) (chain [
      setF R.CLK_STAT F.CLK_STAT_WARN 1, noteSlow r false slack, warnResponse r passWarn]),
    when (decide (slack < crit)) (chain [
      setF R.CLK_STAT F.CLK_STAT_CRIT 1, noteSlow r true slack,
      setRegionStep r (min passCrit (s.regionStep r)),
      look fun s' => stepDown (s'.rf R.CLK_FMAX F.CLK_FMAX_OWN_STEP) 0]),
    when (decide (slack < warn) && !decide (slack < crit)) autoDown] s

/-- CANARY_MEASURE. -/
def execCanaryMeasure (r : Nat) (slack : Int) (passWarn passCrit : Nat) (s : State) : Out :=
  if r < 64 then commit (canaryMeasureTx r slack passWarn passCrit) s else .refused .illFormed

/-- DOMAIN_STEP_GATHER: (position, OWN_STEP, limiting region) of the other modules (R425). -/
def domainStepGatherTx (steps : List (Nat × Nat × Nat)) : Tx := fun s =>
  let own := (s.position, s.rf R.CLK_FMAX F.CLK_FMAX_OWN_STEP,
    ((List.range 64).find? fun q => s.regionStep q == s.rf R.CLK_FMAX F.CLK_FMAX_OWN_STEP).getD 0)
  let m := steps.foldl (fun a x => if x.2.1 < a.2.1 || (x.2.1 == a.2.1 && decide (x.1 < a.1)) then x else a) own
  chain [setDomainStep m.2.1 m.1 m.2.2, autoDown] s

/-- DOMAIN_STEP_GATHER. -/
def execDomainStepGather (steps : List (Nat × Nat × Nat)) (s : State) : Out := commit (domainStepGatherTx steps) s

/-- AGE_REPLAN (R427): the projected hours, the end-of-life step, the remaining service life, and the additions (step, mV) of the
new plan. -/
def ageReplanTx (hours eol left : Nat) (raises : List (Nat × Nat)) : Tx := chain [
  setF R.CLK_AGE_FORECAST F.CLK_AGE_FORECAST_HOURS hours, setF R.CLK_AGE_FORECAST F.CLK_AGE_FORECAST_EOL_STEP eol,
  when (decide (hours < left)) (chain [
    forEach (raises.filter fun x => decide (x.1 ≤ 72)) (fun x => fun s =>
      setAge x.1 (min (2 * s.rf (R.CLK_VF x.1) F.CLK_VF_AGE_MAX) (s.ageHalf x.1 + 2 * x.2)) s),
    setF R.CLK_STAT F.CLK_STAT_REPLAN 1])]

/-- AGE_REPLAN. -/
def execAgeReplan (hours eol left : Nat) (raises : List (Nat × Nat)) (s : State) : Out :=
  commit (ageReplanTx hours eol left raises) s

/-! ### The reference (R416) -/

/-- REF_CLOCK_LOST: the chip holds at its next tick. -/
def refClockLostTx : Tx := chain [
  setF R.CLK_STAT F.CLK_STAT_REF_LOST 1,
  modChip fun c => { c with refBack := false, refHold := true }]

/-- REF_CLOCK_RESTORED: back for 1 ms and relocked; a chip that holds for it asks for a resume clap. -/
def refClockRestoredTx : Tx := chain [
  look fun s => modChip fun c => { c with refBack := true, refHold := c.refHold && s.running },
  whenS (fun s => s.chip.hold == some .reference) callResume]

/-- A chip that lost its reference holds before issue release; where the reference is already back it asks at once. -/
def tickReference : Tx := whenS (fun s => s.chip.refHold) <| chain [
  modChip fun c => { c with refHold := false, hold := some .reference },
  whenS (fun s => s.chip.refBack) callResume]

/-- REF_CLOCK_LOST. -/
def execRefClockLost (s : State) : Out := commit refClockLostTx s

/-- REF_CLOCK_RESTORED. -/
def execRefClockRestored (s : State) : Out := commit refClockRestoredTx s

/-! ### CLK_CHANGE (R418, R419) -/

/-- CLK_CHANGE, its checks of R367 passed: w2 STEP, w3 earliest frame. A worker refuses it (R370). -/
def clkChangeTx (c : Cmd) : Tx := fun s =>
  let step := c.w2.toNat % 128
  if !s.isManager then postReply c 0x0103 0 0 s
  else if s.rf R.CLK_FMAX F.CLK_FMAX_DOMAIN_STEP < step then
    postReply c 0x0103 (s.rf R.CLK_FMAX F.CLK_FMAX_LIMIT_POS) 0 s
  else if s.running && s.changeArmed then postReply c 0x0103 0xFFFF0002 0 s
  else if s.running then
    let f := s.stepFrame c.w3.toNat (s.rf R.CLK_CTL F.CLK_CTL_LEAD_US)
    chain [armStep step f, postReply c 0 0 0] s
  else chain [setTw R.CLK_STEP step, applyStep, postReply c 0 0 0] s

/-- CLK_CHANGE. -/
def execClkChange (c : Cmd) (s : State) : Out := commit (onStart c (clkChangeTx c)) s

end Sys2Proof.Machine
end

