-- ==== Sys2Proof/Machine/Grain.lean ====
section
/-! DEFINITION. Grain (spec/08): tables and bank keys from seed and table number, fills, drawing words. A bank's content is held
as the seed and table number it was filled from (every fill is a pure function of them, R242). -/

namespace Sys2Proof.Machine

/-- A 32-byte ChaCha20 key from the 128-bit seed: 16 seed bytes, then 16 zero bytes, as eight words (R242). -/
def GrainSrc.key (g : GrainSrc) : List Nat :=
  [g.lo % 2 ^ 32, g.lo / 2 ^ 32 % 2 ^ 32, g.hi % 2 ^ 32, g.hi / 2 ^ 32 % 2 ^ 32, 0, 0, 0, 0]

/-- Block `j` of a fill (R242). -/
def GrainSrc.block (g : GrainSrc) (j : Nat) : List Nat := chachaBlock g.key [g.num % 2 ^ 16, 0, 0] j

/-- Table word T[i] (R242). -/
def GrainSrc.word (g : GrainSrc) (i : Nat) : Nat := (g.block (i / 16)).getD (i % 16) 0

/-- The bank key BK: bytes 0–7 of block 128 (R242). -/
def GrainSrc.bankKey (g : GrainSrc) : Nat :=
  let b := g.block 128
  b.getD 0 0 + b.getD 1 0 * 2 ^ 32

/-- The content of a bank: none is the zero fill of self-test (R243). -/
def State.grainBank (s : State) (t b : Nat) : Option GrainSrc := if b = 0 then (s.tile t).bankA else (s.tile t).bankB

/-- A table word as stored, without errors. -/
def State.grainStored (s : State) (t b i : Nat) : Nat :=
  match s.grainBank t b with | some g => g.word i | none => 0

/-- A drawn word: its value, corrected and uncorrectable lookups (R248). -/
structure Draw where
  w : Nat
  ce : Nat
  ue : Nat
deriving DecidableEq, Repr

/-- A lookup of table word `i` through the SEC-DED code of its 8-byte word (R243, R248). -/
def State.grainLookup (s : State) (t b i : Nat) : Draw :=
  let m := s.errBytes (memKey 4 t (b * 0x2000 + i / 2 * 8)) 8
  if m.all (· == 0) then ⟨s.grainStored t b i, 0, 0⟩
  else
    let j := i / 2 * 2
    let raw := List.zipWith (· ^^^ ·) (leBytes 4 (s.grainStored t b j) ++ leBytes 4 (s.grainStored t b (j + 1))) m
    let d := secDecode raw (leNat m)
    ⟨leNat ((d.data.drop (i % 2 * 4)).take 4), d.fixed, d.ue.toNat⟩

/-- Modulo 2^64. -/
def w64 (n : Nat) : Nat := n % 0x10000000000000000

/-- mix of R251. -/
def mix (v : Nat) : Nat :=
  let v := w64 ((v ^^^ (v >>> 30)) * 0xBF58476D1CE4E5B9)
  let v := w64 ((v ^^^ (v >>> 27)) * 0x94D049BB133111EB)
  v ^^^ (v >>> 31)

/-- The active grain bank. -/
def State.grainActive (s : State) (t : Nat) : Nat := s.rf (R.GRN_STAT t) F.GRN_STAT_ACTIVE

/-- Bank key of a bank, as GRN_BANK holds it (R244, R250). -/
def State.bankKey (s : State) (t b : Nat) : Nat := (s.reg (R.GRN_BANK_3 t b)).toNat

/-- grain(D1, D2) from the active bank (R251). -/
def State.grain (s : State) (t d1 d2 : Nat) : Draw :=
  let bk := s.grainActive t
  let h := mix (mix (s.bankKey t bk ^^^ d1) ^^^ d2)
  let a := h % 2048
  let b := a ^^^ ((h >>> 11) % 2048 ||| 1)
  let r := (h >>> 22) % 32
  let x := s.grainLookup t bk a
  let y := s.grainLookup t bk b
  ⟨x.w ^^^ rotl32 y.w r, x.ce + y.ce, x.ue + y.ue⟩

/-- Key words of lane-stream mode (R252): element `i`, GRN_BEAT at issue. -/
def State.laneKeys (s : State) (t beat i : Nat) : Nat × Nat :=
  (2 ^ 60 + (s.position * 2 ^ 16 + t * 2 ^ 7 + i % 128) * 2 ^ 32 + s.frame % 2 ^ 32, beat + i / 128)

/-- Key words of element-keyed mode (R253). -/
def elemKeys (tid row col : Nat) : Nat × Nat := (2 * 2 ^ 60 + tid * 2 ^ 32 + row % 2 ^ 32, col % 2 ^ 32)

/-- The grain word of element `i` with column coordinate `col` in a mode of GRN_MODE (R208, R255). -/
def State.grainOf (s : State) (t mode tid beat col i : Nat) : Draw :=
  let k := if mode = 1 then elemKeys tid 0 col else s.laneKeys t beat i
  s.grain t k.1 k.2

/-- What lookups record (R248). -/
def noteDraws (t : Nat) (ds : List Draw) : Tx :=
  let ce : Nat := ds.foldl (fun a d => a + d.ce) 0
  let ue : Nat := ds.foldl (fun a d => a + d.ue) 0
  chain [
    when (decide (0 < ce)) (setF (R.GRN_STAT t) F.GRN_STAT_CE 1),
    when (decide (0 < ue)) (chain [setF (R.GRN_STAT t) F.GRN_STAT_UE 1, incF (R.GRN_STAT t) F.GRN_STAT_UE_COUNT ue])]

/-! ### Fills (R242–R246) -/

/-- The seed registers and table number of a tile. -/
def State.grainSeed (s : State) (t : Nat) : GrainSrc :=
  ⟨(s.reg (R.GRN_SEED_LO t)).toNat, (s.reg (R.GRN_SEED_HI t)).toNat, s.rf (R.GRN_CTL t) F.GRN_CTL_TBL_NUM⟩

/-- FILLED bit of a bank. -/
def grnFilled (b : Nat) : Fld := if b = 0 then F.GRN_STAT_FILLED_A else F.GRN_STAT_FILLED_B

/-- Start a fill of a bank: its FILLED bit clears; at once, 129 blocks of 8 cycles, or in maintenance units (R244, R246). -/
def startFill (t b : Nat) (atOnce : Bool) : Tx := fun s =>
  chain [
    setF (R.GRN_STAT t) (grnFilled b) 0, setF (R.GRN_STAT t) F.GRN_STAT_FILL_BUSY 1,
    modTile t fun ts => { ts with fill := some ⟨b, s.grainSeed t, 0, if atOnce then some (s.nsAfter 1032) else none⟩ }] s

/-- Block 128 is stored: the bank is FILLED and its seed, table number and BK are recorded (R244). -/
def finishFill (t : Nat) (f : FillS) : Tx := chain [
  setRegN (R.GRN_BANK_0 t f.bank) f.src.lo, setRegN (R.GRN_BANK_1 t f.bank) f.src.hi,
  setRegN (R.GRN_BANK_2 t f.bank) f.src.num, setRegN (R.GRN_BANK_3 t f.bank) f.src.bankKey,
  fun _ => [.err (memKey 4 t (f.bank * 0x2000)) (List.replicate 0x2000 0)],
  setF (R.GRN_STAT t) (grnFilled f.bank) 1, setF (R.GRN_STAT t) F.GRN_STAT_FILL_BUSY 0,
  modTile t fun ts =>
    let ts := { ts with fill := none }
    if f.bank = 0 then { ts with bankA := some f.src } else { ts with bankB := some f.src }]

/-- GRAIN_FILL (R246): a fill of the inactive bank, refused while a fill runs or a switch is pending. -/
def grainFillTx (t : Nat) : Tx := fun s =>
  if (s.tile t).fill.isSome || s.rb (R.GRN_STAT t) F.GRN_STAT_PENDING then
    incF (R.GRN_STAT t) F.GRN_STAT_FILL_REJECT 1 s
  else startFill t (1 - s.grainActive t) (!s.running) s

/-- GRAIN_FILL_COMPLETE (R244): block 128 of the tile's fill is stored. -/
def grainFillCompleteTx (t : Nat) : Tx := fun s =>
  match (s.tile t).fill with
  | none => []
  | some f => match f.endNs with
    | some e => chain [elapseToNs e, finishFill t f] s
    | none => if f.done = 129 then finishFill t f s else []

/-- GRAIN_FILL_COMPLETE. -/
def execGrainFillComplete (t : Nat) (s : State) : Out := onTile t (grainFillCompleteTx t) s

end Sys2Proof.Machine
end

