-- ==== Sys2Proof/Machine/Rows.lean ====
section
/-! DEFINITION. Row maps, their legality, arming them, and nominations (spec/10, R285–R292). -/

namespace Sys2Proof.Machine

/-- Number of unused sites per row on this grade (R288). -/
def State.unusedCount (s : State) : Nat := if s.chip.part.grade3207 then 4 else 2

/-- The unused sites that a map word names (Table: Row-map encoding). -/
def State.unusedOf (s : State) (map : Nat) : List Nat := (List.range s.unusedCount).map fun i => map / 64 ^ i % 64

/-- The used sites of a row under a map: entry x is the site of logical column x (R285). -/
def State.sitesOf (s : State) (map : Nat) : List Nat :=
  let un := s.unusedOf map
  (List.range 34).filter fun i => !un.contains i

/-- The map in effect of row `y`. -/
def State.rowCur (s : State) (y : Nat) : Nat := s.rf (R.MSH_ROWMAP_CUR y) F.MSH_ROWMAP_CUR_U

/-- The staged map of row `y`, the last value whose halves agreed (R10). -/
def State.rowStaged (s : State) (y : Nat) : Nat := s.tw (R.MSH_ROWMAP y) % 0x1000000

/-- Row and column of a logical tile (R11). -/
def State.tileY (s : State) (t : Nat) : Nat := t / s.cols
def State.tileX (s : State) (t : Nat) : Nat := t % s.cols

/-- The physical site of a logical tile. -/
def State.siteOf (s : State) (t : Nat) : Nat := (s.sitesOf (s.rowCur (s.tileY t))).getD (s.tileX t) 63

/-- Does `f` hold for every adjacent pair of a list? -/
def pairwiseAdj (f : Nat → Nat → Bool) : List Nat → Bool
  | a :: b :: l => f a b && pairwiseAdj f (b :: l)
  | _ => true

/-- Rule 1 of R289 for a row: the used fields name sites, in strictly ascending order; the unused fields of the LZM-3208 hold
0x3F (R288). -/
def State.rowRule1 (s : State) (map : Nat) : Bool :=
  pairwiseAdj (fun a b => decide (a < b)) (s.unusedOf map) && (s.unusedOf map).all (fun a => decide (a < 34)) &&
    (s.chip.part.grade3207 || map / 4096 % 4096 == 0xFFF)

/-- Rule 2 of R289: no two unused sites adjacent. -/
def State.rowRule2 (s : State) (map : Nat) : Bool := pairwiseAdj (fun a b => decide (a + 2 ≤ b)) (s.unusedOf map)

/-- Rule 3 of R289: every bad site unused. -/
def State.rowRule3 (s : State) (y map : Nat) : Bool :=
  (List.range 34).all fun i => !(s.rf (R.MSH_BAD y) F.MSH_BAD_SITES).testBit i || (s.unusedOf map).contains i

/-- Rule 4 of R289 between two neighbouring rows. -/
def State.rowRule4 (s : State) (a b : Nat) : Bool :=
  (List.zipWith (fun p q => decide (p ≤ q + 2 ∧ q ≤ p + 2)) (s.sitesOf a) (s.sitesOf b)).all id

/-- The first failing (rule, row) of a set of maps, rules in order and rows in order within a rule (R289, R290). -/
def State.mapsFault (s : State) (maps : List Nat) : Option (Nat × Nat) :=
  let rows := maps.zipIdx
  match rows.find? (fun m => !s.rowRule1 m.1) with
  | some m => some (1, m.2)
  | none => match rows.find? (fun m => !s.rowRule2 m.1) with
    | some m => some (2, m.2)
    | none => match rows.find? (fun m => !s.rowRule3 m.2 m.1) with
      | some m => some (3, m.2)
      | none => match ((maps.zip maps.tail).zipIdx).find? (fun m => !s.rowRule4 m.1.1 m.1.2) with
        | some m => some (4, m.2)
        | none => none

/-- Put a set of maps in effect (R290, R36 cycle 2). -/
def applyMaps (maps : List Nat) : Tx := forEach maps.zipIdx fun m => setF (R.MSH_ROWMAP_CUR m.2) F.MSH_ROWMAP_CUR_U m.1

/-! ### Contents stay at their sites (R285, log entry 49) -/

/-- Space of a memory key. -/
def keySpace (k : Nat) : Nat := k / 0x40000000000 % 8

/-- The tile of a register key. -/
def tileOf (k : Nat) : Nat := (k - 0x100000) / 0x4000

/-- Is the key that of a tile register? -/
def isTileKey (k : Nat) : Bool := decide (0x100000 ≤ k)

/-- The maps in effect, row by row. -/
def State.mapsCur (s : State) : List Nat := (List.range 16).map s.rowCur

/-- The logical tile that has, under `maps`, the site that logical tile `t` has now; none where the site becomes unused. -/
def State.tileAfter (s : State) (maps : List Nat) (t : Nat) : Option Nat :=
  if s.numTiles ≤ t then some t
  else
    let x := (s.sitesOf (maps.getD (s.tileY t) 0)).idxOf (s.siteOf t)
    if x < s.cols then some (s.tileY t * s.cols + x) else none

/-- A key whose tile number is `(k - base) / unit`, under the tile's new number. -/
def rekey (base unit : Nat) (f : Nat → Option Nat) (k : Nat) : Option Nat :=
  (f ((k - base) / unit)).map fun t => base + t * unit + (k - base) % unit

/-- The content of every site goes under the logical tile that the site becomes under `maps`: memories with their errors and poison,
full/empty bits, tile registers and tile state. A site that comes into use holds what power-up writes; what an unused site held is
gone. -/
def moveSites (maps : List Nat) : Tx := fun s =>
  let f := s.tileAfter maps
  let moved := fun t => f t != some t
  let memMoved := fun k => keySpace k != 6 && moved (k / 0x200000000000)
  let regMoved := fun k => isTileKey k && moved (tileOf k)
  if maps == s.mapsCur then []
  else
    [.dropMem memMoved, .dropRegs regMoved] ++
    (s.full.filter fun c => moved (c.1 / 6144)).map (fun c => .full c.1 false) ++
    (s.tiles.filter fun c => moved c.1).map (fun c => .tile c.1 {}) ++
    (s.mem.filter fun c => memMoved c.1).filterMap (fun c => (rekey 0 0x200000000000 f c.1).map fun k => .mem k [c.2]) ++
    (s.err.filter fun c => memMoved c.1).filterMap (fun c => (rekey 0 0x200000000000 f c.1).map fun k => .err k [c.2]) ++
    (s.poison.filter fun c => memMoved (c.1 * 64)).filterMap
      (fun c => (rekey 0 0x8000000000 f c.1).map fun k => .poison k c.2) ++
    (s.regs.filter fun c => regMoved c.1).filterMap (fun c => (rekey 0x100000 0x4000 f c.1).map fun k => .reg k c.2) ++
    (s.full.filter fun c => moved (c.1 / 6144)).filterMap (fun c => (rekey 0 6144 f c.1).map fun k => .full k c.2) ++
    (s.tiles.filter fun c => moved c.1).filterMap (fun c => (f c.1).map fun k => .tile k c.2) ++
    [.chip { s.chip with twLast := s.chip.twLast.filterMap (fun e =>
        if regMoved e.1 then (rekey 0x100000 0x4000 f e.1).map fun k => (k, e.2) else some e) }]

/-- Refuse an arm (R290). -/
def armReject (rule row : Nat) : Tx := chain [
  setF R.MSH_STAT F.MSH_STAT_ARM_REJECT 1, setF R.MSH_STAT F.MSH_STAT_CAUSE rule, setF R.MSH_STAT F.MSH_STAT_CAUSE_ROW row]

/-- The staged maps are checked under R10 when ARM uses them. -/
def checkRowTw : Tx := forEach (List.range 16) fun y => twCheck (R.MSH_ROWMAP y) (gaddr 0 0 7 (R.MSH_ROWMAP y))

/-- ARM by the host (R290). -/
def armTx : Tx := fun s =>
  if s.running then armReject 5 0 s
  else
    let maps := (List.range 16).map s.rowStaged
    match s.mapsFault maps with
    | some f => (chain [checkRowTw, armReject f.1 f.2]) s
    | none => (chain [checkRowTw, moveSites maps, applyMaps maps]) s

/-- Enter a nomination (R292): cause 0 hard-failed line, 1 border fault, 2 SFU bank, 3 host. -/
def nominateSite (row site cause : Nat) : Tx := fun s =>
  match (List.range 8).find? (fun n => !s.rb (R.MSH_NOMINATE n) F.MSH_NOMINATE_VALID) with
  | some n => chain [
      setRegN (R.MSH_NOMINATE n) (row % 16 + site % 64 * 16 + cause * 1024 + 2 ^ 63),
      modChip fun c => { c with noms := c.noms.filter (· != n) ++ [n] }] s
  | none => setF R.MSH_STAT F.MSH_STAT_NOM_LOST 1 s

/-- Nominate the tile at a logical position. -/
def nominate (t cause : Nat) : Tx := fun s => nominateSite (s.tileY t) (s.siteOf t) cause s

/-- HOST_NOMINATE: a write of MSH_RETIRE with GO = 1 (R292). -/
def hostNominateTx (row site : Nat) : Tx := chain [
  setF R.MSH_RETIRE F.MSH_RETIRE_ROW row, setF R.MSH_RETIRE F.MSH_RETIRE_SITE site, nominateSite row site 3]

end Sys2Proof.Machine
end

