-- ==== Sys2Proof/Machine/Maint.lean ====
section
/-! DEFINITION. Maintenance (R30–R35, R129–R133, R121–R124, R228, R450–R456): when a unit may run, scrub, refetch completion,
grain-fill units, in-service and automatic tests, and the service level of the SFU. -/

namespace Sys2Proof.Machine

/-! ### Units (R31, R35, R451) -/

/-- Length of the slice of the current frame (R30, R36 cycle 5). -/
def State.slice (s : State) : Nat := s.chip.sliceLen

/-- The frame cycle at which the tile's next unit would start, now or later; none before its FRAME_END has retired (R31). -/
def State.unitStart (s : State) (t : Nat) : Option Nat :=
  (s.retiredAt t).map fun e => max (max (s.frmLen - s.slice) s.chip.fcyc) (max (e + 1) (s.tile t).sliceUsed)

/-- Does a unit of `len` cycles fit the rest of the tile's slice (R31, R103)? -/
def State.unitFits (s : State) (t len : Nat) : Bool :=
  s.released && decide (len ≤ s.slice) &&
    (match s.unitStart t with | some c => decide (c + len ≤ s.frmLen) | none => false)

/-- The logical tile that a running retirement step moves, with its phase. -/
def State.movingTile (s : State) : Option (Nat × Nat) :=
  match s.chip.retire with
  | some r => match r.plan with
    | (_, _, t) :: _ => some (t, r.phase)
    | [] => none
  | none => none

/-- Length of the retirement unit that waits on a tile. -/
def State.retireUnit (s : State) (t : Nat) : Option Nat :=
  match s.movingTile with
  | some (u, ph) => if u = t then (if ph = 2 then some 128 else if ph = 3 then some 64 else none) else none
  | none => none

/-- Length of the grain-fill unit that waits on a tile. -/
def State.fillUnit (s : State) (t : Nat) : Option Nat :=
  match (s.tile t).fill with
  | some f => if f.endNs.isSome || f.done = 129 then none else some (if f.done = 128 then 8 else 128)
  | none => none

/-- Length of the codebook unit that waits on a tile. -/
def State.cbUnit (s : State) (t : Nat) : Option Nat := if (s.tile t).cbUnits = 0 then none else some 128

/-- Number of units of a test (Table: Tests). -/
def testUnits : Nat → Nat
  | 1 => 16
  | 2 => 2
  | 3 => 1
  | 4 => 48
  | 5 => 2048
  | 6 => 1
  | 7 => 1
  | 0xFF => 2117
  | _ => 0

/-- Unit length of a test (Table: Tests); for 0xFF the longest. -/
def testLen : Nat → Nat
  | 1 => 64
  | 2 => 128
  | 3 => 96
  | 4 => 224
  | 5 => 192
  | 6 => 32
  | 7 => 32
  | 0xFF => 224
  | _ => 0

/-- The test and its unit index that unit `n` of a run belongs to: 0xFF runs all in table order. -/
def testAt (test n : Nat) : Nat × Nat :=
  if test = 0xFF then
    if n < 16 then (1, n)
    else if n < 18 then (2, n - 16)
    else if n < 19 then (3, n - 18)
    else if n < 67 then (4, n - 19)
    else if n < 2115 then (5, n - 67)
    else if n < 2116 then (6, 0)
    else (7, 0)
  else (test, n)

/-- Length of the test unit that waits on a tile: one per frame of a FULL = 0 test, and none while a retirement moves the tile, before the
switch (R31, R451). -/
def State.testWaits (s : State) (t : Nat) : Option Nat :=
  match s.chip.test with
  | some x => if !x.full && x.tile == t && x.lastFrame != some s.frame && (match s.movingTile with | some m => m.1 != t || m.2 == 5 | none => true)
      then some (testLen (testAt x.test x.unitsRun).1) else none
  | none => none

/-- Is an automatic unit due on the tile (R456)? -/
def State.autoDue (s : State) (t : Nat) : Bool :=
  s.rb R.DBG_TEST_CTL F.DBG_TEST_CTL_AUTO_EN &&
    (match (s.tile t).autoLast with
      | none => true
      | some f => decide (f >>> s.rf R.DBG_TEST_CTL F.DBG_TEST_CTL_AUTO_INTERVAL < s.frame >>> s.rf R.DBG_TEST_CTL F.DBG_TEST_CTL_AUTO_INTERVAL))

/-- Length of the automatic unit that waits on a tile: tests 0x01 and 0x02 in turn (R456). -/
def State.autoUnitLen (s : State) (t : Nat) : Option Nat := if s.autoDue t then some (if (s.tile t).autoTurn then 128 else 64) else none

/-- Lengths of the units that go before kind `k` on a tile: 0 retirement, 1 grain fill, 2 codebook, 3 test, an automatic one after a
host's, 4 scrub (R451, R456). -/
def State.unitsBefore (s : State) (t k : Nat) : List Nat :=
  ([s.retireUnit t, s.fillUnit t, s.cbUnit t].take k ++ (if k = 4 then [s.testWaits t, s.autoUnitLen t] else [])).filterMap id

/-- A pending unit longer than the slice waits and is recorded (R35). -/
def sliceSmall (kind : Nat) : Tx := chain [setF R.FRM_FAULT F.FRM_FAULT_SLICE_SMALL 1, setF R.FRM_FAULT F.FRM_FAULT_SMALL_KIND kind]

/-- Run a unit of `len` cycles where it may start; time moves on to its start (log entry 5). `k` is its place in R451's order, `kind` its
code in FRM_FAULT (R31, R35). -/
def unitTx (t len k kind : Nat) (work : Tx) : Tx := fun s =>
  if !s.released then []
  else if s.slice < len then sliceSmall kind s
  else if s.unitFits t len && (s.unitsBefore t k).all (fun l => !s.unitFits t l) then
    let c := (s.unitStart t).getD 0
    chain [elapseTo c, modTile t fun ts => { ts with sliceUsed := c + len }, work] s
  else []

/-! ### Scrub (R129–R133) -/

/-- Is a scrub unit due on the tile (R129, R130)? -/
def State.scrubDue (s : State) (t : Nat) : Bool :=
  s.rb R.TIR_SCRUB_CTL F.TIR_SCRUB_CTL_EN &&
    (match (s.tile t).scrubLast with
      | none => true
      | some f => decide (f >>> s.rf R.TIR_SCRUB_CTL F.TIR_SCRUB_CTL_INTERVAL < s.frame >>> s.rf R.TIR_SCRUB_CTL F.TIR_SCRUB_CTL_INTERVAL))

/-- TIR_SCRUB_STAT from the tiles' progress. -/
def noteScrub : Tx := fun s =>
  let ps := s.tileList.map fun t => (s.tile t).scrubPasses
  let us := s.tileList.map fun t => ((s.tile t).scrubLine / 512, t)
  let mn := us.foldl (fun (a : Nat × Nat) u => if u.1 < a.1 then u else a) (us.headD (0, 0))
  chain [setF R.TIR_SCRUB_STAT F.TIR_SCRUB_STAT_PASSES (min (ps.foldl min (ps.headD 0)) 0xFFFFFFFF),
    setF R.TIR_SCRUB_STAT F.TIR_SCRUB_STAT_MIN_UNIT mn.1, setF R.TIR_SCRUB_STAT F.TIR_SCRUB_STAT_MIN_TILE mn.2] s

/-- The lines that a scrub unit which starts in cycle `c` reads, 16 a cycle, before a read loses its bank to a higher rank (R130). -/
def State.scrubRun (s : State) (t c line : Nat) : Nat :=
  (s.tile t).grants.foldl (fun n g =>
    if g.sp == 1 && decide (g.rank < 7 ∧ c ≤ g.cyc ∧ g.cyc < c + 32) then
      min n (16 * (g.cyc - c) + (g.bank + 16 - line % 16) % 16)
    else n) 512

/-- Scrub lines from `o` on: count down the lines, and the writebacks left; answers through the tile's next line (R129–R132). A read that
waits for a place in the refetch queue ends the unit there (R122); the writebacks begin in cycle 39, four a cycle. -/
def scrubLines (t : Nat) : Nat → Nat → Nat → Tx
  | 0, _, line => modTile t fun ts => { ts with scrubLine := line }
  | n + 1, wb, line => fun s =>
    let o := line * 64
    let l := s.tierStored t o
    let c := s.chip.fcyc
    let stop : Tx := modTile t fun ts => { ts with scrubLine := line }
    if (s.standIn t o).isSome then scrubLines t n wb (line + 1) s
    else if l.ue.isSome then
      if s.weightRegion t (o / 0x10000) && s.queueFull t o then stop s
      else chain [noteTierLine t o c, scrubLines t n wb (line + 1)] s
    else if l.fixed = 0 then scrubLines t n wb (line + 1) s
    else if wb = 0 then stop s
    else chain [noteTierLine t o c, tierPut t o 7 (c + 39 + (32 - wb) / 4) l.data l.poison, scrubLines t n (wb - 1) (line + 1)] s

/-- The end of a unit: at the end of the column the pass is complete. -/
def scrubWrap (t : Nat) : Tx := fun s =>
  if (s.tile t).scrubLine < 262144 then []
  else modTile t (fun ts => { ts with scrubLine := 0, scrubPasses := ts.scrubPasses + 1, scrubStart := none }) s

/-- SCRUB_UNIT. -/
def scrubUnitTx (t : Nat) : Tx := whenS (fun s => s.scrubDue t) <| unitTx t 48 4 0 <| chain [
  look fun s => modTile t fun ts => { ts with scrubStart := some (ts.scrubStart.getD s.chip.ns) },
  look fun s =>
    let line := (s.tile t).scrubLine
    scrubLines t (min (s.scrubRun t s.chip.fcyc line) (262144 - line)) 32 line,
  scrubWrap t,
  look fun s => modTile t fun ts => { ts with scrubLast := some s.frame },
  noteScrub]

/-- Has the tile not completed its pass 24 hours, on the always-on clock, after the pass's first unit (R133)? -/
def State.scrubLate (s : State) (t : Nat) : Bool := (s.tile t).scrubStart.elim false fun b => decide (b + 86400000000000 < s.chip.ns)

/-- SCRUB_LATE (R133). -/
def scrubLateTx (t : Nat) : Tx := whenS (fun s => s.scrubLate t) (setF R.TIR_ECC_STAT F.TIR_ECC_STAT_SCRUB_LATE 1)

/-- SCRUB_UNIT. -/
def execScrubUnit (t : Nat) (s : State) : Out := onTile t (scrubUnitTx t) s

/-- SCRUB_LATE. -/
def execScrubLate (t : Nat) (s : State) : Out := onTile t (scrubLateTx t) s

/-! ### Refetch (R121–R124, R331, R354) -/

/-- Does the region of a tier offset have a vault copy: does the mirror index hold it, or is it marked a weight region (R119, R331)?
One whose mark and index entry have gone is reused, and a refetch of it is dropped (R354). -/
def State.hasCopy (s : State) (t o : Nat) : Bool :=
  s.weightRegion t (wrapOff 1 o / 0x10000) || s.chip.mirror.any fun m => m.1 == 256 * t + wrapOff 1 o / 0x10000

/-- The storage of a line as a write that failed leaves it (log entry 7). -/
def badLine (t o : Nat) (data : List Byte) : Tx := chain [
  tierWriteLine t o data false 0, fun _ => [.err (memKey 1 t o) ([1, 1, 1] ++ List.replicate 61 0)]]

/-- Replace or drop the queue entry of a line. -/
def setRefetch (t o : Nat) (e : Option Refetch) : Tx := modChip fun c =>
  { c with refetch := c.refetch.flatMap fun r => if r.tile == t && r.off == o then e.toList else [r] }

/-- A line hard-fails (R124): its data stands in the repair buffer while there is room. -/
def hardFail (t o : Nat) (data : List Byte) : Tx := chain [
  modTile t fun ts =>
    let ts := { ts with hardLines := ts.hardLines ++ [o] }
    if ts.repair.length < 16 then { ts with repair := ts.repair ++ [⟨o, data, false⟩] }
    else { ts with granted := ts.granted ++ [⟨o, data, false⟩] },
  incF R.TIR_REFETCH_CNT F.TIR_REFETCH_CNT_HARD_LINES 1,
  look fun s => raise R.TIR_ECC_STAT F.TIR_ECC_STAT_HARD 0x0802 ((s.reg R.TIR_ERR_ADDR).toNat % 0x100000000),
  nominate t 0]

/-- REFETCH_COMPLETE for a line that is queued, at the cycle from which reads see the rewritten line (R109, log entry 15); `bad` says that the rewritten line reads uncorrectable again. -/
def refetchCompleteTx (t line : Nat) (bad : Bool) : Tx := fun s =>
  let o := wrapOff 1 (64 * line)
  match s.chip.refetch.find? (fun r => r.tile == t && r.off == o) with
  | none => []
  | some r =>
    if !s.hasCopy t o then setRefetch t o none s
    else
      let data := s.vaultLine t o
      let done := incF R.TIR_REFETCH_CNT F.TIR_REFETCH_CNT_REFETCHES 1
      if (s.tile t).hardLines.contains o then
        chain [done, setRefetch t o none, modTile t fun ts => { ts with granted := ts.granted ++ [⟨o, data, false⟩] }] s
      else if !bad then chain [done, takeBank t 1 o 5 (s.chip.fcyc - 3) true, tierWriteLine t o data false 0, setRefetch t o none] s
      else if r.tries = 0 then chain [done, badLine t o data, setRefetch t o (some { r with tries := 1 })] s
      else chain [done, badLine t o data, setRefetch t o none, hardFail t o data] s

/-- REFETCH_COMPLETE. -/
def execRefetchComplete (t line : Nat) (bad : Bool) (s : State) : Out := onTile t (refetchCompleteTx t line bad) s

/-! ### Grain-fill units (R244, R246) -/

/-- GRAIN_FILL_UNIT: 16 blocks of the fill, or its last block. -/
def grainFillUnitTx (t : Nat) : Tx := fun s =>
  match s.fillUnit t with
  | none => []
  | some len => unitTx t len 1 1 (modTile t fun ts =>
      { ts with fill := ts.fill.map fun f => { f with done := if f.done = 128 then 129 else f.done + 16 } }) s

/-- GRAIN_FILL_UNIT. -/
def execGrainFillUnit (t : Nat) (s : State) : Out := onTile t (grainFillUnitTx t) s

/-! ### Service level of the SFU (R228) -/

/-- The level and its cause: start-up, a bank held out, power-limited recovery, forced; the lowest code that applies. -/
def sfuLevel (t : Nat) : Tx := fun s =>
  let k := R.SFU_STAT t
  let c : Option Nat :=
    if !s.chip.sfuTested then some 0
    else if s.rf k F.SFU_STAT_HELD != 0 then some 1
    else if s.rb R.PWR_STAT F.PWR_STAT_RECOVERY then some 2
    else if s.rb (R.SFU_CTL t) F.SFU_CTL_DEGRADE_FORCE then some 3
    else none
  chain [when (c.isSome && !s.rb k F.SFU_STAT_DEGRADED) (noteSig 0x09 t),
    setB k F.SFU_STAT_DEGRADED c.isSome, setF k F.SFU_STAT_DEG_CAUSE (c.getD 0)] s

/-- Replace element `i` of a list of 16 counts. -/
def setCount (l : List Nat) (i v : Nat) : List Nat := (List.range 16).map fun j => if j = i then v else l.getD j 0

/-- Change one bit of a natural number. -/
def setBit (x b : Nat) (v : Bool) : Nat := if v then x ||| 2 ^ b else if x.testBit b then x - 2 ^ b else x

/-- An evaluator bank's test result: a failure holds it out, the third in a row for good; two passes in a row bring it back. -/
def sfuTest (t b : Nat) (fail : Bool) : Tx := fun s =>
  let ts := s.tile t
  let k := R.SFU_STAT t
  let held := s.rf k F.SFU_STAT_HELD
  let fails := ts.sfuFails.getD b 0
  let passes := ts.sfuPasses.getD b 0
  if fail then
    chain [
      modTile t fun ts => { ts with sfuFails := setCount ts.sfuFails b (fails + 1), sfuPasses := setCount ts.sfuPasses b 0 },
      setF k F.SFU_STAT_HELD (setBit held b true),
      when (fails == 2) (chain [setF k F.SFU_STAT_EVAL_FAIL 1, nominate t 2]),
      sfuLevel t] s
  else if 3 ≤ fails then []
  else if held.testBit b then
    if passes = 1 then
      chain [modTile t fun ts => { ts with sfuFails := setCount ts.sfuFails b 0, sfuPasses := setCount ts.sfuPasses b 0 },
        setF k F.SFU_STAT_HELD (setBit held b false), sfuLevel t] s
    else modTile t (fun ts => { ts with sfuFails := setCount ts.sfuFails b 0, sfuPasses := setCount ts.sfuPasses b 1 }) s
  else modTile t (fun ts => { ts with sfuFails := setCount ts.sfuFails b 0 }) s

/-! ### Tests (R450–R456) -/

/-- What a unit of a test leaves: an SFU bank's result, or a nomination on a failure (R455). -/
def testResult (t test unit : Nat) (fail : Bool) : Tx := chain [
  if test = 1 then sfuTest t unit fail
  else whenS (fun s => fail && s.rb R.DBG_TEST_CTL F.DBG_TEST_CTL_NOMINATE) (nominate t 3),
  when fail (incF R.DBG_TEST_STAT F.DBG_TEST_STAT_FAILS 1)]

/-- DETAIL of a test's reply (Table: Test result). -/
def TestS.detail (x : TestS) (all : Bool) : Nat :=
  all.toNat + x.failed.toNat * 2 + x.ce.toNat * 4 + x.firstFail % 8192 * 8 + x.failTile % 512 * 65536

/-- End the running test with its reply (R453, R454). -/
def endTest (x : TestS) (all : Bool) : Tx := chain [
  postReply x.cmd 0 (x.detail all) x.unitsRun,
  setF R.DBG_TEST_STAT F.DBG_TEST_STAT_TEST 0, setF R.DBG_TEST_STAT F.DBG_TEST_STAT_TILE 0,
  modChip fun c => { c with test := none }]

/-- One unit of the running test on the tiles `ts`, with the tiles on which it failed, the lowest of which is told; after the last one the
reply is posted. -/
def testStep (x : TestS) (ts fails : List Nat) (ce : Bool) : Tx := fun s =>
  let u := testAt x.test x.unitsRun
  let bad := ts.find? fails.contains
  let first := bad.isSome && !x.failed
  let y := { x with
    unitsRun := x.unitsRun + 1, failed := x.failed || bad.isSome, ce := x.ce || ce, lastFrame := some s.frame
    firstFail := if first then x.unitsRun else x.firstFail
    failTile := if first then bad.getD 0 else x.failTile }
  chain [
    forEach ts (fun t => testResult t u.1 u.2 (fails.contains t)),
    if y.unitsRun = testUnits x.test then endTest y true else modChip fun c => { c with test := some y }] s

/-- TEST_UNIT: a unit of the FULL = 0 test in the tile's slice, or the next unit of a FULL = 1 test on every tile, with the
tiles on which it failed. -/
def testUnitTx (t : Nat) (fails : List Nat) (ce : Bool) : Tx := fun s =>
  match s.chip.test with
  | none => []
  | some x =>
    if x.full then chain [elapse (testLen (testAt x.test x.unitsRun).1), testStep x s.tileList fails ce] s
    else match s.testWaits t with
      | none => []
      | some len => unitTx t len 3 5 (testStep x [t] fails ce) s

/-- TEST_UNIT. -/
def execTestUnit (t : Nat) (fails : List Nat) (ce : Bool) (s : State) : Out := onTile t (testUnitTx t fails ce) s

/-- AUTO_TEST_UNIT (R456): a unit of test 0x01 and one of 0x02, in turn. -/
def autoTestUnitTx (t : Nat) (fail : Bool) : Tx := fun s =>
  if !s.autoDue t then []
  else
    let turn := (s.tile t).autoTurn
    let n := (s.tile t).autoUnit
    unitTx t (if turn then 128 else 64) 3 5 (chain [
      testResult t (if turn then 2 else 1) (if turn then n % 2 else n % 16) fail,
      incF R.DBG_TEST_STAT F.DBG_TEST_STAT_AUTO_UNITS 1,
      modTile t fun ts => { ts with
        autoTurn := !turn, autoUnit := if turn then (n + 1) % 16 else n, autoLast := some s.frame }]) s

/-- AUTO_TEST_UNIT. -/
def execAutoTestUnit (t : Nat) (fail : Bool) (s : State) : Out := onTile t (autoTestUnitTx t fail) s

end Sys2Proof.Machine
end

