-- ==== Sys2Proof/Machine/Formats.lean ====
section
/-! DEFINITION. Number formats (spec/05, R138–R150): exact values, decoding of elements, and every conversion and rounding. -/

namespace Sys2Proof.Machine

/-- An exact value: NaN, an infinity, or (−1)^neg × m × 2^e. Zero keeps its sign. For a value decoded from an element, 2^e is
the weight of the element's least significant significand bit (R150). -/
inductive Fx where
  | nan
  | inf (neg : Bool)
  | fin (neg : Bool) (m : Nat) (e : Int)
deriving DecidableEq, Repr

/-- A floating-point element layout (Table: Floating-point elements): exponent bits, fraction bits, bias; whether all-ones
exponents are infinity and NaN; whether 0x7F-like codes are NaN (E4M3). -/
structure FFmt where
  eb : Nat
  fb : Nat
  bias : Nat
  ieee : Bool
  topNan : Bool
deriving DecidableEq, Repr

def fp32 : FFmt := ⟨8, 23, 127, true, false⟩
def bf16 : FFmt := ⟨8, 7, 127, true, false⟩
def fp16 : FFmt := ⟨5, 10, 15, true, false⟩
def e4m3 : FFmt := ⟨4, 3, 7, false, true⟩
def e5m2 : FFmt := ⟨5, 2, 15, true, false⟩
def e3m2 : FFmt := ⟨3, 2, 3, false, false⟩
def e2m3 : FFmt := ⟨2, 3, 1, false, false⟩
def e2m1 : FFmt := ⟨2, 1, 1, false, false⟩

/-- The floating-point layout of the elements of a format code. -/
def ffmt : Nat → Option FFmt
  | 0 => some fp32
  | 1 => some bf16
  | 2 => some fp16
  | 3 => some e4m3
  | 4 => some e5m2
  | 5 => some e4m3
  | 6 => some e5m2
  | 7 => some e3m2
  | 8 => some e2m3
  | 9 => some e2m1
  | _ => none

/-- Element bits of a format code (Table: Format codes); VQ12×8 has no elements of its own. -/
def elemBits : Nat → Nat
  | 0 => 32
  | 1 => 16
  | 2 => 16
  | 7 => 6
  | 8 => 6
  | 9 => 4
  | 12 => 4
  | 14 => 16
  | 15 => 32
  | _ => 8

/-- The value of a floating-point element (R139). -/
def FFmt.decode (p : FFmt) (bits : Nat) : Fx :=
  let neg := (bits >>> (p.eb + p.fb)) % 2 == 1
  let ex := (bits >>> p.fb) % 2 ^ p.eb
  let fr := bits % 2 ^ p.fb
  if p.ieee && ex == 2 ^ p.eb - 1 then (if fr = 0 then .inf neg else .nan)
  else if p.topNan && ex == 2 ^ p.eb - 1 && fr == 2 ^ p.fb - 1 then .nan
  else if ex = 0 then .fin neg fr (1 - (p.bias : Int) - p.fb)
  else .fin neg (2 ^ p.fb + fr) ((ex : Int) - p.bias - p.fb)

/-- Two's complement value of `w` bits. -/
def signed (w bits : Nat) : Int := if bits % 2 ^ w < 2 ^ (w - 1) then (bits % 2 ^ w : Nat) else (bits % 2 ^ w : Nat) - (2 ^ w : Int)

/-- The low `w` bits of an integer. -/
def wrapInt (w : Nat) (v : Int) : Nat := (v % (2 ^ w : Int)).toNat

/-- An integer as an exact value. -/
def Fx.ofInt (v : Int) : Fx := .fin (decide (v < 0)) v.natAbs 0

/-- The exact value of an element of format `f`: floats, INT4/8/16/32, and MXINT8 elements k × 2^−6 (R142, R145). -/
def decodeElem (f bits : Nat) : Fx :=
  match ffmt f with
  | some p => p.decode bits
  | none =>
    if f = 10 then let v := signed 8 bits; .fin (decide (v < 0)) v.natAbs (-6)
    else .ofInt (signed (elemBits f) bits)

/-! ### Exact arithmetic -/

def Fx.neg? : Fx → Bool
  | .nan => false
  | .inf n => n
  | .fin n _ _ => n

def Fx.isNan : Fx → Bool
  | .nan => true
  | _ => false

def Fx.isFin : Fx → Bool
  | .fin _ _ _ => true
  | _ => false

def Fx.isZero : Fx → Bool
  | .fin _ 0 _ => true
  | _ => false

def Fx.negate : Fx → Fx
  | .nan => .nan
  | .inf n => .inf !n
  | .fin n m e => .fin (!n) m e

def Fx.abs : Fx → Fx
  | .nan => .nan
  | .inf _ => .inf false
  | .fin _ m e => .fin false m e

/-- Exact product; 0 × ∞ is NaN. -/
def Fx.mul : Fx → Fx → Fx
  | .nan, _ => .nan
  | _, .nan => .nan
  | .inf a, .inf b => .inf (a != b)
  | .inf a, .fin b m _ => if m = 0 then .nan else .inf (a != b)
  | .fin b m _, .inf a => if m = 0 then .nan else .inf (a != b)
  | .fin a m e, .fin b n f => .fin (a != b) (m * n) (e + f)

/-- Multiply by 2^k. -/
def Fx.scale (k : Int) : Fx → Fx
  | .fin n m e => .fin n m (e + k)
  | x => x

/-- A finite value as an integer multiple of 2^u, where u is at most its exponent. -/
def Fx.toInt (u : Int) : Fx → Int
  | .fin n m e => let v : Int := (m : Int) * (2 ^ (e - u).toNat : Nat); if n then -v else v
  | _ => 0

/-- The exponent of a finite value's unit. -/
def Fx.unit : Fx → Int
  | .fin _ _ e => e
  | _ => 0

/-- The smallest unit exponent of a list. -/
def minUnit : List Fx → Int
  | [] => 0
  | [x] => x.unit
  | x :: xs => min x.unit (minUnit xs)

/-- Exact sum of several values. NaN terms and opposite infinities give NaN. A zero sum is −0 only where every term is −0. -/
def Fx.sum (xs : List Fx) : Fx :=
  if xs.any Fx.isNan then .nan
  else
    let infs := xs.filter (fun x => !x.isFin)
    match infs with
    | i :: rest => if rest.all (fun j => j.neg? == i.neg?) then .inf i.neg? else .nan
    | [] =>
      let u := minUnit xs
      let v : Int := xs.foldl (fun a x => a + x.toInt u) 0
      if v = 0 then .fin (xs.all fun x => x.neg? && x.isZero) 0 u else .fin (decide (v < 0)) v.natAbs u

def Fx.add (a b : Fx) : Fx := .sum [a, b]
def Fx.sub (a b : Fx) : Fx := .sum [a, b.negate]

/-- a < b for values that are no NaN; −0 equals +0. -/
def Fx.lt (a b : Fx) : Bool :=
  match a, b with
  | .nan, _ => false
  | _, .nan => false
  | .inf na, .inf nb => na && !nb
  | .inf na, .fin _ _ _ => na
  | .fin _ _ _, .inf nb => !nb
  | x, y => let u := min x.unit y.unit; decide (x.toInt u < y.toInt u)

/-- Numeric equality; NaN equals nothing. -/
def Fx.eqv (a b : Fx) : Bool := !a.isNan && !b.isNan && !a.lt b && !b.lt a

/-- floor(log2) of a positive natural number. -/
def ilog2 (n : Nat) : Nat := Nat.log2 n

/-! ### Rounding -/

/-- Rounding modes (Table: Rounding modes); stochastic rounding carries its element's grain word. -/
inductive Rnd where
  | rne
  | rtz
  | sr (word : Nat)
deriving DecidableEq, Repr

/-- Round the magnitude m × 2^e to a multiple of 2^u; answers the multiplier (R148, R150). -/
def roundMag (r : Rnd) (m : Nat) (e u : Int) : Nat :=
  if u ≤ e then m * 2 ^ (e - u).toNat
  else
    let n := (u - e).toNat
    let q := m / 2 ^ n
    let rem := m % 2 ^ n
    match r with
    | .rtz => q
    | .rne => if 2 * rem > 2 ^ n || (2 * rem == 2 ^ n && q % 2 == 1) then q + 1 else q
    | .sr w =>
      let k := min 32 n
      let t := rem * 2 ^ k / 2 ^ n
      if t + w % 2 ^ k ≥ 2 ^ k then q + 1 else q

/-- Exponent of a format's least unit. -/
def FFmt.minUlp (p : FFmt) : Int := 1 - (p.bias : Int) - p.fb

/-- Exponent of the unit at the format's largest finite value. -/
def FFmt.maxUlp (p : FFmt) : Int := (2 ^ p.eb : Nat) - (if p.ieee then 2 else 1 : Int) - p.bias - p.fb

/-- The largest finite value in units of `maxUlp`. -/
def FFmt.maxMul (p : FFmt) : Nat := if p.topNan then 2 ^ (p.fb + 1) - 2 else 2 ^ (p.fb + 1) - 1

/-- The code of the positive largest finite value. -/
def FFmt.maxCode (p : FFmt) : Nat :=
  if p.ieee then (2 ^ p.eb - 1) * 2 ^ p.fb - 1 else if p.topNan then 2 ^ (p.eb + p.fb) - 2 else 2 ^ (p.eb + p.fb) - 1

/-- The canonical NaN (R141); formats without NaN never need it. -/
def FFmt.nanCode (p : FFmt) : Nat :=
  if p.ieee then (2 ^ p.eb - 1) * 2 ^ p.fb + 2 ^ (p.fb - 1) else 2 ^ (p.eb + p.fb) - 1

/-- The code of an exactly representable magnitude q × 2^u, or of the sign bit alone for 0. -/
def FFmt.encodeMag (p : FFmt) (q : Nat) (u : Int) : Nat :=
  if q = 0 then 0
  else
    let k := (ilog2 q : Int) + u
    if k < 1 - (p.bias : Int) then q * 2 ^ (u - p.minUlp).toNat
    else
      let sig := if u ≤ k - p.fb then q / 2 ^ (k - p.fb - u).toNat else q * 2 ^ (u - (k - p.fb)).toNat
      (k + p.bias).toNat * 2 ^ p.fb + (sig - 2 ^ p.fb)

/-- Convert a value to a floating-point element: its code and whether it saturated (R148, R149, R150). -/
def FFmt.convert (p : FFmt) (r : Rnd) (x : Fx) : Nat × Bool :=
  let sgn (n : Bool) := if n then 2 ^ (p.eb + p.fb) else 0
  match x with
  | .nan => (p.nanCode, false)
  | .inf n => if p.ieee then (sgn n + (2 ^ p.eb - 1) * 2 ^ p.fb, false) else (sgn n + p.maxCode, true)
  | .fin n m e =>
    if m = 0 then (sgn n, false)
    else
      let k := (ilog2 m : Int) + e
      let u := min (max (k - p.fb) p.minUlp) p.maxUlp
      let q := roundMag r m e u
      if u = p.maxUlp ∧ p.maxMul < q then
        if p.ieee && r == .rne then (sgn n + (2 ^ p.eb - 1) * 2 ^ p.fb, false) else (sgn n + p.maxCode, true)
      else (sgn n + p.encodeMag q u, false)

/-- Round a value to an integer by the mode, on a grid of 2^u (R149, R150). -/
def roundInt (r : Rnd) (u : Int) : Fx → Int
  | .fin n m e => let q : Int := roundMag r m e u; if n then -q else q
  | _ => 0

/-- Convert to a two's complement integer of `w` bits whose unit is 2^u: code and whether it saturated (R149). -/
def toIntCode (w : Nat) (u : Int) (r : Rnd) (x : Fx) : Nat × Bool :=
  let hi : Int := (2 ^ (w - 1) : Nat) - 1
  let lo : Int := -(2 ^ (w - 1) : Nat)
  match x with
  | .nan => (0, false)
  | .inf n => (wrapInt w (if n then lo else hi), true)
  | y =>
    let v := roundInt r u y
    if v < lo then (wrapInt w lo, true) else if hi < v then (wrapInt w hi, true) else (wrapInt w v, false)

/-- Convert a value to an element of format `f` (R148–R150); MXINT8 elements have unit 2^−6 (R142). -/
def convertElem (f : Nat) (r : Rnd) (x : Fx) : Nat × Bool :=
  match ffmt f with
  | some p => p.convert r x
  | none => if f = 10 then toIntCode 8 (-6) r x else toIntCode (elemBits f) 0 r x

/-- Does a stochastic conversion of a value to format `f` cut bits off, and so use bits of its grain word (R150)? -/
def cutsBits (f : Nat) : Fx → Bool
  | .fin _ m e => m != 0 && decide (e < match ffmt f with
    | some p => min (max ((ilog2 m : Int) + e - p.fb) p.minUlp) p.maxUlp
    | none => if f = 10 then -6 else 0)
  | _ => false

/-- One RNE rounding to FP32, as a code. -/
def rne32 (x : Fx) : Nat := (fp32.convert .rne x).1

/-- One RNE rounding to FP32, as a value ("rnd", R225). -/
def rnd (x : Fx) : Fx := fp32.decode (rne32 x)

/-- fma with one RNE rounding to FP32. -/
def fma (a b c : Fx) : Fx := rnd (.sum [a.mul b, c])

/-- An FP32 code as a value. -/
def f32 (bits : Nat) : Fx := fp32.decode (bits % 0x100000000)

/-- The canonical FP32 NaN (R141). -/
def nan32 : Nat := 0x7FC00000

/-- The quotient of finite values as a value that rounds as the exact quotient does for any precision up to 64 bits: the
quotient's leading bits and a last bit that says whether anything was cut off. -/
def Fx.divFin (n : Bool) (a : Nat) (ea : Int) (b : Nat) (eb : Int) : Fx :=
  let k := 80 + ilog2 b
  let q := a * 2 ^ k / b
  let st := if a * 2 ^ k % b = 0 then 0 else 1
  .fin n (2 * q + st) (ea - eb - k - 1)

/-- Quotient: NaN for 0/0 and ∞/∞, infinity for x/0. -/
def Fx.div : Fx → Fx → Fx
  | .nan, _ => .nan
  | _, .nan => .nan
  | .inf _, .inf _ => .nan
  | .inf a, .fin b _ _ => .inf (a != b)
  | .fin a _ _, .inf b => .fin (a != b) 0 0
  | .fin a m e, .fin b n f =>
    if n = 0 then (if m = 0 then .nan else .inf (a != b)) else if m = 0 then .fin (a != b) 0 0 else .divFin (a != b) m e n f

/-- One RNE rounding to a 24-bit significand with unbounded exponent (R234). -/
def rnd24 : Fx → Fx
  | .fin n m e =>
    if m = 0 then .fin n 0 e
    else
      let u := (ilog2 m : Int) + e - 23
      .fin n (roundMag .rne m e u) u
  | x => x

/-- Round a positive value toward +∞ to BF16, as a code (R147). -/
def bf16Up (x : Fx) : Nat :=
  let c := (bf16.convert .rtz x).1
  if (bf16.decode c).lt x then c + 1 else c

/-! ### Microscaled blocks (R142–R144) -/

/-- The value 2^(e − 127) of an E8M0 scale byte; `none` for NaN. -/
def e8m0 (e : Nat) : Option Int := if e % 256 = 255 then none else some ((e % 256 : Nat) - 127)

/-- The exact value of a microscaled element (R143). -/
def mxValue (f scale bits : Nat) : Fx :=
  match e8m0 scale with
  | none => .nan
  | some k => (decodeElem f bits).scale k

/-- emax of R144. -/
def mxEmax : Nat → Int
  | 5 => 8
  | 6 => 15
  | 7 => 4
  | 8 => 2
  | 9 => 2
  | _ => 0

/-- The larger of two magnitudes. -/
def maxMag (a b : Fx) : Fx := if a.abs.lt b.abs then b.abs else a.abs

/-- floor(log2 |x|) of a finite non-zero value. -/
def Fx.ilog : Fx → Int
  | .fin _ m e => (ilog2 m : Int) + e
  | _ => 0

/-- The scale byte of a block (R144); 0xFF where an element is NaN or infinite. -/
def mxScale (f : Nat) (xs : List Fx) : Nat :=
  if xs.any (fun x => !x.isFin) then 255
  else
    let amax := xs.foldl maxMag (.fin false 0 0)
    if amax.isZero then 0
    else (max 0 (min 254 (amax.ilog - mxEmax f + 127))).toNat

/-- A finite value as an element of a microscaled block. MX elements have no infinity: E5M2's overflow saturates (R142, R149). -/
def mxElem (f : Nat) (r : Rnd) (x : Fx) : Nat × Bool :=
  let c := convertElem f r x
  if f = 6 ∧ c.1 % 128 = 0x7C then (c.1 - 1, true) else c

/-- Encode a block: its scale byte, the element codes with their saturations; each element has its own rounding mode (R144). -/
def mxEncode (f : Nat) (xs : List (Fx × Rnd)) : Nat × List (Nat × Bool) :=
  let scale := mxScale f (xs.map (·.1))
  (scale, xs.map fun x =>
    if scale = 255 then (0, false)
    else mxElem f x.2 (x.1.scale (127 - (scale : Int))))

end Sys2Proof.Machine
end

