-- ==== Sys2Proof/Machine/Weights.lean ====
section
/-! DEFINITION. The weight path (spec/05, R151–R163): weight images, expansion, the codebook store; and activation images and
border images (R171, R183). An operand is an exact value with its poison. -/

namespace Sys2Proof.Machine

/-- An operand value and its poison. -/
abbrev Opd := Fx × Bool

/-- Positions per beat (R151). -/
def beatLen (fmt : Nat) : Nat := if fmt = 1 ∨ fmt = 2 then 2 else 8

/-- Tier byte offset of beat `i` from the image's start (R151, R152). -/
def wBeatOff (fmt i : Nat) : Nat :=
  match fmt with
  | 5 => 4224 * (i / 4) + 128 + 1024 * (i % 4)
  | 6 => 4224 * (i / 4) + 128 + 1024 * (i % 4)
  | 10 => 4224 * (i / 4) + 128 + 1024 * (i % 4)
  | 7 => 3200 * (i / 4) + 128 + 768 * (i % 4)
  | 8 => 3200 * (i / 4) + 128 + 768 * (i % 4)
  | 9 => 2176 * (i / 4) + 128 + 512 * (i % 4)
  | 13 => 1600 * (i / 8) + 64 + 192 * (i % 8)
  | 12 => 512 * i
  | 1 => 512 * i
  | 2 => 512 * i
  | _ => 1024 * i

/-- Bytes of a beat (Table: Beat layout). -/
def wBeatBytes (fmt : Nat) : Nat :=
  match fmt with
  | 7 => 768
  | 8 => 768
  | 9 => 512
  | 12 => 512
  | 13 => 192
  | 1 => 512
  | 2 => 512
  | _ => 1024

/-- Byte offset of the scale lines of the group of beat `i` (R152). -/
def wScaleOff (fmt i : Nat) : Nat :=
  if mxFmt fmt then wBeatOff fmt (i / 4 * 4) - 128 else wBeatOff fmt (i / 8 * 8) - 64

/-- Bytes of a weight image of `k` positions (Table: Image sizes). -/
def wImageBytes (fmt k : Nat) : Nat :=
  if mxFmt fmt then wBeatOff fmt (k / 8) - 128
  else if fmt = 13 then wBeatOff fmt (k / 8) - 64
  else wBeatOff fmt (k / beatLen fmt)

/-- Little-endian value of bytes with poison. -/
def pNat (bs : List PByte) : Nat := leNat (pdata bs)

/-- Elements of `n` positions packed low first in the little-endian value of some bytes. -/
def unpackBits (w n : Nat) (bs : List PByte) : List (Nat × Bool) :=
  let v := pNat bs
  (List.range n).map fun j => (v >>> (w * j) % 2 ^ w, ppoison bs)

/-- The codebook entry `e` of codebook `c` in a bank: its 8 bytes as decoded (R157, R158). -/
def State.cbEntry (s : State) (t bank c e : Nat) : Decoded :=
  let k := memKey 5 t (bank * 0x20000 + c * 0x8000 + 8 * e)
  secDecode (List.zipWith (· ^^^ ·) (s.bytes k 8) (s.errBytes k 8)) (leNat (s.errBytes k 8))

/-- The 12-bit indexes of the 128 rows of a VQ beat (R151). -/
def vqIndexes (bs : List PByte) : List (Nat × Bool) :=
  (pieces 3 bs).flatMap fun c =>
    let v := pNat c
    [(v % 4096, ppoison c), (v / 4096 % 4096, ppoison c)]

/-- The weights of beat `i` of an image at tier offset `base`, row by row (R143, R146, R151, R152, R156). -/
def State.weightBeat (s : State) (t fmt base bank cb i : Nat) : List (List Opd) :=
  let bs := s.rd 1 t (base + wBeatOff fmt i) (wBeatBytes fmt)
  if fmt = 13 then
    let sc := s.rd 1 t (base + wScaleOff fmt i) 4
    let lo : Opd := (bf16.decode (pNat (sc.take 2)), ppoison (sc.take 2))
    let hi : Opd := (bf16.decode (pNat (sc.drop 2)), ppoison (sc.drop 2))
    (vqIndexes bs).zipIdx.map fun ir =>
      let g := if ir.2 < 64 then lo else hi
      let d := s.cbEntry t bank cb ir.1.1
      d.data.map fun b => (g.1.mul (e4m3.decode b.toNat), g.2 || ir.1.2 || d.ue)
  else
    let rows := pieces (wBeatBytes fmt / 128) bs
    if mxFmt fmt then
      let sc := s.rd 1 t (base + wScaleOff fmt i) 128
      (rows.zip sc).map fun rs =>
        (unpackBits (elemBits fmt) 8 rs.1).map fun e => (mxValue fmt rs.2.1.toNat e.1, e.2 || rs.2.2)
    else rows.map fun r => (unpackBits (elemBits fmt) (beatLen fmt) r).map fun e => (decodeElem fmt e.1, e.2)

/-- What expanding beat `i` of an image records: codebook corrections, NaN scales and NaN entries (R143, R158, R163). WPA_NAN_ADDR holds the
offset behind roll-slot translation (DESIGN CHOICE, log entry 67). -/
def noteExpand (t fmt base bank cb i : Nat) : Tx := fun s =>
  if mxFmt fmt && i % 4 == 0 then
    let o := base + wScaleOff fmt i
    let sc := pdata (s.rd 1 t o 128)
    let n := (sc.filter (· == 0xFF)).length
    when (decide (0 < n)) (chain [
      when (s.rb (R.WPA_CTL t) F.WPA_CTL_NAN_LOG && !s.rb (R.WPA_STAT t) F.WPA_STAT_NAN_SCALE)
        (setF (R.WPA_NAN_ADDR t) F.WPA_NAN_ADDR_OFFSET
          ((s.spanLines 1 t (o + (if (sc.take 64).any (· == 0xFF) then 0 else 64)) 1).headD 0)),
      setB (R.WPA_STAT t) F.WPA_STAT_NAN_SCALE true,
      incF (R.WPA_STAT t) F.WPA_STAT_NAN_SCALE_CNT n]) s
  else if fmt = 13 then
    let es := (vqIndexes (s.rd 1 t (base + wBeatOff 13 i) 192)).map fun x => s.cbEntry t bank cb x.1
    let ce := (es.filter fun d => decide (0 < d.fixed)).length
    let ue := (es.filter fun d => d.ue).length
    chain [
      when (decide (0 < ce)) (chain [setB (R.WPA_CB_STAT t) F.WPA_CB_STAT_CE true, incF (R.WPA_CB_STAT t) F.WPA_CB_STAT_CE_COUNT ce]),
      when (decide (0 < ue)) (chain [setB (R.WPA_CB_STAT t) F.WPA_CB_STAT_UE true, incF (R.WPA_CB_STAT t) F.WPA_CB_STAT_UE_COUNT ue]),
      when (es.any fun d => d.data.any fun b => (e4m3.decode b.toNat).isNan) (setB (R.WPA_STAT t) F.WPA_STAT_NAN_ENTRY true)] s
  else []

/-! ### Activation images (R171) -/

/-- Bytes of an activation image of `k` positions (R171). -/
def aImageBytes (fmt k : Nat) : Nat :=
  if mxFmt fmt then 576 * ((k + 31) / 32) else if fmt = 1 ∨ fmt = 2 then 32 * k else 16 * k

/-- Byte offset of beat `i` of an activation image. -/
def aBeatOff (fmt i : Nat) : Nat :=
  if mxFmt fmt then 576 * (i / 4) + 64 + 128 * (i % 4) else if fmt = 1 ∨ fmt = 2 then 64 * i else 128 * i

/-- The activations of beat `i`, column by column; columns above `ncol` are +0 (R171, R172). -/
def State.actBeat (s : State) (t fmt base ncol i : Nat) : List (List Opd) :=
  let n := beatLen fmt
  let bs := s.rd 0 t (base + aBeatOff fmt i) (if n = 2 then 64 else 128)
  let sc := if mxFmt fmt then s.rd 0 t (base + 576 * (i / 4)) 16 else []
  (pieces (if n = 2 then 4 else 8) bs).zipIdx.map fun cb =>
    if ncol < cb.2 then List.replicate n (.fin false 0 0, false)
    else
      let es := unpackBits (elemBits fmt) n cb.1
      if mxFmt fmt then
        let e := sc.getD cb.2 (0, false)
        es.map fun x => (mxValue fmt e.1.toNat x.1, x.2 || e.2)
      else es.map fun x => (decodeElem fmt x.1, x.2)

/-- Entries `i·n` to `i·n + n − 1` of the border image of weights of format `fmt`: INT32 for INT8 and INT4, FP32 for the float formats
(spec/06 Border checking). A tier line that awaits a refetch keeps no beat waiting: its entries are those of the vault copy, and the check
waits for it (R121, R183, log entry 55). -/
def State.borderBeat (s : State) (sp t base fmt i : Nat) : List Opd :=
  let n := beatLen fmt
  let o := base + 4 * n * i
  let bs := if s.needsRefetch sp t o (4 * n) then (s.vaultCopy t (s.translate t o) (4 * n)).map (·, false) else s.rd sp t o (4 * n)
  (pieces 4 bs).map fun c =>
    (if intFmt fmt || fmt == 12 then Fx.ofInt (signed 32 (pNat c)) else f32 (pNat c), ppoison c)

end Sys2Proof.Machine
end

