-- ==== Sys2Proof/Machine/Zstd.lean ====
section
/-! DEFINITION. Decompression of a single Zstandard frame (R347, which names RFC 8878): frame and block headers, Huffman-coded literals,
FSE-coded sequences, the content checksum. `none` is a frame that does not decode. -/

namespace Sys2Proof.Machine

/-! ### Bits -/

/-- The bits of a byte, lowest first. -/
def byteBits (b : Byte) : List Bool := (List.range 8).map b.toNat.testBit

/-- The bits of a stream that is read forwards: the lowest of the first byte first. -/
def forwardBits (bs : List Byte) : List Bool := bs.flatMap byteBits

/-- The bits of a stream that is read backwards from its end, below the marker bit of its last byte. -/
def backwardBits (bs : List Byte) : Option (List Bool) :=
  match (forwardBits bs).reverse.dropWhile (!·) with
  | true :: r => if (bs.getLastD 0) = 0 then none else some r
  | _ => none

/-- The value of some bits, the highest first. -/
def bitsHigh (bs : List Bool) : Nat := bs.foldl (fun a b => 2 * a + b.toNat) 0

/-- Read `n` bits of a forward stream, the lowest first. -/
def readLow (n : Nat) (bs : List Bool) : Option (Nat × List Bool) :=
  if bs.length < n then none else some (bitsHigh (bs.take n).reverse, bs.drop n)

/-- Read `n` bits of a backward stream, the highest first. -/
def readHigh (n : Nat) (bs : List Bool) : Option (Nat × List Bool) :=
  if bs.length < n then none else some (bitsHigh (bs.take n), bs.drop n)

/-! ### Finite state entropy -/

/-- A decoding table: its accuracy, and for every state its symbol, the bits it reads and the base of the next state. -/
structure Fse where
  log : Nat
  states : List (Nat × Nat × Nat)
deriving Repr

/-- The zeros that follow a symbol of probability 0: counts of two bits, 3 continuing. -/
def zeroRun : Nat → List Bool → Option (Nat × List Bool)
  | 0, _ => none
  | fuel + 1, bs => do
    let (r, bs) ← readLow 2 bs
    if r = 3 then
      let (m, bs) ← zeroRun fuel bs
      pure (m + 3, bs)
    else pure (r, bs)

/-- Probabilities (−1 for "less than 1") until none of `left` remains. -/
def fseProbs : Nat → Nat → List Bool → Option (List Int × List Bool)
  | 0, _, _ => none
  | _, 0, bs => some ([], bs)
  | fuel + 1, left, bs => do
    let n := Nat.log2 (left + 1) + 1
    let (v, long) ← match readLow n bs with
      | some x => some x
      | none => readLow (n - 1) bs
    let half := 2 ^ (n - 1)
    let cut := 2 ^ n - 1 - (left + 1)
    let short := decide (v % half < cut)
    let bs ← if short then (readLow (n - 1) bs).map (·.2) else if bs.length < n then none else some long
    let p : Int := (if short then v % half else if half ≤ v then v - cut else v : Nat) - 1
    if left < p.natAbs then none
    else if p = 0 then
      let (z, bs) ← zeroRun fuel bs
      let (ps, bs) ← fseProbs fuel left bs
      pure (0 :: List.replicate z 0 ++ ps, bs)
    else
      let (ps, bs) ← fseProbs fuel (left - p.natAbs) bs
      pure (p :: ps, bs)

/-- The table of some probabilities: symbols below 1 take the last states, the others are spread over the rest. -/
def fseTable (log : Nat) (ps : List Int) : Fse :=
  let size := 2 ^ log
  let low := (ps.zipIdx.filter fun p => p.1 < 0).map (·.2)
  let high := size - low.length
  let step := size / 2 + size / 8 + 3
  let places := ((List.range size).map fun k => k * step % size).filter (· < high)
  let spread := places.zip (ps.zipIdx.flatMap fun p => List.replicate p.1.toNat p.2)
  let sym (i : Nat) := if high ≤ i then low.getD (size - 1 - i) 0 else ((spread.find? (·.1 == i)).map (·.2)).getD 0
  let syms := (List.range size).map sym
  ⟨log, syms.zipIdx.map fun x =>
    let n := (ps.getD x.1 0).natAbs + (syms.take x.2).count x.1
    let b := log - Nat.log2 n
    (x.1, b, n * 2 ^ b - size)⟩

/-- A table description: the table, and the bytes after it. -/
def fseRead (maxLog maxSym : Nat) (bs : List Byte) : Option (Fse × List Byte) := do
  let all := forwardBits bs
  let (a, r) ← readLow 4 all
  if maxLog < a + 5 then none
  else
    let (ps, r) ← fseProbs (8 * bs.length + 1) (2 ^ (a + 5)) r
    if maxSym + 1 < ps.length then none
    else pure (fseTable (a + 5) ps, bs.drop ((all.length - r.length + 7) / 8))

/-- The symbol of a state. -/
def Fse.sym (t : Fse) (st : Nat) : Nat := (t.states.getD st (0, 0, 0)).1

/-- The next state. -/
def Fse.step (t : Fse) (st : Nat) (bs : List Bool) : Option (Nat × List Bool) :=
  let x := t.states.getD st (0, 0, 0)
  (readHigh x.2.1 bs).map fun r => (x.2.2 + r.1, r.2)

/-! ### Huffman coding -/

/-- A Huffman table: the longest code, and for every value of that many bits the symbol and the length of its code. -/
structure Huff where
  log : Nat
  codes : List (Nat × Nat)
deriving Repr

/-- The weights that two alternating states give until the bits run out. -/
def fseWeights (t : Fse) : Nat → Nat → Nat → List Bool → List Nat
  | 0, _, _, _ => []
  | fuel + 1, a, b, bs => t.sym a :: match t.step a bs with
    | none => [t.sym b]
    | some r => fseWeights t fuel b r.1 r.2

/-- The table of some weights, the last of which is implied. -/
def huffTable (ws : List Nat) : Option Huff :=
  let total := (ws.map fun w => if w = 0 then 0 else 2 ^ (w - 1)).foldl (· + ·) 0
  let log := Nat.log2 total + 1
  let left := 2 ^ log - total
  if total = 0 ∨ 11 < log ∨ 255 < ws.length ∨ 2 ^ Nat.log2 left ≠ left then none
  else
    let all := ws ++ [Nat.log2 left + 1]
    some ⟨log, (List.range log).flatMap fun w =>
      (all.zipIdx.filter (·.1 == w + 1)).flatMap fun x => List.replicate (2 ^ w) (x.2, log - w)⟩

/-- A Huffman tree description: the table, and the bytes after it. -/
def huffRead (bs : List Byte) : Option (Huff × List Byte) :=
  match bs with
  | [] => none
  | h :: r =>
    let n := h.toNat
    if 128 ≤ n then do
      let k := n - 127
      if r.length < (k + 1) / 2 then none
      else
        let ws := ((r.take ((k + 1) / 2)).flatMap fun b => [b.toNat / 16, b.toNat % 16]).take k
        pure (← huffTable ws, r.drop ((k + 1) / 2))
    else if r.length < n then none
    else do
      let (t, s) ← fseRead 6 12 (r.take n)
      let bits ← backwardBits s
      let (a, bits) ← readHigh t.log bits
      let (b, bits) ← readHigh t.log bits
      pure (← huffTable (fseWeights t 256 a b bits), r.drop n)

/-- `n` symbols, which must use up a stream. -/
def Huff.symbols (h : Huff) : Nat → List Bool → Option (List Byte)
  | 0, bs => if bs.isEmpty then some [] else none
  | n + 1, bs => do
    let x ← h.codes[bitsHigh ((bs ++ List.replicate h.log false).take h.log)]?
    if bs.length < x.2 then none
    else
      let r ← h.symbols n (bs.drop x.2)
      pure (BitVec.ofNat 8 x.1 :: r)

/-- A stream of `n` symbols. -/
def Huff.stream (h : Huff) (n : Nat) (bs : List Byte) : Option (List Byte) := do h.symbols n (← backwardBits bs)

/-- `n` literals in one stream, or in four with a jump table. -/
def Huff.literals (h : Huff) (four : Bool) (n : Nat) (bs : List Byte) : Option (List Byte) :=
  if !four then h.stream n bs
  else
    let size (i : Nat) := leNat ((bs.drop (2 * i)).take 2)
    let q := (n + 3) / 4
    let r := bs.drop 6
    if bs.length < 6 ∨ r.length < size 0 + size 1 + size 2 ∨ n < 3 * q then none
    else do
      let a ← h.stream q (r.take (size 0))
      let b ← h.stream q ((r.drop (size 0)).take (size 1))
      let c ← h.stream q ((r.drop (size 0 + size 1)).take (size 2))
      let d ← h.stream (n - 3 * q) (r.drop (size 0 + size 1 + size 2))
      pure (a ++ b ++ c ++ d)

/-! ### Blocks -/

/-- What a frame carries from block to block: the output, newest byte first, the Huffman table, the tables of literal lengths, offsets and
match lengths, and the repeated offsets. -/
structure Zst where
  out : List Byte := []
  huff : Option Huff := none
  ll : Option Fse := none
  off : Option Fse := none
  ml : Option Fse := none
  reps : Nat × Nat × Nat := (1, 4, 8)

/-- The literals section: the literals, and the bytes after it. -/
def zstLiterals (z : Zst) (bs : List Byte) : Option (Zst × List Byte × List Byte) :=
  let w := leNat (bs.take 5)
  let fmt := w / 4 % 4
  let kind := w % 4
  if bs.isEmpty then none
  else if kind < 2 then
    let (hl, n) := if fmt % 2 = 0 then (1, w / 8 % 32) else if fmt = 1 then (2, w / 16 % 2 ^ 12) else (3, w / 16 % 2 ^ 20)
    let r := bs.drop hl
    let need := if kind = 0 then n else 1
    if bs.length < hl + need then none
    else some (z, if kind = 0 then r.take n else List.replicate n (r.headD 0), r.drop need)
  else
    let (hl, k) := if fmt < 2 then (3, 10) else if fmt = 2 then (4, 14) else (5, 18)
    let n := w / 16 % 2 ^ k
    let c := w / 2 ^ (4 + k) % 2 ^ k
    let body := (bs.drop hl).take c
    if bs.length < hl + c then none
    else do
      let (h, r) ← if kind = 2 then huffRead body else z.huff.map (·, body)
      let lits ← h.literals (fmt != 0) n r
      pure ({ z with huff := some h }, lits, bs.drop (hl + c))

/-- Extra bits of the literal length codes from 16 on. -/
def llExtra : List Nat := [1, 1, 1, 1, 2, 2, 3, 3, 4, 6, 7, 8, 9, 10, 11, 12, 13, 14, 15, 16]
/-- Extra bits of the match length codes from 32 on. -/
def mlExtra : List Nat := [1, 1, 1, 1, 2, 2, 3, 3, 4, 4, 5, 7, 8, 9, 10, 11, 12, 13, 14, 15, 16]

/-- Base and extra bits of a length code: the first `plain` codes stand for themselves; each later one begins where the one before it ends,
but that code 25 of the literal lengths and code 43 of the match lengths begin at a power of two (plus 3). -/
def lengthCode (plain add skip : Nat) (extra : List Nat) (c : Nat) : Nat × Nat :=
  if c < plain then (c + add, 0)
  else
    let e := extra.getD (c - plain) 0
    if skip ≤ c then (2 ^ e + add, e)
    else (plain + add + ((extra.take (c - plain)).map (2 ^ ·)).foldl (· + ·) 0, e)

/-- Base and extra bits of a literal length code. -/
def llCode (c : Nat) : Nat × Nat := lengthCode 16 0 25 llExtra c
/-- Base and extra bits of a match length code. -/
def mlCode (c : Nat) : Nat × Nat := lengthCode 32 3 43 mlExtra c

/-- Predefined probabilities of literal length, offset and match length codes. -/
def llDefault : List Int := [4, 3] ++ List.replicate 11 2 ++ [1, 1, 1] ++ List.replicate 9 2 ++ [3, 2] ++ List.replicate 5 1 ++
  List.replicate 4 (-1)
def ofDefault : List Int := List.replicate 6 1 ++ [2, 2, 2] ++ List.replicate 15 1 ++ List.replicate 5 (-1)
def mlDefault : List Int := [1, 4, 3] ++ List.replicate 6 2 ++ List.replicate 37 1 ++ List.replicate 7 (-1)

/-- The table of one kind of code: predefined, one symbol, described, or that of the block before. -/
def seqTable (mode log maxLog maxSym : Nat) (dflt : List Int) (old : Option Fse) (bs : List Byte) : Option (Fse × List Byte) :=
  match mode with
  | 0 => some (fseTable log dflt, bs)
  | 1 => match bs with
    | b :: r => if maxSym < b.toNat then none else some (⟨0, [(b.toNat, 0, 0)]⟩, r)
    | [] => none
  | 2 => fseRead maxLog maxSym bs
  | _ => old.map (·, bs)

/-- The offset that a value stands for, and the repeated offsets after it. -/
def zstOffset (reps : Nat × Nat × Nat) (v ll : Nat) : Nat × (Nat × Nat × Nat) :=
  let (a, b, c) := reps
  if 3 < v then (v - 3, (v - 3, a, b))
  else match v + (if ll = 0 then 1 else 0) with
    | 1 => (a, (a, b, c))
    | 2 => (b, (b, a, c))
    | 3 => (c, (c, a, b))
    | _ => (a - 1, (a - 1, a, b))

/-- Copy `n` bytes from `o` bytes back, one after another. -/
def copyBack (o : Nat) : Nat → List Byte → List Byte
  | 0, out => out
  | n + 1, out => copyBack o n (out.getD (o - 1) 0 :: out)

/-- `n` sequences: literals and matches go to the output; what is left of the literals follows the last. -/
def sequences (tl tf tm : Fse) (window : Nat) : Nat → Nat × Nat × Nat → Zst → List Byte → List Bool → Option Zst
  | 0, _, z, lits, bs => if bs.isEmpty then some { z with out := lits.reverse ++ z.out } else none
  | n + 1, (sl, so, sm), z, lits, bs => do
    let c := tf.sym so
    let (v, bs) ← readHigh c bs
    let (mb, me) := mlCode (tm.sym sm)
    let (mx, bs) ← readHigh me bs
    let (lb, le) := llCode (tl.sym sl)
    let (lx, bs) ← readHigh le bs
    let ll := lb + lx
    let (o, reps) := zstOffset z.reps (2 ^ c + v) ll
    let out := (lits.take ll).reverse ++ z.out
    if lits.length < ll ∨ o = 0 ∨ out.length < o ∨ window < o then none
    else
      let z := { z with out := copyBack o (mb + mx) out, reps := reps }
      if n = 0 then sequences tl tf tm window 0 (0, 0, 0) z (lits.drop ll) bs
      else
        let (sl, bs) ← tl.step sl bs
        let (sm, bs) ← tm.step sm bs
        let (so, bs) ← tf.step so bs
        sequences tl tf tm window n (sl, so, sm) z (lits.drop ll) bs

/-- A compressed block. -/
def zstBlock (window : Nat) (z : Zst) (bs : List Byte) : Option Zst := do
  let (z, lits, r) ← zstLiterals z bs
  let b (i : Nat) := (r.getD i 0).toNat
  let (hl, n) := if b 0 < 128 then (1, b 0) else if b 0 < 255 then (2, (b 0 - 128) * 256 + b 1) else (3, b 1 + 256 * b 2 + 0x7F00)
  if r.length < hl then none
  else if n = 0 then
    if r.length = 1 then pure { z with out := lits.reverse ++ z.out } else none
  else
    let m := b hl
    if r.length < hl + 1 ∨ m % 4 ≠ 0 then none
    else
      let (tl, r) ← seqTable (m / 64) 6 9 35 llDefault z.ll (r.drop (hl + 1))
      let (tf, r) ← seqTable (m / 16 % 4) 5 8 31 ofDefault z.off r
      let (tm, r) ← seqTable (m / 4 % 4) 6 9 52 mlDefault z.ml r
      let bits ← backwardBits r
      let (sl, bits) ← readHigh tl.log bits
      let (so, bits) ← readHigh tf.log bits
      let (sm, bits) ← readHigh tm.log bits
      sequences tl tf tm window n (sl, so, sm) { z with ll := some tl, off := some tf, ml := some tm } lits bits

/-- Blocks up to the last, none larger than the window or 128 KiB: the output, and the bytes after them. -/
def zstBlocks (window : Nat) : Nat → Zst → List Byte → Option (Zst × List Byte)
  | 0, _, _ => none
  | fuel + 1, z, bs => do
    let h := leNat (bs.take 3)
    let n := h / 8
    let top := min window 0x20000
    let r := bs.drop 3
    let need := if h / 2 % 4 = 1 then 1 else n
    if bs.length < 3 + need ∨ top < n then none
    else
      let z' ← match h / 2 % 4 with
        | 0 => some { z with out := (r.take n).reverse ++ z.out }
        | 1 => some { z with out := List.replicate n (r.headD 0) ++ z.out }
        | 2 => zstBlock window z (r.take n)
        | _ => none
      if z.out.length + top < z'.out.length then none
      else if h % 2 = 1 then pure (z', r.drop need)
      else zstBlocks window fuel z' (r.drop need)

/-! ### The checksum -/

/-- The five primes of XXH64. -/
def xxP1 : Nat := 0x9E3779B185EBCA87
def xxP2 : Nat := 0xC2B2AE3D27D4EB4F
def xxP3 : Nat := 0x165667B19E3779F9
def xxP4 : Nat := 0x85EBCA77C2B2AE63
def xxP5 : Nat := 0x27D4EB2F165667C5

/-- Rotate a 64-bit word left. -/
def rotl64 (x n : Nat) : Nat := ((x <<< n) ||| (x >>> (64 - n))) % 2 ^ 64

/-- One lane takes eight bytes. -/
def xxRound (a v : Nat) : Nat := rotl64 ((a + v * xxP2) % 2 ^ 64) 31 * xxP1 % 2 ^ 64

/-- A lane joins the hash. -/
def xxMerge (h a : Nat) : Nat := ((h ^^^ xxRound 0 a) * xxP1 + xxP4) % 2 ^ 64

/-- A last scramble step. -/
def xxMix (h n p : Nat) : Nat := (h ^^^ (h >>> n)) * p % 2 ^ 64

/-- XXH64 with seed 0. -/
def xxh64 (bs : List Byte) : Nat :=
  let n := bs.length
  let whole := n / 32 * 32
  let lane (i start : Nat) := (pieces 32 (bs.take whole)).foldl (fun a p => xxRound a (leNat ((p.drop (8 * i)).take 8))) start
  let h0 := if n < 32 then xxP5 else
    let a := lane 0 ((xxP1 + xxP2) % 2 ^ 64)
    let b := lane 1 xxP2
    let c := lane 2 0
    let d := lane 3 (2 ^ 64 - xxP1)
    [a, b, c, d].foldl xxMerge ((rotl64 a 1 + rotl64 b 7 + rotl64 c 12 + rotl64 d 18) % 2 ^ 64)
  let t := bs.drop whole
  let words := t.length / 8
  let h1 := (pieces 8 (t.take (8 * words))).foldl (fun h p => (rotl64 (h ^^^ xxRound 0 (leNat p)) 27 * xxP1 + xxP4) % 2 ^ 64) ((h0 + n) % 2 ^ 64)
  let u := t.drop (8 * words)
  let h2 := if 4 ≤ u.length then (rotl64 (h1 ^^^ (leNat (u.take 4) * xxP1 % 2 ^ 64)) 23 * xxP2 + xxP3) % 2 ^ 64 else h1
  let h3 := (if 4 ≤ u.length then u.drop 4 else u).foldl (fun h b => rotl64 (h ^^^ (b.toNat * xxP5 % 2 ^ 64)) 11 * xxP1 % 2 ^ 64) h2
  let h4 := xxMix (xxMix h3 33 xxP2) 29 xxP3
  h4 ^^^ (h4 >>> 32)

/-! ### Frames -/

/-- A frame after its magic number, with a window of at most 8 MiB and no dictionary: its content, and the bytes after it. -/
def zstFrame (bs : List Byte) : Option (List Byte × List Byte) := do
  let d := (bs.headD 0).toNat
  let single := d / 32 % 2 == 1
  let wl := if single then 0 else 1
  let dl := [0, 1, 2, 4].getD (d % 4) 0
  let fl := match d / 64 with | 0 => (if single then 1 else 0) | 1 => 2 | 2 => 4 | _ => 8
  let w := (bs.getD 1 0).toNat
  let size := leNat ((bs.drop (1 + wl + dl)).take fl) + (if fl = 2 then 256 else 0)
  let window := if single then size else 2 ^ (10 + w / 8) + 2 ^ (10 + w / 8) / 8 * (w % 8)
  if bs.length < 1 + wl + dl + fl ∨ d / 8 % 2 = 1 ∨ leNat ((bs.drop (1 + wl)).take dl) ≠ 0 ∨ 0x800000 < window then none
  else
    let (z, r) ← zstBlocks window (bs.length + 1) {} (bs.drop (1 + wl + dl + fl))
    let out := z.out.reverse
    if fl ≠ 0 ∧ out.length ≠ size then none
    else if d / 4 % 2 = 0 then pure (out, r)
    else if 4 ≤ r.length ∧ leNat (r.take 4) = xxh64 out % 2 ^ 32 then pure (out, r.drop 4)
    else none

/-- The frames of some bytes, skippable ones left out. -/
def zstFrames : Nat → List Byte → Option (List (List Byte))
  | 0, _ => none
  | _, [] => some []
  | fuel + 1, bs => do
    let m := leNat (bs.take 4)
    let n := leNat ((bs.drop 4).take 4)
    if bs.length < 4 then none
    else if m = 0xFD2FB528 then
      let (out, r) ← zstFrame (bs.drop 4)
      let outs ← zstFrames fuel r
      pure (out :: outs)
    else if m / 16 = 0x184D2A5 ∧ 8 + n ≤ bs.length then zstFrames fuel (bs.drop (8 + n))
    else none

/-- The content of a single Zstandard frame (R347). -/
def zstdDecode (bs : List Byte) : Option (List Byte) :=
  match zstFrames (bs.length + 1) bs with
  | some [out] => some out
  | _ => none

end Sys2Proof.Machine
end

