-- ==== Sys2Proof/Machine/Xform.lean ====
section
/-! DEFINITION. The arrival transform (R144, R147, R151–R153, R332–R335, R347–R349): shard-table entries, payloads, quantisation, and
the bytes it writes into a tier column. -/

namespace Sys2Proof.Machine

/-! ### The shard table (R333) -/

/-- An unsigned little-endian field of some bytes. -/
def field (bs : List Byte) (o n : Nat) : Nat := leNat ((bs.drop o).take n)

/-- A shard-table entry. -/
structure Shard where
  offset : Nat
  length : Nat
  tlen : Nat
  modFirst : Nat
  modCount : Nat
  modStride : Nat
  tile : Nat
  ntile : Nat
  group : Nat
  kind : Nat
  xform : Nat
  sfmt : Nat
  tfmt : Nat
  cb : Nat
  toff : Nat
  blocks : Nat
  ksrc : Nat
  lrows : Nat
  digest : List Byte
  pad : Bool
deriving DecidableEq, Repr

/-- Read an entry; `pad` says that its reserved bytes are 0. -/
def readShard (b : List Byte) : Shard :=
  { offset := field b 0 8, length := field b 8 4, tlen := field b 0xC 4, modFirst := field b 0x10 2, modCount := field b 0x12 2
    modStride := field b 0x14 2, tile := field b 0x16 2, ntile := field b 0x18 2, group := field b 0x1A 1
    kind := field b 0x1B 1, xform := field b 0x1C 1, sfmt := field b 0x1D 1, tfmt := field b 0x1E 1
    cb := field b 0x1F 1, toff := field b 0x20 2, blocks := field b 0x22 2, ksrc := field b 0x24 4
    lrows := field b 0x28 2, digest := (b.drop 0x40).take 32, pad := ((b.drop 0x2A).take 22).all (· == 0) }

/-- Is the shard delivered to module position `p`? -/
def Shard.toModule (x : Shard) (p : Nat) : Bool :=
  decide (x.modFirst ≤ p ∧ (p - x.modFirst) % x.modStride = 0 ∧ (p - x.modFirst) / x.modStride < x.modCount)

/-- K positions of a stored row, padded (R153). -/
def padK (fmt k : Nat) : Nat :=
  let u := if mxFmt fmt then 32 else if fmt = 13 then 64 else 8
  (k + u - 1) / u * u

/-- Bytes of one weight image of the shard. -/
def Shard.image (x : Shard) : Nat := wImageBytes x.tfmt (padK x.tfmt x.ksrc)

/-- The border image's offset from its weight image (R349). -/
def Shard.borderOff (x : Shard) : Nat := (x.image + 1023) / 1024 * 1024

/-- σ of R349. -/
def Shard.sigma (x : Shard) : Nat :=
  x.borderOff + (if x.xform.testBit 2 then (4 * padK x.tfmt x.ksrc + 1023) / 1024 * 1024 else 0)

/-- The entry's own ranges (Table: Shard entry, R348, R349), and its tiles and modules on the part and domain. -/
def Shard.ok (x : Shard) (tiles modules : Nat) : Bool :=
  decide (1 ≤ x.length ∧ x.length ≤ 67108864) && decide (1 ≤ x.modCount ∧ x.modCount ≤ 1024) &&
  decide (1 ≤ x.modStride ∧ x.modStride ≤ 1023) && decide (x.modFirst + (x.modCount - 1) * x.modStride < modules) &&
  decide (1 ≤ x.ntile ∧ x.ntile ≤ 512) && decide (x.tile + x.ntile ≤ tiles) && decide (x.kind ≤ 2) && decide (x.xform < 8) &&
  [1, 2, 3, 4, 5, 6, 7, 8, 9, 10, 11, 12, 13].contains x.tfmt &&
  (if x.xform.testBit 1 then [0, 1, 2].contains x.sfmt && !(x.tfmt == 11 || x.tfmt == 12) else x.sfmt == x.tfmt) &&
  (if x.tfmt = 13 then decide (x.cb ≤ 3) else x.cb == 0) && decide (1 ≤ x.blocks) && decide (1 ≤ x.ksrc) &&
  decide (1 ≤ x.lrows ∧ x.lrows ≤ 128) && x.tlen == x.blocks * x.sigma && decide (x.toff * 1024 + x.tlen ≤ 0x1000000) && x.pad

/-- The regions of a tier column that the shard writes. -/
def Shard.regions (x : Shard) : List Nat :=
  let a := x.toff * 1024 / 0x10000
  let b := (x.toff * 1024 + x.tlen - 1) / 0x10000
  (List.range (b + 1 - a)).map (a + ·)

/-- One level of the Merkle tree (R335). -/
def merkleLevel : List (List Byte) → List (List Byte)
  | a :: b :: r => sha256 (a ++ b) :: merkleLevel r
  | r => r

/-- Levels until one node is left; `n` levels suffice for 2^n digests. -/
def merkleUp : Nat → List (List Byte) → List (List Byte)
  | 0, l => l
  | n + 1, l => if l.length ≤ 1 then l else merkleUp n (merkleLevel l)

/-- The Merkle root of shard digests in table order (R335). -/
def merkleRoot (ds : List (List Byte)) : List Byte := (merkleUp ds.length ds).headD []

/-! ### Quantisation (R348) -/

/-- Pack codes of `w` bits low first into whole bytes. -/
def packCodes (w : Nat) (cs : List Nat) : List Byte :=
  leBytes ((w * cs.length + 7) / 8) ((cs.zipIdx.map fun c => (c.1 % 2 ^ w) <<< (w * c.2)).foldl (· + ·) 0)

/-- Columns `a` to `a + n − 1` of a row, zero beyond its end. -/
def cutRow (r : List Fx) (a n : Nat) : List Fx := (List.range n).map fun j => r.getD (a + j) (.fin false 0 0)

/-- An unscaled image: its beats, and the saturations (R148, R151). -/
def quantPlain (fmt k : Nat) (rows : List (List Fx)) : List Byte × Nat :=
  let n := beatLen fmt
  let beats := (List.range (k / n)).map fun i =>
    rows.map fun r => (cutRow r (n * i) n).map fun x => convertElem fmt .rne x
  ((beats.map fun b => (b.map fun r => packCodes (elemBits fmt) (r.map (·.1))).flatten).flatten,
    ((beats.map fun b => (b.map fun r => (r.filter (·.2)).length).foldl (· + ·) 0).foldl (· + ·) 0))

/-- A microscaled image (R144, R151, R152). -/
def quantMx (fmt k : Nat) (rows : List (List Fx)) : List Byte × Nat :=
  let groups := (List.range (k / 32)).map fun g =>
    let rs := rows.map fun r => mxEncode fmt ((cutRow r (32 * g) 32).map fun x => (x, Rnd.rne))
    (rs.map (fun r => (BitVec.ofNat 8 r.1 : Byte)) ++
      ((List.range 4).map fun i => (rs.map fun r =>
        packCodes (elemBits fmt) (((r.2.drop (8 * i)).take 8).map (·.1))).flatten).flatten,
     (rs.map fun r => (r.2.filter (·.2)).length).foldl (· + ·) 0)
  ((groups.map (·.1)).flatten, (groups.map (·.2)).foldl (· + ·) 0)

/-- The entries of a codebook (R157). -/
def cbEntries (cb : List Byte) : List (List Fx) := (pieces 8 cb).map fun e => e.map fun b => e4m3.decode b.toNat

/-- The squared distance of a run from a scaled entry, each operation rounded to FP32 (R147). -/
def vqDist (scale : Fx) (v c : List Fx) : Fx :=
  (v.zip c).foldl (fun a p =>
    let d := rnd (p.1.sub (rnd (scale.mul p.2)))
    rnd (a.add (rnd (d.mul d)))) (.fin false 0 0)

/-- The entry nearest to a run; ties go to the lowest (R147). An entry with a NaN is passed over, and a distance that is NaN is nearer than
none (DESIGN CHOICE, log entry 29). -/
def vqNearest (scale : Fx) (entries : List (List Fx)) (v : List Fx) : Nat :=
  let best := entries.zipIdx.foldl (fun (a : Option (Nat × Fx)) e =>
    if e.1.any (·.isNan) then a
    else
      let d := vqDist scale v e.1
      match a with
      | none => some (e.2, d)
      | some b => if d.lt b.2 then some (e.2, d) else a) none
  (best.map (·.1)).getD 0

/-- One VQ group of 64 rows by 64 positions: its BF16 scale and its 512 indexes, row by row (R147). The rule says nothing of a NaN in the
group, nor how distances compare where the scale is +infinity: these values are free (log entry 29). -/
def quantVqGroup (entries : List (List Fx)) (codes : List Nat) (rows : List (List Fx)) : Nat × List (List Nat) :=
  let xs := rows.flatten
  let open_ := (List.range 64).map fun r => (List.range 8).map fun i => (Config.vqOpen codes (1 + 8 * r + i)).toNat % 4096
  if xs.any (·.isNan) then ((Config.vqOpen codes 0).toNat, open_)
  else
    let cmax := ((entries.filter fun e => !e.any (·.isNan)).flatten.filter (·.isFin)).foldl maxMag (.fin false 0 0)
    let amax := xs.foldl maxMag (.fin false 0 0)
    if amax.isZero || cmax.isZero then (0, List.replicate 64 (List.replicate 8 0))
    else
      let sc := bf16Up (amax.div cmax)
      if sc = 0x7F80 then (sc, open_) else (sc, rows.map fun r => (pieces 8 r).map (vqNearest (bf16.decode sc) entries))

/-- A VQ12×8 image; padding has index 0 (R147, R151–R153). -/
def quantVq (cb : List Byte) (k : Nat) (rows : List (List Fx)) (codes : List (List Nat)) : List Byte :=
  let es := cbEntries cb
  ((List.range (k / 64)).map fun g =>
    let half (lo : Nat) := quantVqGroup es (((codes.drop lo).take 64).map fun r => (r.drop (64 * g)).take 64).flatten
      (((rows.drop lo).take 64).map fun r => cutRow r (64 * g) 64)
    let a := half 0
    let b := half 64
    let idx := (a.2 ++ b.2).zipIdx.map fun r => r.1.zipIdx.map fun e =>
      if (rows.getD r.2 []).length ≤ 64 * g + 8 * e.2 then 0 else e.1
    leBytes 2 a.1 ++ leBytes 2 b.1 ++ List.replicate 60 0 ++
      ((List.range 8).map fun i => packCodes 12 (idx.map fun r => r.getD i 0)).flatten).flatten

/-- Bytes of a source element. -/
def srcBytes (f : Nat) : Nat := elemBits f / 8

/-- Rows of block `b`. -/
def Shard.rowsOf (x : Shard) (b : Nat) : Nat := if b + 1 = x.blocks then x.lrows else 128

/-- Payload bytes of one tile (R347, R348). -/
def Shard.perTile (x : Shard) : Nat :=
  if x.xform.testBit 1 then ((List.range x.blocks).map fun b => x.rowsOf b * x.ksrc * srcBytes x.sfmt).foldl (· + ·) 0
  else x.blocks * x.image

/-- The weight image of block `b` from a tile's part, with its saturations (R348). -/
def Shard.block (x : Shard) (cb part : List Byte) (b : Nat) : List Byte × Nat :=
  if x.xform.testBit 1 then
    let n := srcBytes x.sfmt
    let bytes := (part.drop (b * 128 * x.ksrc * n)).take (x.rowsOf b * x.ksrc * n)
    let codes := (pieces (x.ksrc * n) bytes).map fun r => (pieces n r).map leNat
    let rows := (codes.map fun r => r.map (decodeElem x.sfmt)) ++ List.replicate (128 - x.rowsOf b) []
    let k := padK x.tfmt x.ksrc
    if x.tfmt = 13 then (quantVq ((cb.drop (0x8000 * x.cb)).take 0x8000) k rows codes, 0)
    else if mxFmt x.tfmt then quantMx x.tfmt k rows
    else quantPlain x.tfmt k rows
  else ((part.drop (b * x.image)).take x.image, 0)

/-! ### Border images (R349) -/

/-- The weights of beat `i` of an image in hand, row by row. -/
def imageBeat (fmt : Nat) (cb img : List Byte) (i : Nat) : List (List Fx) :=
  let bs := (img.drop (wBeatOff fmt i)).take (wBeatBytes fmt)
  let un (w n : Nat) (b : List Byte) := (unpackBits w n (b.map (·, false))).map (·.1)
  if fmt = 13 then
    let sc := (img.drop (wScaleOff fmt i)).take 4
    let es := cb
    (un 12 128 bs).zipIdx.map fun e =>
      let g := bf16.decode (leNat (if e.2 < 64 then sc.take 2 else sc.drop 2))
      ((es.drop (8 * e.1)).take 8).map fun b => g.mul (e4m3.decode b.toNat)
  else
    let rows := pieces (wBeatBytes fmt / 128) bs
    if mxFmt fmt then
      let sc := (img.drop (wScaleOff fmt i)).take 128
      (rows.zip sc).map fun r => (un (elemBits fmt) 8 r.1).map (mxValue fmt r.2.toNat)
    else rows.map fun r => (un (elemBits fmt) (beatLen fmt) r).map (decodeElem fmt)

/-- s[k] of a block, exact, rounded once to FP32 or exact as INT32 (R349). -/
def borderImage (fmt k : Nat) (cb img : List Byte) : List Byte :=
  let n := beatLen fmt
  ((List.range (k / n)).map fun i =>
    let ws := imageBeat fmt cb img i
    ((List.range n).map fun j =>
      let x := Fx.sum (ws.map fun r => r.getD j (.fin false 0 0))
      leBytes 4 (if fmt = 11 ∨ fmt = 12 then (toIntCode 32 0 .rne x).1 else rne32 x)).flatten).flatten

/-- Fill with zeros to `n` bytes. -/
def padTo (n : Nat) (bs : List Byte) : List Byte := bs ++ List.replicate (n - bs.length) 0

/-- The tier bytes of one tile's part, TLEN of them, with the saturations (R348, R349). -/
def Shard.tierBytes (x : Shard) (cb part : List Byte) : List Byte × Nat :=
  let bl := (List.range x.blocks).map fun b =>
    let im := x.block cb part b
    let img := padTo x.borderOff im.1
    (if x.xform.testBit 2 then
        padTo x.sigma (img ++ borderImage x.tfmt (padK x.tfmt x.ksrc) ((cb.drop (0x8000 * x.cb)).take 0x8000) im.1)
      else img, im.2)
  ((bl.map (·.1)).flatten, (bl.map (·.2)).foldl (· + ·) 0)

/-- The payload of a stored shard, NTILE parts of it, or `none` where it does not decode to exactly that (R344, R347). -/
def Shard.payload (x : Shard) (stored : List Byte) : Option (List Byte) :=
  let p := if x.xform.testBit 0 then zstdDecode stored else some stored
  match p with
  | some b => if b.length = x.ntile * x.perTile then some b else none
  | none => none

end Sys2Proof.Machine
end

