-- ==== Sys2Proof/Machine/RollCore.lean ====
section
/-! DEFINITION. Roll descriptors, the regions they own, binding and freeing (R336–R340, R346, R352–R354). -/

namespace Sys2Proof.Machine

/-! ### Descriptors (0 A, 1 B) -/

/-- Word `w` of a descriptor. -/
def descKey (x w : Nat) : Nat := R.ROL_DESC_A_0 + 0x80 * x + 8 * w

/-- State of a descriptor (Table: Descriptor states). -/
def State.descState (s : State) (x : Nat) : Nat := s.rf (descKey x 0) F.ROL_DESC_A_0_STATE

/-- Set a descriptor's state; the manager's standby learns of it first (R460). -/
def setDesc (x st : Nat) : Tx := chain [tellStandby, setF (descKey x 0) F.ROL_DESC_A_0_STATE st]

/-- Root of a descriptor. -/
def State.descRoot (s : State) (x : Nat) : List Byte := ((List.range 4).map fun w => leBytes 8 (s.reg (descKey x (1 + w))).toNat).flatten

/-- Requests bound to a descriptor's roll. -/
def State.bound (s : State) (x : Nat) : Nat := s.rf (descKey x 9) F.ROL_DESC_A_BOUND_BOUND

/-- Write a 32-byte value into four consecutive words. -/
def setWords (k : Nat) (bs : List Byte) : Tx := forEach (List.range 4) fun w => setRegN (k + 8 * w) (field bs (8 * w) 8)

/-- Write a descriptor's root. -/
def setRoot (x : Nat) (root : List Byte) : Tx := setWords (descKey x 1) root

/-- Write a descriptor's slot mask, bit g for group g. -/
def setMask (x mask : Nat) : Tx := forEach (List.range 4) fun w => setRegN (descKey x (5 + w)) (mask / 2 ^ (64 * w) % 2 ^ 64)

/-- What a descriptor holds beside its registers. -/
def State.roll (s : State) (x : Nat) : RollS := if x = 0 then s.chip.rollA else s.chip.rollB

/-- Set it. -/
def setRoll (x : Nat) (f : RollS → RollS) : Tx := modChip fun c =>
  if x = 0 then { c with rollA := f c.rollA } else { c with rollB := f c.rollB }

/-- The descriptor that holds the LIVE roll. -/
def State.live (s : State) : Option Nat := [0, 1].find? fun x => s.descState x == 4

/-- The descriptor bound at admission (R352). -/
def State.active (s : State) : Nat := s.tw R.ROL_ACTIVE % 2

/-- The descriptor that names a root and is not EMPTY. -/
def State.byRoot (s : State) (root : List Byte) : Option Nat := [0, 1].find? fun x => s.descState x != 0 && s.descRoot x == root

/-! ### Regions -/

/-- Set or clear a region's class bit (R119). -/
def setClass (t r : Nat) (b : Bool) : Tx := fun s =>
  let k := classKey (32 * t + r % 256 / 8)
  [.mem k [BitVec.ofNat 8 (setBit (s.byte k).toNat (r % 8) b)]]

/-- The mirror index takes or loses a region's entry (R331). -/
def setMirror (t r : Nat) (digest : Option Nat) : Tx := modChip fun c =>
  { c with mirror := (digest.map fun d => (256 * t + r, d)).toList ++ c.mirror.filter (·.1 != 256 * t + r) }

/-- Does the refetch queue hold an entry for a region (R354)? -/
def State.refetchIn (s : State) (t r : Nat) : Bool := s.chip.refetch.any fun f => f.tile == t && f.off / 0x10000 == r

/-- Release a region (R346, R354): its class bit and its mirror-index entry go, and a refetch queued for it is dropped. -/
def releaseRegion (t r : Nat) : Tx := chain [
  setClass t r false, setMirror t r none,
  modChip fun c => { c with refetch := c.refetch.filter fun f => !(f.tile == t && f.off / 0x10000 == r) }]

/-- Regions of descriptor `x` that the other descriptor's roll does not share. -/
def State.ownRegions (s : State) (x : Nat) : List (Nat × Nat) :=
  let other := if s.descState (1 - x) = 4 ∨ s.descState (1 - x) = 5 then (s.roll (1 - x)).regions else []
  (s.roll x).regions.filter fun r => !other.contains r

/-- Empty a descriptor, releasing what only it holds (R353); the manager's standby learns of it first (R460). -/
def emptyDesc (x : Nat) : Tx := fun s => chain [
  tellStandby,
  forEach (s.ownRegions x) (fun r => releaseRegion r.1 r.2),
  setRegN (descKey x 0) 0, setRoot x [], setMask x 0, setRegN (descKey x 9) 0, setRoll x fun _ => {},
  modChip fun c => { c with armedRoll := if c.armedRoll = some x then none else c.armedRoll },
  whenS (fun s' => s'.chip.armedRoll.isNone) (setRegN R.ROL_SWITCH_FRAME 0)] s

/-! ### Freeing an OLD roll (R353) -/

/-- Has every tile's frame F + ROL_LAG[t] passed? -/
def State.lagsPassed (s : State) : Bool := s.tileList.all fun t => (s.tile t).servNext.isNone

/-- The OLD roll that may be freed: unbound, every lag passed, and freed automatically or by name. Bindings of other modules are
taken to be 0 (log entry 9). -/
def State.freeable (s : State) (x : Nat) : Bool :=
  s.descState x == 5 && s.bound x == 0 && s.lagsPassed && ((s.roll x).freeNamed || s.rb R.ROL_CTL F.ROL_CTL_AUTO_FREE)

/-- OLD_ROLL_FREE: an OLD roll whose regions have no refetch queued (R354). -/
def oldRollFreeTx : Tx := fun s =>
  match [0, 1].find? (fun x => s.freeable x && (s.ownRegions x).all fun r => !s.refetchIn r.1 r.2) with
  | some x => emptyDesc x s
  | none => []

/-- OLD_ROLL_FREE. -/
def execOldRollFree (s : State) : Out := commit oldRollFreeTx s

/-- The last LIVE roll as the roll records show it (R341). -/
def noteLive (x : Nat) : Tx := fun s =>
  modChip (fun c => { c with
    lastLive := s.descRoot x
    lastRoll := s.roll x
    lastMask := ((List.range 4).map fun w => (s.reg (descKey x (5 + w))).toNat * 2 ^ (64 * w)).foldl (· + ·) 0 }) s

/-- A descriptor becomes LIVE and the LIVE one OLD (R340, R352). -/
def makeLive (x : Nat) : Tx := fun s => chain [
  (match s.live with | some y => setDesc y 5 | none => skip),
  setDesc x 4, setTw R.ROL_ACTIVE x, noteLive x,
  setRegN R.ROL_SWITCH_FRAME 0, modChip (fun c => { c with armedRoll := none })] s

/-- A tile's serving roll becomes descriptor `x`, with its codebook bank where the roll carries a changed codebook section
(R352). -/
def serve (t x : Nat) (cb : Bool) : Tx := chain [
  modTile t fun ts => { ts with serving := some x, servNext := none },
  when cb (fun s =>
    let b := 1 - s.rf (R.WPA_CB_STAT t) F.WPA_CB_STAT_ACTIVE
    chain [setTw (R.WPA_CB_SEL t) b, setF (R.WPA_CB_STAT t) F.WPA_CB_STAT_ACTIVE b, setF (R.WPA_CB_STAT t) F.WPA_CB_STAT_PENDING 0] s)]

/-! ### The running load -/

/-- Change the running load. -/
def modLoad (f : LoadS → LoadS) : Tx := modChip fun c => { c with load := c.load.map f }

/-- Shard `i` of the load's table. -/
def LoadS.shard (l : LoadS) (i : Nat) : Shard := readShard ((l.table.drop (96 * i)).take 96)

/-- Is group `g` written by this load: a changed group of the roll's mask (R336, R338), against the live roll? -/
def State.groupWritten (s : State) (l : LoadS) (g : Nat) : Bool :=
  match s.live with
  | none => true
  | some y => s.slotMask l.desc g != s.slotMask y g

/-- Is the shard sent and written: a base-weight shard of an unchanged group is not (R336)? -/
def State.shardWritten (s : State) (l : LoadS) (x : Shard) : Bool := l.ask.adapter || x.kind != 0 || s.groupWritten l x.group

/-- The shards that this module takes: those addressed to it, of changed groups (R336, R343). -/
def State.needed (s : State) (l : LoadS) : List Nat :=
  (List.range l.shards).filter fun i =>
    let x := l.shard i
    x.toModule s.position && s.shardWritten l x

/-- Offset by which a base-weight shard of a group in slot B moves (R338, R339). -/
def State.slotShift (s : State) (l : LoadS) (x : Shard) : Nat :=
  if x.kind = 0 && s.slotMask l.desc x.group then
    match s.group x.group with
    | some (a, _, b, _) => b * 0x10000 + 0x1000000 - a * 0x10000
    | none => 0
  else 0

/-- The (tile, region) pairs that a shard writes. -/
def State.shardRegions (s : State) (l : LoadS) (x : Shard) : List (Nat × Nat) :=
  let d := s.slotShift l x / 0x10000
  (List.range x.ntile).flatMap fun j => x.regions.map fun r => (x.tile + j, (r + d) % 256)

/-- The loader writes lines of a tier column, one a cycle where frames run, at its own rank (R114, R349). -/
def loaderWrite (t off : Nat) (bs : List Byte) : Tx := fun s =>
  if !s.running then wrBytes 1 t (wrapOff 1 off) bs false 0 s
  else
    let cs := s.grantRun t 1 6 true (bs.length / 64) off s.chip.fcyc
    forEach cs.zipIdx (fun x => chain [
      takeBank t 1 (off + 64 * x.2) 6 x.1 true,
      tierWriteLine t (off + 64 * x.2) ((bs.drop (64 * x.2)).take 64) false (x.1 + 3)]) s

/-- The regions that a load has written: those of its shards, or those whose mirror copies have been read (R341). -/
def State.writtenRegions (s : State) (l : LoadS) : List (Nat × Nat) :=
  if l.ask.source = 4 then (s.ownRegions l.desc).filter fun r => !l.vault.contains r
  else (((List.range l.shards).filter l.done.contains).map l.shard).flatMap (s.shardRegions l)

/-- The port of the drive that source 2 reads (Table: Load sources). -/
def LoadAsk.drive (a : LoadAsk) : Nat := if a.cmd.w6.toNat.testBit 4 && !a.adapter then 13 else 12

/-- The reply of a load's command, where this module owes it (R340). -/
def LoadAsk.reply (a : LoadAsk) (status detail detail2 : Nat) : Tx := when a.own (postReply a.cmd status detail detail2)

/-- A load that fails stops: what it wrote is released, its descriptor is FAILED (R346). -/
def abandonLoad (l : LoadS) : Tx := fun s => chain [
  forEach (s.writtenRegions l).eraseDups (fun r => releaseRegion r.1 r.2),
  modChip (fun c => { c with load := none, relay := none }),
  forEach s.tileList (fun t => modTile t fun ts => { ts with cbUnits := 0 }),
  when (!l.ask.adapter) (chain [setDesc l.desc 6, setRoll l.desc fun r => { r with regions := [] }]),
  setF R.ROL_LOAD_STAT F.ROL_LOAD_STAT_PHASE 5] s

/-- A load fails on the module at position `pos`: it stops on every module, and its command is answered with the shard and that position
(R346). -/
def failLoadAt (status detail pos : Nat) : Tx := fun s =>
  match s.chip.load with
  | none => []
  | some l => chain [abandonLoad l, l.ask.reply status detail pos,
      if l.ask.own then tellModules 12 0 else sendMgmt 3 (status + 65536 * detail)] s

/-- A load fails on this module. -/
def failLoad (status detail : Nat) (flag : Fld) : Tx := whenS (fun s => s.chip.load.isSome) <| chain [
  look fun s => failLoadAt status detail s.position, setF R.ROL_LOAD_STAT flag 1]

/-- Loads whose descriptors or regions the chip loses end with SHARD_TIMEOUT, those that wait with them (R365, R438; log entry 58). -/
def voidLoads : Tx := fun s => chain [
  (match s.chip.load with | some l => l.ask.reply 0x0402 0 s.position | none => skip),
  forEach s.chip.loadWait (fun a => a.reply 0x0402 0 s.position),
  modChip fun c => { c with load := none, loadWait := [], relay := none }] s

/-- A switch that takes effect at once, on every tile (R351). -/
def switchNow (x : Nat) : Tx := fun s =>
  chain [makeLive x, forEach s.tileList fun t => serve t x (s.rb (descKey x 0) F.ROL_DESC_A_0_CB_SWITCH)] s

/-- The announcement of a switch in frame `f` at another module than the manager: its new roll, ARMED with every other module's, is
armed for that frame, or switched at once where no job runs (R351). -/
def announcedSwitch (f : Nat) : Tx := fun s =>
  match [3, 2].findSome? fun st => [0, 1].find? fun x => s.descState x == st with
  | none => setRegN R.ROL_SWITCH_FRAME f s
  | some x =>
    if s.running then chain [setDesc x 3, setRegN R.ROL_SWITCH_FRAME f, modChip fun c => { c with armedRoll := some x }] s
    else switchNow x s

/-! ### Adapters -/

/-- Every adapter entry becomes empty (R438). -/
def emptyAdapters : Tx := fun s => chain [
  forEach s.tileList (fun t => forEach (List.range 32) fun e => chain [setRegN (R.MXA_ADP_TBL_0 t e) 0, setRegN (R.MXA_ADP_TBL_1 t e) 0]),
  forEach (List.range 32) (fun e => setWords (R.ROL_ADP_ROOT e 0) [])] s

/-- Put the adapter key 0 into slot `n` of every tile (R376). -/
def clearAdpSlot (n : Nat) : Tx := fun s => forEach s.tileList (fun t => setRegN (R.MXA_ADP_SLOT t n) 0) s

end Sys2Proof.Machine
end

