-- ==== Sys2Proof/Machine/Power.lean ====
section
/-! DEFINITION. Power states, votes and drops (R428–R439), the power limit and the thermal throttle (R440, R441), sensors (R464) and
the calibration pages (R442–R444). -/

namespace Sys2Proof.Machine

/-! ### Domains (R428–R430) -/

/-- The states a domain can take, lowest first (Table: Power domains). -/
def domStates : Nat → List Nat
  | 0 => [3]
  | 1 => [2, 3]
  | 3 => [0, 1, 3]
  | 7 => [0, 2, 3]
  | 8 => [0, 2, 3]
  | 9 => [0, 3]
  | _ => [0, 1, 2, 3]

/-- The state to which a domain drops (R431): RETAIN, or OFF where DROP_OFF says so, or the lowest its table allows above. -/
def State.dropTarget (s : State) (d : Nat) : Nat :=
  let want := if (s.rf R.PWR_CTL F.PWR_CTL_DROP_OFF).testBit d then 0 else 1
  ((domStates d).find? fun v => decide (want ≤ v)).getD 3

/-! ### Ways through the module -/

/-- Base of a sprocket bank. -/
def State.spkBase (s : State) (b : Nat) : Nat :=
  4096 * (if b = 0 then s.rf R.SPK_BASE_A F.SPK_BASE_A_PAGE else s.rf R.SPK_BASE_B F.SPK_BASE_B_PAGE)

/-- The active sprocket bank. -/
def State.spkActive (s : State) : Nat := s.rf R.SPK_STAT F.SPK_STAT_ACTIVE

/-- A twin-0 port and its twin, or a circuit port (R316). -/
def withTwin (p : Nat) : List Nat := if p < 8 then [p, p + 1] else [p]

/-- The ports that the reel uses: those with a slot of scheduled traffic in the active sprocket bank, and the first of the path to every
other module of the domain with its twin (Table: Vote slots, R40, R316). -/
def State.reelPorts (s : State) : List Nat :=
  let first := ((List.range s.chip.part.modules).filterMap fun m => ((s.pathTo s.position m).head?).map (·.upPort)).flatMap withTwin
  (List.range 14).filter fun p => first.contains p ||
    (s.bytes (sprocketKey (s.spkBase s.spkActive + 16 * (4096 + p))) 16).any (· != 0)

/-- The ports on which a path between two other modules passes through this one. -/
def State.throughPorts (s : State) : List Nat :=
  let mods := (List.range s.chip.part.modules).filter (· != s.position)
  mods.flatMap fun a => mods.flatMap fun b => (s.pathTo a b).flatMap fun l =>
    (if l.up = s.position then withTwin l.upPort else []) ++ if l.low = s.position then withTwin l.lowPort else []

/-- Does the module forward for the job's domain on a port of power domain `d` (Table: Vote slots)? -/
def State.forwards (s : State) (d : Nat) : Bool := (domPorts d).any s.throughPorts.contains

/-! ### Ports as a domain's return trains them (R302, R438) -/

/-- State of port `p`: 0 DOWN, 1 training, 2 neighbour check, 3 UP, 4 UP_HALF, 5 REFUSED, 6 PCIe link up. -/
def State.portState (s : State) (p : Nat) : Nat := s.rf (R.FAB_PORT_STAT p) F.FAB_PORT_STAT_STATE

/-- Set a port's state. -/
def setPort (p st : Nat) : Tx := fun s => chain [
  when (decide (st = 3 ∨ st = 4) && !decide (s.portState p = 3 ∨ s.portState p = 4)) (noteSig 0x0D p),
  setF (R.FAB_PORT_STAT p) F.FAB_PORT_STAT_STATE st] s

/-- An enabled port starts to train, which is work of its domain; a MODE written since takes effect (R327, R435). -/
def trainPort (p : Nat) : Tx := whenS (fun s => s.rb (R.FAB_PORT_CTL p) F.FAB_PORT_CTL_EN) <| chain [
  workOn [portDom p], setPort p 1,
  look fun s => modPort p fun x => { x with mode := s.rf (R.FAB_PORT_CTL p) F.FAB_PORT_CTL_MODE }]

/-- The refuser of a drop of domain `d`, lowest code first (Table: Refusers, R430). -/
def State.refuser (s : State) (d : Nat) : Option Nat :=
  if s.running && !s.chip.parked && [0, 2, 3].contains d then some 1
  else if [2, 3, 4, 5, 6].contains d && (s.rf R.FAB_TRK_STAT F.FAB_TRK_STAT_OUT_USED + s.rf R.FAB_TRK_STAT F.FAB_TRK_STAT_IN_USED) != 0 then some 2
  else if d == 7 && (match s.chip.load with | some l => !l.ownDone && (!l.vault.isEmpty || l.ask.store) | none => false) then some 3
  else if [2, 3, 7].contains d && !s.chip.refetch.isEmpty then some 4
  else if [4, 5].contains d && s.running && !s.chip.parked && s.rb R.MOD_BYPASS F.MOD_BYPASS_OPEN && s.forwards d then some 5
  else if (domPorts d).any (fun p => [1, 2].contains (s.rf (R.FAB_PORT_STAT p) F.FAB_PORT_STAT_STATE)) then some 7
  else if d == 3 && decide (s.dropTarget 3 < s.domState 2) then some 8
  else none

/-- Record a refused or aborted entry (R433, R437). -/
def noteRefuse (d who : Nat) (abort : Bool) : Tx := fun s => chain [
  incF R.PWR_REFUSE_CNT F.PWR_REFUSE_CNT_COUNT 1,
  setF R.PWR_REFUSE_LAST F.PWR_REFUSE_LAST_DOMAIN d, setF R.PWR_REFUSE_LAST F.PWR_REFUSE_LAST_WHO who,
  setB R.PWR_REFUSE_LAST F.PWR_REFUSE_LAST_ABORT abort,
  setF R.PWR_REFUSE_LAST F.PWR_REFUSE_LAST_NS (s.chip.ns % 2 ^ 48)] s

/-! ### Content lost in OFF (R428, R438) -/

/-- The loaded reel is void, both descriptors and every adapter entry are EMPTY (R438). The regions are released; the mirror and
its index remain. -/
def voidWeights : Tx := fun s => chain [
  voidLoads,
  modChip (fun c => { c with reel := none, rollA := {}, rollB := {}, armedRoll := none, refetch := [] }),
  forEach [0, 1] (fun x => chain [setRegN (descKey x 0) 0, setRoot x [], setMask x 0, setRegN (descKey x 9) 0]),
  setRegN R.ROL_SWITCH_FRAME 0, emptyAdapters,
  fun _ => [.mem (classKey 0) (List.replicate 0x4000 0)],
  forEach s.tileList (fun t => modTile t fun ts => { ts with serving := none, servNext := none, cbUnits := 0 })] s

/-- AUD_BITKEY from its sources (R391, R392). -/
def noteBitKey : Tx := fun s =>
  let k := R.AUD_KEY_SRC
  setRegN R.AUD_BITKEY (bitKeyOf (keyBlock (s.rf k F.AUD_KEY_SRC_STEPPING) s.grade s.chip.translated
    (s.rf k F.AUD_KEY_SRC_COMPAT) (s.rf k F.AUD_KEY_SRC_ARITH))) s

/-- SFU_CTL.COMPAT of a tile is in force: AUD_KEY_SRC and the key follow (R238, R392). -/
def noteCompat (t : Nat) : Tx := chain [
  look fun s => setF R.AUD_KEY_SRC F.AUD_KEY_SRC_COMPAT (s.rf (R.SFU_CTL t) F.SFU_CTL_COMPAT), noteBitKey]

/-- Is the register one of port `p`? -/
def portKey (p k : Nat) : Bool :=
  [R.FAB_PORT_CTL p, R.FAB_PORT_STAT p, R.FAB_LINK_DEPTH p, R.FAB_LINK_MEAS p, R.FAB_PORT_DROP p, R.FAB_RETX_CNT p].contains k ||
    (List.range 64).any fun i => k == R.FAB_PKEY_TBL p i

/-- Is the register one of the audit engine? -/
def auditKey (k : Nat) : Bool := decide (0x40000 ≤ k ∧ k < 0x50000)

/-- What a domain loses when it goes OFF: the tiers, or the tiles with their registers, scratchpads, instruction memories, tables
and the sprocket store; a port its registers and what it held; the audit engine its registers and a recording; the debug multiplexers.
The vault controller holds nothing: the NAND keeps what it holds without power (R486). -/
def loseDomain (d : Nat) : Tx :=
  if d = 3 then chain [fun _ => [.dropMem fun k => keySpace k == 1], voidWeights]
  else if d = 2 then chain [
    voidWeights,
    fun _ => [.dropMem (fun k => [0, 2, 4, 5].contains (keySpace k) || (keySpace k == 6 && k / 0x200000000000 == 0)),
      .dropRegs (fun k => decide (0x100000 ≤ k)), .dropFull, .dropTiles],
    modChip fun c => { c with flits := [], xfers := [] }, noteCompat 0]
  else if d = 8 then chain [
    fun _ => [.dropRegs auditKey],
    modChip fun c => { c with record := {}, backlog := [], freezeSeen := [] }, gradeRegistersOf auditKey, noteCompat 0]
  else if d = 9 then fun _ =>
    [.dropRegs fun k => (List.range 16).any (fun n => k == R.DBG_MUX n) || (List.range 4).any fun n => k == R.DBG_TRIG n]
  else forEach (domPorts d) fun p => chain [modPort p (fun _ => {}), fun _ => [.dropRegs (portKey p)]]

/-! ### Drops (R431, R433, R436) -/

/-- The drop of a domain without votes: refused, or entered. -/
def dropDomain (d : Nat) : Tx := fun s =>
  match s.refuser d with
  | some w => chain [
      when (!s.chip.refused.contains d) (noteRefuse d w false),
      modChip fun c => { c with refused := d :: c.refused.filter (· != d), dropDue := c.dropDue.filter (· != d) }] s
  | none =>
    let v := s.dropTarget d
    chain [
      modChip (fun c => { c with refused := c.refused.filter (· != d), dropDue := c.dropDue.filter (· != d) }),
      setDom d v, when (v == 0) (loseDomain d)] s

/-- POWER_DROP: a domain whose last vote was withdrawn. -/
def powerDropTx (d : Nat) : Tx := whenS (fun s => s.chip.dropDue.contains d && s.votes d == 0) (dropDomain d)

/-- DROP_RECHECK: a refused drop is tried again. -/
def dropRecheckTx (d : Nat) : Tx := whenS (fun s => s.chip.refused.contains d && s.votes d == 0) (dropDomain d)

/-- Every tile's SFU service level is taken anew (R228). -/
def sfuLevels : Tx := fun s => forEach s.tileList sfuLevel s

/-- A domain is ACTIVE, and CORE brings TIERS with it (R430). What returns from OFF runs its power-up's initialisation: the start-up
self-test of the SFUs, the training of a domain's ports (R228, R438); CORE that returns from RETAIN or OFF measures its crossing queues
(Table: RETAIN exit, R414). -/
def bringUp (d : Nat) : Tx := fun s => chain [
  setDom d 3,
  when (d == 2) (setDom 3 3),
  when (d == 2 && s.domState 2 == 0) sfuLevels,
  when (d == 2 && decide (s.domState 2 < 2)) measureQueues,
  when (s.domState d == 0) (forEach (domPorts d) trainPort)] s

/-- Place a vote: the domain is ACTIVE (R431). -/
def placeVote (d n : Nat) : Tx := fun s => chain [
  setF (R.PWR_VOTE d) F.PWR_VOTE_SLOTS (setBit (s.held d) n true),
  bringUp d,
  modChip fun c => { c with dropDue := c.dropDue.filter (· != d), refused := c.refused.filter (· != d) }] s

/-- Withdraw a vote; the last one makes the domain drop. -/
def withdrawVote (d n : Nat) : Tx := fun s =>
  let v := setBit (s.held d) n false
  chain [
    setF (R.PWR_VOTE d) F.PWR_VOTE_SLOTS v,
    when (v == 0 && s.held d != 0) (modChip fun c => { c with dropDue := d :: c.dropDue.filter (· != d) })] s

/-- The domains that the job votes for (Table: Vote slots): CORE, TIERS and those of every port that the reel uses. -/
def State.jobDomains (s : State) : List Nat := [2, 3] ++ [4, 5, 6].filter fun d => (domPorts d).any s.reelPorts.contains

/-- Job votes are placed; where the module forwards for the job the manager's client holds slot 4 of BASKET and GLOBAL as well (Table: Vote
slots). -/
def jobVotes : Tx := fun s => chain [
  forEach s.jobDomains fun d => placeVote d 6,
  forEach ([4, 5].filter s.forwards) fun d => placeVote d 4] s

/-- Job votes are withdrawn, and those of the forwarding. -/
def jobUnvotes : Tx := fun s => chain [
  forEach ([2, 3, 4, 5, 6].filter fun d => (s.votes d).testBit 6) fun d => withdrawVote d 6,
  look fun s => forEach ([4, 5].filter fun d => (s.votes d).testBit 4) fun d => withdrawVote d 4] s

/-- POWER_DROP. -/
def execPowerDrop (d : Nat) (s : State) : Out :=
  if d < 10 then commit (whenS State.powered (powerDropTx d)) s else .refused .illFormed
/-- DROP_RECHECK. -/
def execDropRecheck (d : Nat) (s : State) : Out :=
  if d < 10 then commit (whenS State.powered (dropRecheckTx d)) s else .refused .illFormed

/-- Has a domain work (R435): CORE a job, a load or a refetch; HOST replies or records to write; a port what it holds or its training; the
vault loads and refetches; the audit engine a save, a restore, a replay, entries to write or a clap? -/
def State.domBusy (s : State) (d : Nat) : Bool :=
  let c := s.chip
  match d with
  | 1 => !c.fetched.isEmpty || s.queues.any fun q => !q.2.replies.isEmpty || !q.2.records.isEmpty
  | 2 => s.running || c.load.isSome || !c.refetch.isEmpty
  | 7 => c.load.isSome || !c.refetch.isEmpty
  | 8 => s.rb R.AUD_STAT F.AUD_STAT_SAVING || s.rb R.AUD_STAT F.AUD_STAT_RESTORING ||
      s.rb R.AUD_REPLAY_CTL F.AUD_REPLAY_CTL_REPLAYING || !c.backlog.isEmpty || c.clap.isSome
  | _ => (domPorts d).any fun p =>
      let x := s.port p
      [1, 2].contains (s.portState p) || !(x.rx.isEmpty && x.tx.isEmpty && x.asm.isEmpty && x.queue.isEmpty && x.late.isEmpty)

/-- IDLE_ENTRY (R435): a voted domain without work. -/
def idleEntryTx (d : Nat) : Tx := fun s =>
  if s.votes d != 0 && s.domState d == 3 && (domStates d).contains 2 && !s.domBusy d then setDom d 2 s else []

/-- IDLE_ENTRY. -/
def execIdleEntry (d : Nat) (s : State) : Out :=
  if d < 10 then commit (whenS State.powered (idleEntryTx d)) s else .refused .illFormed


/-! ### Wakes (R437, R439) -/

/-- The domains on their way into RETAIN. -/
def State.entering (s : State) : List Nat :=
  (List.range 10).filter fun d => s.chip.dropDue.contains d && s.votes d == 0 && (domStates d).contains 1

/-- The domains that have dropped and that no fault holds down. -/
def State.dropped (s : State) : List Nat :=
  (List.range 10).filter fun d => decide (s.domState d < 2) && !s.chip.heldDown.contains d

/-- A wake of source 0 cue, 1 link, 2 host, 3 I3C is recorded. Entries still under way are aborted; dropped domains return, with firmware
slot 1 on each for WAKE_HOLD ms. A cue counts while CUE_EN is 1, link activity on a port in RETAIN (Table: Wake sources). -/
def wakeTx (src port : Nat) : Tx := fun s =>
  if (src = 0 && !s.rb R.PWR_CTL F.PWR_CTL_CUE_EN) || (src = 1 && s.domState (portDom port) != 1) then []
  else chain [
    setF R.PWR_WAKE_SRC ⟨src, src⟩ 1,
    when (decide (src ≤ 1)) (setF R.PWR_WAKE_SRC F.PWR_WAKE_SRC_PORT port),
    forEach s.entering (fun d => noteRefuse d 6 true),
    when (!(s.entering.isEmpty && s.dropped.isEmpty)) (chain [
      forEach (s.entering ++ s.dropped) (fun d => placeVote d 1),
      modChip fun c => { c with wakeUntil := c.ns + s.rf R.PWR_CTL F.PWR_CTL_WAKE_HOLD * 1000000 }])] s

/-- An access of the endpoint or of the management bus wakes what has dropped (Table: Wake sources); with nothing dropped, and no entry
under way, it is no wake (DESIGN CHOICE, log entry 68). -/
def accessWake (src : Nat) : Tx := whenS (fun s => !(s.entering.isEmpty && s.dropped.isEmpty)) (wakeTx src 0)

/-- WAKE. -/
def execWake (src port : Nat) (s : State) : Out :=
  if src < 4 ∧ port < 14 then commit (whenS State.powered (wakeTx src port)) s else .refused .illFormed

/-- WAKE_HOLD_EXPIRY. -/
def wakeHoldExpiryTx : Tx := fun s =>
  if s.chip.wakeUntil = 0 then [] else chain [
    elapseToNs s.chip.wakeUntil,
    modChip (fun c => { c with wakeUntil := 0 }),
    look fun s' => forEach ((List.range 10).filter fun d => (s'.held d).testBit 1) (fun d => withdrawVote d 1)] s

/-- WAKE_HOLD_EXPIRY. -/
def execWakeHoldExpiry (s : State) : Out := commit (whenS State.powered wakeHoldExpiryTx) s

/-! ### PWR_VOTE and PWR_UNVOTE (R432–R434) -/

/-- Domain and slot of a vote command. -/
def voteArgs (c : Cmd) : Nat × Nat := (c.w2.toNat % 256, c.w2.toNat / 256 % 32)

/-- Slots and domains that no host command may name. -/
def voteRange (d n : Nat) : Bool := decide (d ≤ 9) && !([0, 1, 2, 3, 4, 5, 7, 8].contains n)

/-- Why a vote that would bring domain `d` up is refused (R432). -/
def State.voteRefused (s : State) (d : Nat) : Option Nat :=
  if s.rb R.PWR_STAT F.PWR_STAT_RECOVERY then some 1
  else if s.chip.throttleNs != 0 then some 2
  else if s.chip.heldDown.contains d then some 3
  else none

/-- The parked job's modules come back and a resume clap follows (R434). -/
def unpark : Tx := chain [jobVotes, modChip fun c => { c with parked := false }, callResume]

/-- PWR_VOTE. -/
def pwrVoteTx (c : Cmd) : Tx := fun s =>
  let (d, n) := voteArgs c
  if !voteRange d n then postReply c 0x0103 0 0 s
  else if decide (s.domState d < 2) && (s.voteRefused d).isSome then
    chain [setF R.PWR_STAT F.PWR_STAT_VOTE_REFUSED 1, postReply c 0x0501 ((s.voteRefused d).getD 0) 0] s
  else if n = 6 then
    if !s.isManager then postReply c 0x0103 0 0 s
    else chain [placeVote d 6, when s.chip.parked unpark, postReply c 0 0 0] s
  else chain [placeVote d n, postReply c 0 0 0] s

/-- Announce a capture frame (R404, R434); a message tells that it is a park's (log entry 70). -/
def announceCapture (park : Bool) (c : Cmd) : Tx := fun s =>
  let f := s.announceFrame (s.frame + 1)
  chain [
    twUse R.FRM_LEN, modChip fun ch => { ch with capture := some ⟨f, park, some c⟩ }, when park (tellModules 15 0), announce 3 f] s

/-- PWR_UNVOTE. -/
def pwrUnvoteTx (c : Cmd) : Tx := fun s =>
  let (d, n) := voteArgs c
  if !voteRange d n || !(s.votes d).testBit n then postReply c 0x0103 0 0 s
  else if n = 6 then
    if !s.isManager || s.chip.slots.any (fun x => !x.ended && !x.drained) then postReply c 0x0103 0 0 s
    else if !s.running then chain [withdrawVote d n, postReply c 0 0 0] s
    else announceCapture true c s
  else chain [withdrawVote d n, postReply c 0 0 0] s

/-- PWR_VOTE. -/
def execPwrVote (c : Cmd) (s : State) : Out := commit (onStart c (pwrVoteTx c)) s
/-- PWR_UNVOTE. One that parks waits while a capture is open (DESIGN CHOICE, log entry 61). -/
def execPwrUnvote (c : Cmd) (s : State) : Out :=
  commit (whenS (fun s => s.chip.capture.isNone || (voteArgs c).2 != 6) (onStart c (pwrUnvoteTx c))) s

/-! ### Sensors (R464) -/

/-- A reading of a sensor at time `ns`: it is taken when it lies in the range and, within 1 ms of the last one, within `step` of it;
three rejected in a row mark the sensor failed. Answers the sensor and whether the reading counts. -/
def sense (x : SensorS) (ns : Nat) (v lo hi step : Int) : SensorS × Bool :=
  if decide (v < lo) || decide (hi < v) ||
      (x.seen && decide (ns ≤ x.lastNs + 1000000) && decide (step < (v - x.last).natAbs)) then
    ({ x with rejects := x.rejects + 1, failed := x.failed || decide (3 ≤ x.rejects + 1) }, false)
  else ({ x with last := v, lastNs := ns, seen := true, rejects := 0 }, true)

/-- A sensor that is newly marked failed is reported (Table: MOD_ALERT). -/
def noteFailed (old new : SensorS) : Tx := when (new.failed && !old.failed) (raiseAlert F.MOD_ALERT_SENSOR)

/-! ### The power limit (R440) -/

/-- Sum of a list. -/
def listSum (xs : List Nat) : Nat := xs.foldl (· + ·) 0

/-- Enter power-limited recovery; the SFUs follow (R228). -/
def enterRecovery : Tx := fun s =>
  if s.rb R.PWR_STAT F.PWR_STAT_RECOVERY then []
  else chain [setF R.PWR_STAT F.PWR_STAT_RECOVERY 1, incF R.PWR_STAT F.PWR_STAT_RECOVERIES 1, sfuLevels] s

/-- Leave power-limited recovery; the SFUs follow (R228). -/
def leaveRecovery : Tx := whenS (fun s => s.rb R.PWR_STAT F.PWR_STAT_RECOVERY) <|
  chain [setF R.PWR_STAT F.PWR_STAT_RECOVERY 0, sfuLevels]

/-- The responses to the limits, once a sample has been taken. -/
def powerLimits (w : Nat) : Tx := fun s =>
  let sus := s.rf R.PWR_LIMIT F.PWR_LIMIT_SUSTAIN
  let xs := s.chip.samples
  let avg1 := decide (100 ≤ xs.length) && decide (sus * 100 < listSum (xs.take 100))
  let hit := decide (s.rf R.PWR_LIMIT F.PWR_LIMIT_PEAK < w) ||
    (decide (1000 ≤ xs.length) && (xs.take 1000).all fun x => decide (sus < x))
  let low := decide (10000 ≤ xs.length) && decide (listSum (xs.take 10000) * 100 < sus * 95 * 10000)
  chain [
    modChip fun c => { c with peakOn := hit },
    if hit then chain [
      enterRecovery, setF R.PWR_STAT F.PWR_STAT_LIMIT_HIT 1, raiseAlert F.MOD_ALERT_LIMIT,
      when (!s.chip.peakOn) (stepDown (s.curStep - 8) 0)]
    else if avg1 then chain [when (!s.rb R.PWR_STAT F.PWR_STAT_RECOVERY) (stepDown (s.curStep - 4) 0), enterRecovery]
    else when low leaveRecovery] s

/-- POWER_SAMPLE: input power in W and input voltage in 10 mV. -/
def powerSampleTx (watts volts : Nat) : Tx := fun s =>
  let ok := decide (watts ≤ 2500) && decide (4000 ≤ volts ∧ volts ≤ 6600)
  let p := s.chip.powerSensor
  let p' := (sense p s.chip.ns (if ok then watts else -1) 0 2500 2500).1
  let w := if p'.failed then s.rf R.PWR_LIMIT F.PWR_LIMIT_SUSTAIN + 1 else watts
  let bad := if volts < 4800 ∨ 6000 < volts then s.chip.vinBad + 1 else 0
  let take := ok || p'.failed
  chain [
    modChip fun c => { c with
      powerSensor := p'
      samples := if take then (w :: c.samples).take 10000 else c.samples
      vinBad := if ok then bad else c.vinBad },
    noteFailed p p',
    when ok (setF R.PWR_IN F.PWR_IN_VOLTS volts),
    when (ok && decide (100 ≤ bad)) (raiseAlert F.MOD_ALERT_VIN),
    when take (chain [
      look fun s' => setF R.PWR_IN F.PWR_IN_POWER (listSum (s'.chip.samples.take 100) / (s'.chip.samples.take 100).length),
      powerLimits w])] s

/-- POWER_SAMPLE. -/
def execPowerSample (watts volts10mv : Nat) (s : State) : Out := commit (whenS State.powered (powerSampleTx watts volts10mv)) s

/-! ### Thermal sensors (R441, R464) -/

/-- Sensor `i`. -/
def State.sensor (s : State) (i : Nat) : SensorS := (s.chip.sensors.find? (·.1 == i)).elim {} (·.2)

/-- The group of a sensor: regions, tiers, periphery. -/
def sensorGroup (i : Nat) : List Nat :=
  if i < 64 then List.range 64 else if i < 68 then [64, 65, 66, 67] else [68, 69, 70, 71]

/-- A sensor's reading in quarter degrees: a failed one reads as the hottest valid one of its group, or 100 °C. -/
def State.sensorValue (s : State) (i : Nat) : Option Int :=
  let x := s.sensor i
  if x.failed then
    some (((sensorGroup i).filterMap fun j => if (s.sensor j).seen && !(s.sensor j).failed then some (s.sensor j).last else none).foldl
      (fun (a : Option Int) v => some (match a with | some b => max b v | none => v)) none |>.getD 400)
  else if x.seen then some x.last else none

/-- A sensor's reading plus its alarm offset. -/
def State.sensorHeat (s : State) (i : Nat) : Option Int := (s.sensorValue i).map fun v => v + toSigned 8 (s.calByte (0x300 + i))

/-- The hottest sensor with its offset. -/
def State.hottest (s : State) : Option Int := ((List.range 72).filterMap s.sensorHeat).foldl
  (fun (a : Option Int) v => some (match a with | some b => max b v | none => v)) none

/-- The throttle: one step lower at 100 °C and every 10 ms until every sensor reads below 97 °C. -/
def throttle (hot : Int) : Tx := fun s =>
  let active := s.chip.throttleNs != 0
  if decide (400 ≤ hot) || (active && decide (388 ≤ hot)) then chain [
    when (decide (400 ≤ hot)) (chain [setF R.PWR_STAT F.PWR_STAT_THERMAL 1, raiseAlert F.MOD_ALERT_THERMAL]),
    when (!active || decide (s.chip.throttleNs + 10000000 ≤ s.chip.ns + 1)) (chain [
      stepDown (min s.curStep (if s.changeArmed then s.armedStep else s.curStep) - 1) 0,
      modChip fun c => { c with throttleNs := c.ns + 1 }])] s
  else modChip (fun c => { c with throttleNs := 0 }) s

/-- THERMAL_SAMPLE: a reading of a sensor, in quarter degrees. -/
def thermalSampleTx (i : Nat) (v : Int) : Tx := fun s =>
  let old := s.sensor i
  let new := (sense old s.chip.ns v (-160) 600 40).1
  chain [
    modChip fun c => { c with sensors := (i, new) :: c.sensors.filter (·.1 != i) },
    noteFailed old new,
    look fun s' => match s'.hottest with
      | none => skip
      | some h => chain [setF R.PWR_IN F.PWR_IN_TJ_MAX (fromSigned 16 (h * 10 / 4)), throttle h]] s

/-- THERMAL_SAMPLE. -/
def execThermalSample (sensor : Nat) (quarters : Int) (s : State) : Out :=
  if sensor < 72 then commit (whenS State.powered (thermalSampleTx sensor quarters)) s else .refused .illFormed

/-! ### Calibration pages (R442–R444, R447) -/

/-- Is a user page valid (R442)? -/
def calValid (p : List Byte) : Bool :=
  decide (p.length = 4096) && field p 0 4 == 0x4C414354 && field p 4 2 == 1 && field p 8 4 == crc32 (p.drop 0x10)

/-- A clamped value. -/
def clampI (lo hi v : Int) : Int := max lo (min hi v)

/-- The fields of the page: offset, bytes, lower and upper bound of the user value, and kind (0 FEC_SWAP_TH, 1 SerDes, 2 offset,
3 threshold). -/
def calFields : List (Nat × Nat × Int × Int × Nat) :=
  [(0x10, 1, 12, 30, 0)] ++ (List.range 280).map (fun i => (0x100 + i, 1, -8, 7, 1)) ++
    (List.range 72).map (fun i => (0x300 + i, 1, -16, 16, 2)) ++ (List.range 8).map (fun i => (0x400 + 2 * i, 2, -25, 25, 2)) ++
    (List.range 128).map (fun i => (0x500 + 2 * i, 2, 0, 1000, 3))

/-- The user value of a field before clamping: unsigned for FEC_SWAP_TH and thresholds. -/
def calUser (p : List Byte) (f : Nat × Nat × Int × Int × Nat) : Int :=
  let v := field p f.1 f.2.1
  if f.2.2.2.2 = 0 ∨ f.2.2.2.2 = 3 then v else toSigned (8 * f.2.1) v

/-- Values of a page that are clamped; 0 is no change (R443). -/
def calClamped (p : List Byte) : Nat :=
  (calFields.filter fun f => let v := calUser p f; v != 0 && (decide (v < f.2.2.1) || decide (f.2.2.2.1 < v))).length

/-- The effective value of a field, as its bytes' value (Table: Calibration page). -/
def calEff (fac usr : List Byte) (f : Nat × Nat × Int × Int × Nat) : Nat :=
  let u := calUser usr f
  let u := if u = 0 then 0 else clampI f.2.2.1 f.2.2.2.1 u
  let g := field fac f.1 f.2.1
  match f.2.2.2.2 with
  | 0 => if u = 0 then g else u.toNat
  | 1 => fromSigned 8 (clampI (-64) 63 (toSigned 8 g + u))
  | 2 => fromSigned (8 * f.2.1) (toSigned (8 * f.2.1) g + u)
  | _ => max g u.toNat

/-- The effective page. -/
def calEffective (fac usr : List Byte) : List Byte :=
  calFields.foldl (fun pg f => pg.take f.1 ++ leBytes f.2.1 (calEff fac usr f) ++ pg.drop (f.1 + f.2.1)) (List.replicate 4096 0)

/-- Write a 4 KiB page into its 512 registers. -/
def setPage (k : Nat) (p : List Byte) : Tx := forEach (List.range 512) fun w => setRegN (k + 8 * w) (field p (8 * w) 8)

/-- The factory page. -/
def State.calFactory (s : State) : List Byte := (List.range 512).flatMap fun w => leBytes 8 (s.reg (R.CAL_FACTORY w)).toNat

/-- Apply a user page: effective values, clamp count, and VEFF of every step with the new trim (R443, R444). -/
def applyCal (p : List Byte) : Tx := fun s => chain [
  setPage (R.CAL_USER 0) p, setPage (R.CAL_EFFECTIVE 0) (calEffective s.calFactory p),
  setF R.CAL_STAT F.CAL_STAT_CLAMPED (calClamped p),
  forEach (List.range 73) noteVeff] s

/-- Write the older vault copy with the next write count (R442, R444). -/
def writeCal (p : List Byte) : Tx := modChip fun c =>
  let newest := c.calCopies.foldl (fun (a : Option (Nat × List Byte)) x =>
    match a with | some y => some (if y.1 < x.1 then x else y) | none => some x) none
  { c with calCopies := match newest with | some x => [x, (x.1 + 1, p)] | none => [(1, p)] }

/-- CAL_WRITE. -/
def calWriteTx (c : Cmd) : Tx :=
  let p := c.payload
  let now := c.w2.toNat.testBit 0
  chain [
    writeCal p,
    if now then chain [when (calValid p) (applyCal p), setF R.CAL_STAT F.CAL_STAT_USER_PENDING 0]
    else setF R.CAL_STAT F.CAL_STAT_USER_PENDING 1,
    postReply c 0 (calClamped p) 0]

/-- CAL_WRITE. -/
def execCalWrite (c : Cmd) (s : State) : Out := commit (onStart c (calWriteTx c)) s

/-- Has a user page a valid CRC? -/
def calCrc (p : List Byte) : Bool := decide (p.length = 4096) && field p 8 4 == crc32 (p.drop 0x10)

/-- The page that counts at boot (R442): the newer copy with a valid CRC, where its MAGIC and VERSION are right. -/
def State.bootPage (s : State) : Option (List Byte) :=
  (((s.chip.calCopies.filter fun x => calCrc x.2).foldl (fun (a : Option (Nat × List Byte)) x =>
    match a with | some y => some (if y.1 < x.1 then x else y) | none => some x) none).map (·.2)).filter calValid

/-- The calibration at boot (R442): a page that fails a check is ignored entirely, and so is a partition without a valid one. -/
def bootCal : Tx := fun s => chain [
  setF R.CAL_STAT F.CAL_STAT_USER_PENDING 0,
  when s.bootPage.isNone (setF R.CAL_STAT F.CAL_STAT_USER_BAD 1),
  applyCal (s.bootPage.getD (List.replicate 4096 0))] s

end Sys2Proof.Machine
end

