-- ==== Sys2Proof/Machine/Ports.lean ====
section
/-! DEFINITION. Fabric ports and the bypass switches (R302–R304, R318–R321, R482, R483): training, the neighbour check, lane swaps,
losing a link, opening and closing. -/

namespace Sys2Proof.Machine

/-- Is the port up? -/
def State.portUp (s : State) (p : Nat) : Bool := s.portState p == 3 || s.portState p == 4

/-- Does the port run as a PCIe root port (R327)? -/
def State.pcie (s : State) (p : Nat) : Bool := decide (12 ≤ p) && (s.port p).mode == 1

/-- Are the module's bypass switches open? -/
def State.switchesOpen (s : State) : Bool := s.rb R.MOD_BYPASS F.MOD_BYPASS_OPEN

/-- Every switch closes (R319, R482): P0–P7 face the loopback, and a joining sequence is over. -/
def closeSwitches : Tx := chain [
  setF R.MOD_BYPASS F.MOD_BYPASS_OPEN 0, setF R.MOD_BYPASS F.MOD_BYPASS_LANE4_OPEN 0, setF R.MOD_BYPASS F.MOD_BYPASS_GRANT_WAIT 0,
  setF R.FAB_BYPASS_STAT F.FAB_BYPASS_STAT_OPEN 0,
  modChip (fun c => { c with grantWait := false, loopback := [], lane4 := [], openWait := false }),
  forEach (List.range 8) fun p => whenS (fun s => s.portState p != 5) (setPort p 0)]

/-- The enabled ports that the bypass switches serve. -/
def State.bypassPorts (s : State) : List Nat := (List.range 8).filter fun p => s.rb (R.FAB_PORT_CTL p) F.FAB_PORT_CTL_EN

/-- MOD_STAT.STEP. -/
def State.upStep (s : State) : Nat := s.rf R.MOD_STAT F.MOD_STAT_STEP

/-- The power-up sequence stops with the bypass closed (Table: Power-up). -/
def failUp : Tx := chain [closeSwitches, setF R.MOD_STAT F.MOD_STAT_STEP_FAIL 1, modChip fun c => { c with upSeq := none }]

/-- The switches close since a port is refused or did not train; in the power-up sequence the step has failed. -/
def giveUp : Tx := fun s => if s.chip.upSeq.isSome then failUp s else closeSwitches s

/-- Steps 9 and 10 (Table: Power-up): the switches are open and no data lane trains any more; `fail` is the step that fails. -/
def up9 (fail : Nat) : Tx := whenS (fun s => s.switchesOpen && s.bypassPorts.all fun p => s.portState p != 1) <|
  if fail = 9 then failUp
  else if fail = 10 then chain [setF R.MOD_STAT F.MOD_STAT_STEP 9, failUp]
  else chain [setF R.MOD_STAT F.MOD_STAT_STEP 10, setF R.MOD_STAT F.MOD_STAT_READY 1, modChip fun c => { c with upSeq := none }]

/-- Every switch opens and the data lanes retrain (R321 step 6). -/
def openSwitches : Tx := chain [
  setF R.MOD_BYPASS F.MOD_BYPASS_OPEN 1, setF R.MOD_BYPASS F.MOD_BYPASS_LANE4_OPEN 0, setF R.MOD_BYPASS F.MOD_BYPASS_GRANT_WAIT 0,
  setF R.FAB_BYPASS_STAT F.FAB_BYPASS_STAT_OPEN 1,
  modChip (fun c => { c with grantWait := false, loopback := [], lane4 := [], openWait := false }),
  forEach (List.range 8) trainPort,
  look fun s => match s.chip.upSeq with | some f => when (s.upStep == 8) (up9 f) | none => skip]

/-- The opening is requested of the manager; the manager grants its own request while it runs no job (R321 steps 4 and 5, log entry
51). -/
def requestOpening : Tx := chain [
  setF R.MOD_BYPASS F.MOD_BYPASS_GRANT_WAIT 1, modChip fun c => { c with grantWait := true, openWait := false },
  whenS (fun s => !s.isManager) (look fun s => sendMgmt 8 s.position),
  whenS (fun s => s.isManager && !s.running) openSwitches]

/-- Only the lane-4 switches open, and lane 4 trains against each neighbour (R321 steps 2 and 3). -/
def openLane4 : Tx := fun s => chain [
  setF R.MOD_BYPASS F.MOD_BYPASS_LANE4_OPEN 1,
  modChip fun c => { c with lane4 := [] },
  forEach s.bypassPorts trainPort] s

/-- Are the switches in the joining sequence's lane-4 state? -/
def State.lane4Open (s : State) : Bool := s.rb R.MOD_BYPASS F.MOD_BYPASS_LANE4_OPEN

/-- Has no port a good lane 4 to a neighbour (R321)? -/
def State.noLane4 (s : State) : Bool := s.bypassPorts.all fun p => s.chip.lane4.contains (p, false)

/-- Is the result of every port's lane 4 there? -/
def State.lane4In (s : State) : Bool := s.lane4Open && s.bypassPorts.all fun p => s.chip.lane4.any (·.1 == p)

/-- The joining sequence for an opening that has been asked for goes on as far as it can (R321): the ports train in loopback, then lane 4
against each neighbour; then the opening is requested over a good lane 4. Within the power-up sequence its steps come first. -/
def joinOn : Tx := whenS (fun s => s.chip.openWait && !s.switchesOpen && !(s.chip.upSeq.isSome && decide (s.upStep < 8))) fun s =>
  if s.lane4In then when (!s.noLane4) requestOpening s
  else if s.lane4Open then []
  else if s.bypassPorts.all s.chip.loopback.contains then openLane4 s
  else forEach (s.bypassPorts.filter fun p => !s.chip.loopback.contains p && s.portState p != 1) trainPort s

/-- Step 8 (Table: Power-up): the result of every port's lane 4 is there. AUTO asks for the opening. -/
def up8 (fail : Nat) : Tx := whenS State.lane4In <|
  if fail = 8 then failUp
  else chain [
    setF R.MOD_STAT F.MOD_STAT_STEP 8,
    whenS (fun s => s.rb R.MOD_BYPASS F.MOD_BYPASS_AUTO) (modChip fun c => { c with openWait := true })]

/-- Step 7 (Table: Power-up): no enabled port trains any more; the lane-4 switches open. -/
def up7 (fail : Nat) : Tx :=
  whenS (fun s => (List.range 14).all fun p => !s.rb (R.FAB_PORT_CTL p) F.FAB_PORT_CTL_EN || s.portState p != 1) <|
    if fail = 7 then failUp else chain [setF R.MOD_STAT F.MOD_STAT_STEP 7, openLane4, up8 fail]

/-- The power-up sequence goes on where what its step waits for is there, and a joining sequence with it (R483). -/
def advanceUp : Tx := chain [
  look fun s => match s.chip.upSeq with
    | none => skip
    | some f => if s.upStep = 6 then up7 f else if s.upStep = 7 then up8 f else if s.upStep = 8 then up9 f else skip,
  joinOn]

/-- OPEN_REQ (R321): the joining sequence begins once the ports have trained in loopback; a request that waits is made again; where no
port has a good lane 4 every switch opens. Without VAON, in reset and after a fault the switches stay closed (R482). -/
def openReqTx : Tx := whenS (fun s => s.mayOpen && !s.switchesOpen) fun s =>
  if s.noLane4 then openSwitches s
  else if s.chip.grantWait then requestOpening s
  else chain [modChip fun c => { c with openWait := true }, joinOn] s

/-- A port has trained in loopback, or has failed to (R321 step 1). -/
def loopbackDone (p : Nat) : Tx := chain [
  setPort p 0, modChip fun c => { c with loopback := p :: c.loopback.filter (· != p) }, advanceUp]

/-- Lane 4 of a port has passed the neighbour check, or is not good; with the last port's result the opening is requested over a
good one (R321 steps 3 and 4). -/
def lane4Done (p : Nat) (ok : Bool) : Tx := chain [
  setPort p (if ok then 2 else 0),
  modChip fun c => { c with lane4 := (p, ok) :: c.lane4.filter (·.1 != p) }, advanceUp]

/-- BYPASS_CLOSE: ignored while a job runs. -/
def bypassCloseTx : Tx := whenS (fun s => !s.running) closeSwitches

/-- BYPASS_OPEN_GRANT: the manager's answer to a request that waits. -/
def bypassOpenGrantTx (granted : Bool) : Tx := whenS (fun s => s.mayOpen && s.chip.grantWait && granted) openSwitches

/-- BYPASS_OPEN_GRANT. -/
def execBypassOpenGrant (granted : Bool) (s : State) : Out := commit (bypassOpenGrantTx granted) s

/-- BYPASS_GRANT_RETRY: a request without an answer is made again a second later. -/
def bypassGrantRetryTx : Tx := whenS (fun s => s.mayOpen && s.chip.grantWait) <| chain [
  look fun s => elapseToNs (s.chip.ns + 1000000000), requestOpening]

/-- BYPASS_GRANT_RETRY. -/
def execBypassGrantRetry (s : State) : Out := commit bypassGrantRetryTx s

/-- A port is refused; the switches never stay open with a refused port (R321). -/
def refusePort (p : Nat) : Tx := chain [setPort p 5, whenS (fun s => decide (p < 8) && (s.switchesOpen || s.lane4Open)) giveUp]

/-- FAB_BYPASS_STAT.BYP of port `p`. -/
def noteByp (p n : Nat) : Tx := when (decide (p < 8)) fun s =>
  let v := s.rf R.FAB_BYPASS_STAT F.FAB_BYPASS_STAT_BYP
  setF R.FAB_BYPASS_STAT F.FAB_BYPASS_STAT_BYP (v - v / 4 ^ p % 4 * 4 ^ p + n % 4 * 4 ^ p) s

/-- The entry for port `p` with `b` bypassed modules: position, port, depth. A circuit port's is the far module of the job's circuit
plan, at the depths of both ends to the switch and the switch transit (R318). -/
def State.nbEntry (s : State) (p b : Nat) : Option (Nat × Nat × Nat) :=
  let own := (s.chip.part.nb.getD p [])[b]?
  match s.chip.part.circuits.find? (·.1 == p), own with
  | some (_, pos, port, depth, transit), some e => if b = 0 then some (pos, port, e.2.2 + depth + transit) else none
  | _, _ => own

/-- Does what the far end sent match the manifest (R318)? -/
def State.nbMatch (s : State) (p : Nat) (i : TrainInfo) : Bool :=
  i.digest == ((List.range 4).map fun w => s.reg (R.FAB_MANIFEST_DIGEST w)) &&
    (match s.nbEntry p i.byp with
      | some e => decide (i.byp ≤ 2) && e.1 == i.nbPos && e.2.1 == i.nbPort
      | none => false)

/-- Whole cycles of a latency in sixteenths, rounded up (R304). -/
def latCycles (lat16 : Nat) : Nat := (lat16 + 15) / 16

/-- The lane that stays spare: lane 4 of a link through bypassed modules, which carries no data there (R321), the lane that LANE_EXCL names,
or the device's choice. -/
def State.spareLane (s : State) (p : Nat) (i : TrainInfo) : Nat :=
  let x := s.rf (R.FAB_PORT_CTL p) F.FAB_PORT_CTL_LANE_EXCL
  if i.byp ≠ 0 then 4 else if x ≤ 4 then x else i.spareLane

/-- A training measures the latency of the link (R304). -/
def noteMeas (p : Nat) (i : TrainInfo) : Tx := chain [
  setF (R.FAB_LINK_MEAS p) F.FAB_LINK_MEAS_MEAS (latCycles i.lat16), modPort p fun x => { x with lat16 := i.lat16 }]

/-- The neighbour check of a training, over the data lanes or lane 4: what the far end sent must match the manifest, and the latency the
depth declared for it, which the port loads (R304, R318); `ok` follows. -/
def checkNeighbour (p : Nat) (i : TrainInfo) (ok : Tx) : Tx := fun s =>
  let k := R.FAB_PORT_STAT p
  let d := ((s.nbEntry p i.byp).map (·.2.2)).getD 0
  chain [
    noteMeas p i,
    setF k F.FAB_PORT_STAT_NB_POS i.nbPos, setF k F.FAB_PORT_STAT_NB_PORT i.nbPort,
    if !s.nbMatch p i then chain [setF k F.FAB_PORT_STAT_NB_MISMATCH 1, refusePort p]
    else chain [
      setF (R.FAB_LINK_DEPTH p) F.FAB_LINK_DEPTH_DEPTH d, noteByp p i.byp,
      if d < latCycles i.lat16 + 8 then chain [setF k F.FAB_PORT_STAT_DEPTH_FAIL 1, refusePort p] else ok]] s

/-- A port that faces a neighbour has trained (R304, R318, R320). -/
def linkTrained (p : Nat) (i : TrainInfo) : Tx := fun s => chain [
  setF (R.FAB_PORT_STAT p) F.FAB_PORT_STAT_SPARE_LANE (s.spareLane p i),
  checkNeighbour p i (setPort p (if i.byp = 2 then 4 else 3))] s

/-- Lane 4 of a port has trained behind closed switches: the neighbour check runs over it; one that fails closes every switch and leaves
the port REFUSED (R321 step 3). -/
def lane4Trained (p : Nat) (i : TrainInfo) : Tx := checkNeighbour p i (lane4Done p true)

/-- PORT_TRAINING_DONE: of a root port, behind closed switches in loopback or over lane 4, or against a neighbour (R302, R319, R321,
R327). -/
def portTrainingDoneTx (p : Nat) (i : TrainInfo) : Tx := fun s =>
  if s.portState p != 1 then []
  else if s.pcie p then chain [setPort p 6, advanceUp] s
  else if p < 8 ∧ s.switchesOpen = false then (if s.lane4Open then lane4Trained p i s else chain [noteMeas p i, loopbackDone p] s)
  else chain [linkTrained p i, advanceUp] s

/-- A command about port `p`. -/
def onPort (p : Nat) (tx : Tx) (s : State) : Out := if p < 14 then commit tx s else .refused .illFormed

/-- PORT_TRAINING_DONE. -/
def execPortTrainingDone (p : Nat) (i : TrainInfo) (s : State) : Out := onPort p (portTrainingDoneTx p i) s

/-- TRAINING_TIMEOUT: 200 ms passed; the switches never stay open with an untrained port. In the joining sequence a port without a
good lane 4 is skipped (R302, R321). -/
def trainingTimeoutTx (p : Nat) : Tx := whenS (fun s => s.portState p == 1) <| chain [
  setPort p 0, setF (R.FAB_PORT_STAT p) F.FAB_PORT_STAT_TIMEOUT 1,
  if p < 8 then fun s =>
    if s.switchesOpen then giveUp s else if s.lane4Open then lane4Done p false s else loopbackDone p s
  else advanceUp]

/-- TRAINING_TIMEOUT. -/
def execTrainingTimeout (p : Nat) (s : State) : Out := onPort p (trainingTimeoutTx p) s

/-- Does a lane with so many corrected symbols among those of one second pass the swap threshold 2^−n (R303, Table: Calibration
page)? -/
def State.passesSwap (s : State) (corrected symbols : Nat) : Bool := decide (symbols < corrected * 2 ^ s.calByte 0x010)

/-- LANE_SWAP: the spare takes the place of `lane`, whose corrected symbols pass the threshold, while the latency measured after the
swap still fits the depth (R303). On a link through bypassed modules lane 4 carries no data, so no lane is replaced (R321). -/
def laneSwapTx (p lane : Nat) (m : LaneMeasure) : Tx := fun s =>
  let k := R.FAB_PORT_STAT p
  if s.portUp p && s.rb (R.FAB_PORT_CTL p) F.FAB_PORT_CTL_SPARE_EN && decide (lane ≤ 4) && s.passesSwap m.corrected m.symbols &&
      !(decide (p < 8) && s.bypassed p != 0) &&
      s.rf k F.FAB_PORT_STAT_SPARE_LANE != lane &&
      decide (latCycles m.lat16 + 8 ≤ s.rf (R.FAB_LINK_DEPTH p) F.FAB_LINK_DEPTH_DEPTH) then
    chain [
      setF k F.FAB_PORT_STAT_LANE_SWAPPED 1, setF k F.FAB_PORT_STAT_SPARE_LANE lane,
      setF (R.FAB_LINK_MEAS p) F.FAB_LINK_MEAS_MEAS (latCycles m.lat16),
      modPort p fun x => { x with lat16 := m.lat16 }] s
  else []

/-- LANE_SWAP. -/
def execLaneSwap (p lane : Nat) (m : LaneMeasure) (s : State) : Out := onPort p (laneSwapTx p lane m) s

/-- RETRAIN: ignored while a job runs (Table: FAB_PORT_CTL). -/
def retrainTx (p : Nat) : Tx := whenS (fun s => !s.running) (trainPort p)

/-- The drive behind port `p` leaves: a load that reads it fails as with a missing shard (R327). -/
def driveLost (p : Nat) : Tx := fun s =>
  match s.chip.load with
  | some l => when (l.ask.own && l.ask.source == 2 && l.ask.drive == p)
      (failLoad 0x0402 (((s.needed l).find? fun i => !l.done.contains i).getD 0) F.ROL_LOAD_STAT_TIMEOUT) s
  | none => []

/-- PORT_LINK_LOST: a storage endpoint leaves its port down; behind a neighbour that leaves, the port trains against whatever the
closed bypass joins it to (R319, R320, R327). -/
def portLinkLostTx (p : Nat) : Tx := fun s =>
  if s.portState p = 6 then chain [setPort p 0, driveLost p] s
  else if s.portUp p then trainPort p s
  else []

/-- PORT_LINK_LOST. -/
def execPortLinkLost (p : Nat) (s : State) : Out := onPort p (portLinkLostTx p) s

end Sys2Proof.Machine
end

