-- ==== Sys2Proof/Machine/Record.lean ====
section
/-! DEFINITION. Recording of external inputs (R398–R402): entries, their room, and what waits for it. -/

namespace Sys2Proof.Machine

/-- Bytes of an entry (R400). -/
def RepEntry.size (e : RepEntry) : Nat := 64 + (e.body.length + 63) / 64 * 64

/-- An entry's bytes with its SEQ (Table: Replay entry). -/
def RepEntry.bytes (e : RepEntry) (seq : Nat) : List Byte :=
  leBytes 2 e.kind ++ leBytes 2 e.src ++ leBytes 4 e.body.length ++ leBytes 8 e.frame ++ leBytes 8 seq ++ leBytes 8 e.addr ++
    leBytes 8 e.val ++ leBytes 8 e.tag ++ List.replicate 16 0 ++ padTo ((e.body.length + 63) / 64 * 64) e.body

/-- Is there room for an entry of `n` bytes, in the current buffer or in a held continuation (R398)? -/
def RecS.fits (r : RecS) (n : Nat) : Bool :=
  decide (r.used + n ≤ r.len) || (match r.next with | some b => decide (n ≤ b.2) | none => false)

/-- Does the recording take new entries? -/
def RecS.on (r : RecS) : Bool := r.active && !r.stopping

/-- Does an entry wait, or is there no room for the least one: is the buffer full (R399)? -/
def State.recFull (s : State) : Bool := !s.chip.backlog.isEmpty || !s.chip.record.fits 64

/-- Must an input whose entry takes `n` bytes stall: the buffer is full, an earlier input found it full, or there is no room for it
(R399)? -/
def State.recStalls (s : State) (n : Nat) : Bool :=
  s.chip.record.on && (s.rb R.AUD_REPLAY_CTL F.AUD_REPLAY_CTL_FULL || s.recFull || !s.chip.record.fits n)

/-- Write an entry that fits. ENTRIES counts those since START (Table: AUD registers); FULL is set while no further one fits. -/
def putEntry (e : RepEntry) : Tx := fun s =>
  let r := s.chip.record
  let cont := decide (r.len < r.used + e.size)
  let r' : RecS := match cont, r.next with
    | true, some b => { r with addr := b.1, len := b.2, used := 0, next := none }
    | _, _ => r
  chain [
    rouse 8, rouse 1,
    hostWrite (r'.addr + r'.used) (e.bytes r.entries),
    modChip fun c => { c with record := { r' with used := r'.used + e.size, entries := r.entries + 1 } },
    when cont (setF R.AUD_REPLAY_CTL F.AUD_REPLAY_CTL_NEXT 0),
    when (e.kind != 1) (incF R.AUD_REPLAY_STAT F.AUD_REPLAY_STAT_ENTRIES 1),
    look fun s' => setB R.AUD_REPLAY_CTL F.AUD_REPLAY_CTL_FULL s'.recFull] s

/-- An input stalls (R399). -/
def noteStall : Tx := chain [
  setF R.AUD_REPLAY_CTL F.AUD_REPLAY_CTL_FULL 1, incF R.AUD_REPLAY_STAT F.AUD_REPLAY_STAT_STALLS 1]

/-- Record an entry while recording. One that the device itself raises cannot stall: it waits for room and none is lost. -/
def recordEntry (e : RepEntry) : Tx := fun s =>
  if !s.chip.record.on then []
  else if s.recStalls e.size then
    chain [setF R.AUD_REPLAY_CTL F.AUD_REPLAY_CTL_FULL 1, modChip fun c => { c with backlog := c.backlog ++ [e] }] s
  else putEntry e s

/-- No recording is active any more. -/
def endRecording : Tx := chain [
  modChip fun c => { c with record := {}, backlog := [] },
  setF R.AUD_REPLAY_CTL F.AUD_REPLAY_CTL_EN 0, setF R.AUD_REPLAY_CTL F.AUD_REPLAY_CTL_FULL 0,
  setF R.AUD_REPLAY_CTL F.AUD_REPLAY_CTL_NEXT 0]

/-- Recording stops after the entry in progress: entries that wait for room are written first, so that none is lost (R398, R399). -/
def stopRecording : Tx := fun s =>
  if s.chip.backlog.isEmpty then endRecording s else modChip (fun c => { c with record := { c.record with stopping := true } }) s

/-- Entries that waited are written while they fit; a recording that was to stop then does. -/
def drainBacklog : Tx := fun s => chain [
  forEach s.chip.backlog (fun e => whenS (fun s' => s'.chip.backlog.head? == some e && s'.chip.record.fits e.size) <|
    chain [modChip fun c => { c with backlog := c.backlog.tail }, putEntry e]),
  look fun s' => setB R.AUD_REPLAY_CTL F.AUD_REPLAY_CTL_FULL s'.recFull,
  whenS (fun s' => s'.chip.record.stopping && s'.chip.backlog.isEmpty) endRecording] s

/-- Digest of the loaded reel. -/
def State.reelDigest (s : State) : List Byte := match s.chip.reel with | some r => (r.drop 0xE0).take 32 | none => List.replicate 32 0

/-- Root of the LIVE roll. -/
def State.liveRoot (s : State) : List Byte := match s.live with | some x => s.descRoot x | none => List.replicate 32 0

/-- Payload of a START entry (Table: Replay kinds): key, reel digest, LIVE root, seed words and table number, which
are the same on every tile (R247). -/
def State.startPayload (s : State) : List Byte :=
  leBytes 8 (s.reg R.AUD_BITKEY).toNat ++ s.reelDigest ++ s.liveRoot ++
    leBytes 8 (s.grainSeed 0).lo ++ leBytes 8 (s.grainSeed 0).hi ++ leBytes 8 (s.grainSeed 0).num

/-- An armed recording begins with its START entry (R398). -/
def recordStart (frame : Nat) : Tx := fun s =>
  if !s.chip.record.armed then []
  else chain [
    modChip fun c => { c with record := { c.record with armed := false, active := true, used := 0, entries := 0 }, backlog := [] },
    setF R.AUD_REPLAY_CTL F.AUD_REPLAY_CTL_EN 1,
    setF R.AUD_REPLAY_STAT F.AUD_REPLAY_STAT_ENTRIES 0, setF R.AUD_REPLAY_CTL F.AUD_REPLAY_CTL_FULL 0,
    recordEntry ⟨1, 0x200, frame, 0, 0, 0, 0, s.startPayload⟩] s

end Sys2Proof.Machine
end

