-- ==== Sys2Proof/Machine/Requests.lean ====
section
/-! DEFINITION. Requests and results (R371–R380, R395–R397): deadlines, ending and cancelling, slots, the result drain, continuity
records, result rings and the result window. -/

namespace Sys2Proof.Machine

/-! ### Slots (R374–R376) -/

/-- Is the request open: accepted, not ended, its FINAL record not drained? -/
def Slot.open (x : Slot) : Bool := !x.ended && !x.drained

/-- The request in slot `n`. -/
def State.slot (s : State) (n : Nat) : Option Slot := s.chip.slots.find? (·.slot == n)

/-- HIF_ADM_STAT.OPEN follows the slots. -/
def noteOpen : Tx := fun s => setF R.HIF_ADM_STAT F.HIF_ADM_STAT_OPEN (s.chip.slots.filter Slot.open).length s

/-- Change the request in slot `n`. -/
def modSlot (n : Nat) (f : Slot → Slot) : Tx := chain [
  modChip fun c => { c with slots := c.slots.map fun x => if x.slot = n then f x else x }, noteOpen]

/-- A descriptor's BOUND moves (R353). -/
def addBound (x : Nat) (up : Bool) : Tx := fun s =>
  setF (descKey x 9) F.ROL_DESC_A_BOUND_BOUND (if up then s.bound x + 1 else s.bound x - 1) s

/-- Is a recorded run being replayed (R403)? -/
def State.replaying (s : State) : Bool := s.rb R.AUD_REPLAY_CTL F.AUD_REPLAY_CTL_REPLAYING

/-- Fmax of R374. -/
def State.frameMax (s : State) : Nat := s.frmLen + s.rf R.FRM_STRETCH_MAX F.FRM_STRETCH_MAX_CYCLES

/-- The lower of the current and any armed clock step (R374, R422). -/
def State.lowStep (s : State) : Nat := if s.changeArmed then min s.curStep s.armedStep else s.curStep

/-- Whole nanoseconds that `n` cycles take at the lower step, rounded up: 80 / (72 + step) ns a cycle (R417). -/
def State.cyclesNs (s : State) (n : Nat) : Nat := (n * 80 + 71 + s.lowStep) / (72 + s.lowStep)

/-- Can the request no longer meet its deadline, or has the deadline come (R375)? -/
def State.misses (s : State) (x : Slot) : Bool :=
  let n := x.aFrame + x.n - s.frame
  decide (x.dueNs ≤ s.chip.ns) ||
    decide (x.dueNs * (72 + s.lowStep) <
      s.chip.ns * (72 + s.lowStep) + 80 * (n * s.frameMax + s.rf R.FRM_SKEW_MAX F.FRM_SKEW_MAX_CYCLES))

/-! ### Records -/

/-- Round up to 64 bytes. -/
def pad64 (n : Nat) : Nat := (n + 63) / 64 * 64

/-- A record's bytes in the buffer. -/
def Record.bytes64 (r : Record) : Nat := 64 + r.body.length

/-- Free bytes of the 8 MiB result buffer (R378). -/
def State.bufferRoom (s : State) : Nat :=
  0x800000 - (s.queues.map fun q => (q.2.records.map Record.bytes64).foldl (· + ·) 0).foldl (· + ·) 0

/-- A record's header (Table: Result record header). -/
def Record.header (r : Record) (seq : Nat) (reread : Bool) : List Byte :=
  leBytes 8 r.tag ++ leBytes 2 r.status ++
    leBytes 2 (1 + 2 * reread.toNat + 4 * r.final.toNat + 8 * r.crec.toNat) ++ leBytes 4 seq ++ leBytes 8 r.frame ++
    leBytes 4 r.plen ++ leBytes 1 r.slot ++ leBytes 3 0 ++ leBytes 8 r.doneNs ++ leBytes 8 r.dueNs ++ List.replicate 16 0

/-- Digest of an adapter entry. -/
def State.adpRoot (s : State) (e : Nat) : List Byte := ((List.range 4).map fun w => leBytes 8 (s.reg (R.ROL_ADP_ROOT e w)).toNat).flatten

/-- A continuity record, its CHAIN in the last 32 bytes (R395). -/
def State.continuity (s : State) (x : Slot) (payload : List Byte) (frame : Nat) : List Byte :=
  let b := s.reelDigest ++ s.descRoot x.desc ++ (if x.adpEn then s.adpRoot x.adpEntry else List.replicate 32 0) ++
    padTo 32 x.input ++ sha256 payload ++ padTo 32 x.chain ++ leBytes 8 frame ++ leBytes 4 x.records ++ leBytes 2 x.pkey ++
    leBytes 2 s.position ++ leBytes 8 (s.reg R.MOD_ID).toNat ++ leBytes 8 (s.reg R.AUD_BITKEY).toNat
  b ++ sha256 b

/-- An interrupt vector is raised where the queue asks for it (IEN). -/
def raiseVec (q : Nat) : Tx := fun s =>
  let c := (s.queue q).cfg
  if fget c F.HIF_Q_CFG_IEN = 1 then
    modChip (fun ch => { ch with msix := ch.msix ++ [(fget c F.HIF_Q_CFG_FUNC, fget c F.HIF_Q_CFG_VEC)] }) s
  else []

/-- A record of slot `x` with its payload enters the result buffer (R378); a window record may be read at once. -/
def postRecord (x : Slot) (status : Nat) (final : Bool) (frame doneNs : Nat) (payload : List Byte) : Tx := fun s =>
  let cr := s.continuity x payload frame
  let r : Record := ⟨x.tag, status, final, x.crec, frame, payload.length, x.slot, doneNs, x.dueNs,
    padTo (pad64 payload.length) payload ++ (if x.crec then cr else [])⟩
  let q := s.queue x.queue
  chain [
    when q.en (modQueue x.queue fun q => { q with records := q.records ++ [r] }),
    when (q.en && fget q.cfg F.HIF_Q_CFG_RMODE == 1) (raiseVec x.queue),
    when x.crec (incF R.AUD_STAT F.AUD_STAT_RECORDS 1),
    modSlot x.slot fun y => { y with records := y.records + 1, chain := if x.crec then cr.drop 224 else y.chain }] s

/-- An END entry is recorded (R401). -/
def recordEnd (x : Slot) (status : Nat) : Tx := fun s => recordEntry ⟨5, 0x200, s.frame, 0, 0, status, x.tag, []⟩ s

/-- End a request with DEADLINE_FAULT (R375). FRAME and DONE_NS of its record name a moment that never came: free values. -/
def deadlineFault (x : Slot) : Tx := fun s => chain [
  postRecord x 0x0801 true s.free.toNat (Config.freeValue (s.chip.freeCtr + 1)).toNat [],
  bumpFree, bumpFree,
  modSlot x.slot (fun y => { y with ended := true }),
  addBound x.desc false,
  incF R.HIF_ADM_STAT F.HIF_ADM_STAT_DEADLINE_FAULTS 1,
  recordEnd x 0x0801] s

/-- The open requests that are not complete. -/
def State.unfinished (s : State) : List Slot := s.chip.slots.filter fun x => x.open && !x.complete

/-- The deadline check of a tick (R375); never during a replay, nor of a restored request (R403, R410). -/
def tickDeadlines : Tx := fun s =>
  if s.replaying then []
  else forEach (s.unfinished.filter fun x => x.timed && s.misses x) deadlineFault s

/-- Every open request ends, as JOB_STOP asks (R375). -/
def endAllRequests : Tx := fun s => forEach s.unfinished deadlineFault s

/-- DEADLINE_EXPIRY: HIF_TIME reaches the deadline of slot `n`'s request. -/
def deadlineExpiryTx (n : Nat) : Tx := fun s =>
  match s.slot n with
  | some x =>
    if x.open && !x.complete && x.timed && !s.replaying then chain [
      elapseToNs x.dueNs,
      look fun s' => match s'.slot n with | some y => deadlineFault y | none => skip] s
    else []
  | none => []

/-- DEADLINE_EXPIRY. -/
def execDeadlineExpiry (slot : Nat) (s : State) : Out := if slot < 256 then commit (deadlineExpiryTx slot) s else .refused .illFormed

/-- REQ_CANCEL (R376). -/
def reqCancelTx (c : Cmd) : Tx := fun s =>
  if s.replaying then postReply c 0x0103 0 0 s
  else
    let mine := s.chip.slots.filter fun x => x.tag == c.w2.toNat && x.queue == c.queue && !x.ended
    match mine.find? (fun x => !x.complete && !x.drained) with
    | some x => chain [
        modSlot x.slot (fun y => { y with ended := true }), addBound x.desc false, recordEnd x 0, postReply c 0 0 0] s
    | none => postReply c 0x0103 (if mine.isEmpty then 0 else 1) 0 s

/-- REQ_CANCEL. -/
def execReqCancel (c : Cmd) (s : State) : Out := commit (onStart c (reqCancelTx c)) s

/-- REQ_SUBMIT: the command goes to its queue's cue stream (R371); during a replay it is refused (R403). -/
def reqSubmitTx (c : Cmd) : Tx := fun s =>
  if s.replaying then postReply c 0x0103 0 0 s
  else modCue (fget (s.queue c.queue).cfg F.HIF_Q_CFG_CUE) (fun k => { k with inq := k.inq ++ [c] }) s

/-- REQ_SUBMIT; an external input that passes the top of the host's address space goes on at 0. -/
def execReqSubmit (c : Cmd) (s : State) : Out :=
  commit (onStart c (reqSubmitTx c)) s

/-- REQ_SLOT_FREE (R376). -/
def reqSlotFreeTx (n : Nat) : Tx := fun s =>
  match s.slot n with
  | some x =>
    if x.drained || (x.ended && decide (x.aFrame + x.n + 1 ≤ s.frame)) then chain [
      modChip (fun c => { c with slots := c.slots.filter (·.slot != n) }), noteOpen,
      when (s.rb R.HIF_ADM F.HIF_ADM_ADP) (clearAdpSlot (n % 16))] s
    else []
  | none => []

/-- REQ_SLOT_FREE. -/
def execReqSlotFree (slot : Nat) (s : State) : Out := if slot < 256 then commit (reqSlotFreeTx slot) s else .refused .illFormed

/-! ### The drain (R377, R378) -/

/-- Tile and byte offset of slot `n`'s result area. -/
def State.resArea (s : State) (n : Nat) : Nat × Nat :=
  let a := (s.reg (R.HIF_REQ_AREA_1 n)).toNat
  (gTile a, gOff a)

/-- RESULT_DRAIN: once granule 0 is full and the buffer has room; results of an ended request are discarded. -/
def resultDrainTx (n : Nat) : Tx := fun s =>
  match s.slot n with
  | none => []
  | some x =>
    let (t, o) := s.resArea n
    let head := s.rd 0 t o 64
    let plen := min (leNat (pdata (head.take 4))) 16064
    let final := ((pdata head).getD 4 0).toNat.testBit 0
    let body := s.rd 0 t (o + 64) plen
    let size := 64 + pad64 plen + (if x.crec then 256 else 0)
    if !s.isFull t (o / 256) || x.drained then []
    else if x.ended then chain [noteRead 0 t o 64 s.chip.fcyc, setFull t (o / 256) false] s
    else if s.bufferRoom < size then []
    else chain [
      noteRead 0 t o 64 s.chip.fcyc, noteRead 0 t (o + 64) plen s.chip.fcyc,
      postRecord x (if ppoison (head ++ body) then 0x0802 else 0) final x.fullFrame x.fullNs (pdata body),
      setFull t (o / 256) false,
      when final (chain [modSlot n (fun y => { y with complete := true, drained := true }), addBound x.desc false])] s

/-- RESULT_DRAIN. -/
def execResultDrain (slot : Nat) (s : State) : Out := if slot < 256 then commit (resultDrainTx slot) s else .refused .illFormed

/-! ### Result rings (R379) -/

/-- Free slots of a result ring (log entry 6). -/
def QueueS.resRoom (q : QueueS) : Nat := q.resSize - 1 - (q.resTail + q.resSize - q.resHead) % q.resSize

/-- Host address of slot `i` of the result ring. -/
def QueueS.resAt (q : QueueS) (i : Nat) : Nat := q.res.toNat / 4096 * 4096 + 64 * i

/-- A pad record's header. -/
def padHeader (seq : Nat) : List Byte := List.replicate 10 0 ++ leBytes 2 17 ++ leBytes 4 seq ++ List.replicate 48 0

/-- Advance a ring tail and SEQ. -/
def QueueS.advance (q : QueueS) (n : Nat) : QueueS := { q with resTail := (q.resTail + n) % q.resSize, seq := (q.seq + 1) % 0x100000000 }

/-- RESULT_RING_WRITE: a pad record where the record would wrap, then the record, each once there is room. -/
def resultRingWriteTx (n : Nat) : Tx := fun s =>
  let q := s.queue n
  match q.records with
  | [] => []
  | r :: rest =>
    let need := r.bytes64 / 64
    let left := q.resSize - q.resTail
    if !q.en || fget q.cfg F.HIF_Q_CFG_RMODE == 1 then []
    else
      let pad := decide (left < need)
      if pad && decide (q.resRoom < left) then []
      else
        let q' := if pad then q.advance left else q
        chain [
          when pad (chain [hostWrite (q.resAt q.resTail) (padHeader q.seq), modQueue n fun _ => q']),
          if q'.resRoom < need then skip
          else chain [
            hostWrite (q'.resAt q'.resTail + 64) r.body,
            hostWrite (q'.resAt q'.resTail) (r.header q'.seq false),
            modQueue n (fun _ => { q'.advance need with records := rest }),
            raiseVec n]] s

/-- RESULT_RING_WRITE, while the endpoint is served; a ring that passes the top of the host's address space goes on at 0. -/
def execResultRingWrite (q : Nat) (s : State) : Out :=
  if q < 8192 then commit (whenS State.served ((rouse 1).seq (resultRingWriteTx q))) s else .refused .illFormed

/-! ### The result window (R380) -/

/-- The bytes of a window record. -/
def Record.page (r : Record) (seq : Nat) (reread : Bool) : List Byte := r.header seq reread ++ r.body

/-- `len` bytes of queue `n`'s page from `off`. -/
def pageReadTx (n off len : Nat) : Tx := fun s =>
  let q := s.queue n
  let held := q.en && fget q.cfg F.HIF_Q_CFG_RMODE == 1
  match (if held then q.records else []) with
  | [] =>
    let page : List Byte := List.replicate 8 0 ++ leBytes 2 0x0301
    chain [
      modChip (fun c => { c with window := (List.range len).map fun i => page.getD (off + i) 0 }),
      when (decide (off < 16) && decide (0 < len)) (incF R.HIF_RESULT_WIN F.HIF_RESULT_WIN_NOT_READY_CNT 1)] s
  | r :: _ =>
    let again := q.rereadSeq == some q.resHead
    let page := r.page q.resHead again
    let covers := decide (off ≤ 10 ∧ 10 < off + len)
    chain [
      modChip (fun c => { c with window := (List.range len).map fun i => page.getD (off + i) 0 }),
      when covers (modQueue n fun q => { q with rereadSeq := some q.resHead }),
      when (covers && again) (incF R.HIF_RESULT_WIN F.HIF_RESULT_WIN_REREAD_CNT 1)] s

/-- The queue that function `f` names as `q`: the PF by its number, a VF its own queues from 0 in ascending order (R359, R362). -/
def State.queueOf (s : State) (f q : Nat) : Option Nat :=
  if f = 0 then some q
  else ((s.queues.filter fun x => fget x.2.cfg F.HIF_Q_CFG_FUNC == f).map (·.1))[q]?

/-- RESULT_WINDOW_READ of a page of a function's BAR4 (R359, R380); a page past a VF's own queues reads 0. -/
def resultWindowReadTx (page : ResultPage) (off len : Nat) : Tx := fun s =>
  match s.queueOf page.func page.queue with
  | some n => pageReadTx n off len s
  | none => modChip (fun c => { c with window := List.replicate len 0 }) s

/-- RESULT_WINDOW_READ. -/
def execResultWindowRead (page : ResultPage) (off len : Nat) (s : State) : Out :=
  if page.func ≤ 64 ∧ page.queue < 8192 ∧ off + len ≤ 16384 then
    commit (whenS State.served ((rouse 1).seq (resultWindowReadTx page off len))) s
  else .refused .illFormed

end Sys2Proof.Machine
end

