-- ==== Sys2Proof/Machine/Queues.lean ====
section
/-! DEFINITION. Queue pairs (R361–R369): doorbells, enabling, fetching and checking commands, status replies. -/

namespace Sys2Proof.Machine

/-! ### Doorbells (R363) -/

/-- A doorbell is ignored. -/
def dbReject : Tx := incF R.HIF_STAT F.HIF_STAT_DB_REJECT 1

/-- A doorbell of function `f` for its queue `q`: `move` answers the queue with the pointer moved, or none. -/
def doorbellTx (f q : Nat) (move : QueueS → Option QueueS) : Tx := fun s =>
  match s.queueOf f q with
  | none => dbReject s
  | some n =>
    let x := s.queue n
    if 8192 ≤ n || !x.en || fget x.cfg F.HIF_Q_CFG_FUNC != f then dbReject s
    else match move x with
      | some y => modQueue n (fun _ => y) s
      | none => dbReject s

/-- KIND 0: the submission tail. -/
def moveSqTail (i : Nat) (q : QueueS) : Option QueueS :=
  let n := q.sqSize
  if decide (i < n) && decide ((i + n - q.sqTail) % n ≤ n - 1 - (q.sqTail + n - q.sqHead) % n) then some { q with sqTail := i } else none

/-- KIND 1: the completion head. -/
def moveCqHead (i : Nat) (q : QueueS) : Option QueueS :=
  let n := q.cqSize
  if decide (i < n) && decide ((i + n - q.cqHead) % n ≤ (q.cqTail + n - q.cqHead) % n) then some { q with cqHead := i } else none

/-- KIND 2: the result head, a slot in ring mode and a record count in window mode. -/
def moveResHead (i : Nat) (q : QueueS) : Option QueueS :=
  if fget q.cfg F.HIF_Q_CFG_RMODE = 1 then
    let k := (i + 0x100000000 - q.resHead) % 0x100000000
    if k ≤ q.records.length then some { q with resHead := i % 0x100000000, records := q.records.drop k } else none
  else
    let n := q.resSize
    if decide (i < n) && decide ((i + n - q.resHead) % n ≤ (q.resTail + n - q.resHead) % n) then some { q with resHead := i } else none

/-- A doorbell's access of the endpoint: it is served, and wakes it (R435, R483). -/
def doorbellAccess (f q : Nat) (move : QueueS → Option QueueS) : Tx := whenS State.served ((rouse 1).seq (doorbellTx f q move))

/-- DOORBELL_SQ_TAIL. -/
def execDoorbellSqTail (func q idx : Nat) (s : State) : Out := commit (doorbellAccess func q (moveSqTail idx)) s
/-- DOORBELL_CQ_HEAD. -/
def execDoorbellCqHead (func q idx : Nat) (s : State) : Out := commit (doorbellAccess func q (moveCqHead idx)) s
/-- DOORBELL_RES_HEAD. -/
def execDoorbellResHead (func q idx : Nat) (s : State) : Out := commit (doorbellAccess func q (moveResHead idx)) s

/-! ### Enabling (R361) -/

/-- QUEUE_ENABLE: EN becomes 1, with heads, tails, phase and result sequence reset. -/
def queueEnableTx (n : Nat) : Tx := whenS (fun s => !(s.queue n).en) <| modQueue n fun q =>
  { q with
    cfg := fset q.cfg F.HIF_Q_CFG_EN 1, sqHead := 0, sqTail := 0, cqHead := 0, cqTail := 0, phase := true
    resHead := 0, resTail := 0, seq := 0, replies := [], records := [], rereadSeq := none }

/-- QUEUE_DISABLE: EN becomes 0; unwritten replies and records are discarded. -/
def queueDisableTx (n : Nat) : Tx := modQueue n fun q =>
  { q with cfg := fset q.cfg F.HIF_Q_CFG_EN 0, replies := [], records := [] }

/-- QUEUE_ENABLE. -/
def execQueueEnable (q : Nat) (s : State) : Out :=
  if q < 8192 then commit (whenS State.served (queueEnableTx q)) s else .refused .illFormed
/-- QUEUE_DISABLE. -/
def execQueueDisable (q : Nat) (s : State) : Out :=
  if q < 8192 then commit (whenS State.served (queueDisableTx q)) s else .refused .illFormed

/-! ### Status replies (R365) -/

/-- Entries of the completion ring that the host has freed (log entry 6). -/
def QueueS.cqFree (q : QueueS) : Nat := q.cqSize - 1 - (q.cqTail + q.cqSize - q.cqHead) % q.cqSize

/-- A reply's 32 bytes with its phase (Table: Status reply). -/
def Reply.bytes (r : Reply) (phase : Bool) : List Byte :=
  leBytes 8 r.tag ++ leBytes 2 r.status ++ leBytes 2 r.opcode ++ leBytes 4 r.detail ++ leBytes 8 r.frame ++ leBytes 4 r.detail2 ++
    leBytes 2 r.sqHead ++ leBytes 1 (phase.toNat + 2 * r.event.toNat) ++ leBytes 1 0

/-- Host address of entry `i` of the completion ring. -/
def QueueS.cqAt (q : QueueS) (i : Nat) : Nat := q.cq.toNat / 4096 * 4096 + 32 * i

/-- STATUS_REPLY: the oldest waiting reply is written once the ring has room. -/
def statusReplyTx (n : Nat) : Tx := fun s =>
  let q := s.queue n
  match q.replies with
  | [] => []
  | r :: rest =>
    if !q.en || q.cqFree = 0 then []
    else
      let next := (q.cqTail + 1) % q.cqSize
      chain [
        hostWrite (q.cqAt q.cqTail) (r.bytes q.phase),
        modQueue n (fun q => { q with replies := rest, cqTail := next, phase := if next = 0 then !q.phase else q.phase }),
        raiseVec n] s

/-- STATUS_REPLY, while the endpoint is served; a ring that passes the top of the host's address space goes on at 0. -/
def execStatusReply (q : Nat) (s : State) : Out :=
  if q < 8192 then commit (whenS State.served ((rouse 1).seq (statusReplyTx q))) s else .refused .illFormed

/-! ### Fetching and checking (R364, R366, R367) -/

/-- A row of Table: Commands: opcode, least and largest LEN, class M. -/
structure OpRow where
  op : Nat
  lo : Nat
  hi : Nat
  m : Bool

/-- Table: Commands. -/
def opTable : List OpRow :=
  [0x0101, 0x0102, 0x0103, 0x0201, 0x0202, 0x0203, 0x0204, 0x0210].map (⟨·, 1, 1, true⟩) ++
  [⟨0x0301, 1, 1024, false⟩, ⟨0x0302, 1, 1, false⟩, ⟨0x0510, 65, 65, true⟩] ++
  [0x0401, 0x0402, 0x0501, 0x0601, 0x0701, 0x0702, 0x0801, 0x0802, 0x0901, 0x0A01, 0x0A02].map (⟨·, 1, 1, true⟩)

/-- Bits that a parameter word may set: an address is 64-byte aligned. -/
def addrMask : Nat := 0xFFFFFFFFFFFFFFC0
def allMask : Nat := 0xFFFFFFFFFFFFFFFF

/-- The bits that words 2 to 7 of a command may set (Table: Commands); w6 and w7 of REQ_SUBMIT are R374's to check. -/
def paramMasks (c : Cmd) : List Nat :=
  match c.opcode with
  | 0x0101 => [addrMask, allMask, 0x1F03, 0, 0, 0]
  | 0x0201 => [allMask, allMask, allMask, allMask, 0xFFFFFFFF0000001F,
      if c.w6.toNat % 8 = 0 then addrMask else if c.w6.toNat % 8 = 2 then allMask else 0]
  | 0x0202 => [allMask, allMask, allMask, allMask, 0, 0]
  | 0x0203 => [allMask, allMask, allMask, allMask, allMask, 0x1F]
  | 0x0204 => [allMask, allMask, allMask, allMask, 0, 0]
  | 0x0210 => [allMask, allMask, allMask, allMask, 0xFFFF071F, if c.w6.toNat / 256 % 8 = 0 then addrMask else allMask]
  | 0x0301 => [0xFFFFFFFF0000003F, allMask, allMask, 0x7FFFFFFF, allMask, allMask]
  | 0x0302 => [allMask, 0, 0, 0, 0, 0]
  | 0x0401 => [0x1FFF, 0, 0, 0, 0, 0]
  | 0x0402 => [0x1FFF, 0, 0, 0, 0, 0]
  | 0x0501 => [0x1FF01FF, 0, 0, 0, 0, 0]
  | 0x0510 => [1, 0, 0, 0, 0, 0]
  | 0x0601 => [0x3FFF, if c.w2.toNat.testBit 11 then 0xFFFF003F else 0x7FFFFFFFFFFFFFFF, 0, 0, 0, 0]
  | 0x0701 => [0xFF, addrMask, allMask, allMask, 0, 0]
  | 0x0702 => [addrMask, allMask, 0xFFFFFFFF, 0, 0, 0]
  | 0x0801 => [addrMask, allMask, 0, 0, 0, 0]
  | 0x0802 => [addrMask, allMask, 0, 0, 0, 0]
  | 0x0901 => [0x7F, allMask, 0, 0, 0, 0]
  | 0x0A01 => [addrMask, allMask, 1, 0, 0, 0]
  | 0x0A02 => [addrMask, allMask, 0, 0, 0, 0]
  | _ => [0, 0, 0, 0, 0, 0]

/-- Parameters out of their range: (word, lowest bit of the field), ascending (Table: Commands). -/
def State.paramRange (s : State) (c : Cmd) : List (Nat × Nat) :=
  let bad (b : Bool) (w i : Nat) : List (Nat × Nat) := if b then [(w, i)] else []
  match c.opcode with
  | 0x0101 => bad (decide (0x10000000 < c.w3.toNat)) 3 0
  | 0x0201 => bad (decide (4 < c.w6.toNat % 8)) 6 0
  | 0x0203 => bad (c.w7.toNat.testBit 0 && !([1, 3, 4].contains (c.w7.toNat / 2 % 8))) 7 1
  | 0x0210 => bad (decide (4 < c.w6.toNat / 256 % 8)) 6 8 ++ bad (c.w6.toNat / 65536 % 65536 == 0) 6 16
  | 0x0301 => bad (c.w3.toNat == 0) 3 0 ++ bad (decide (16777216 < c.w5.toNat % 2 ^ 25)) 5 0
  | 0x0401 => bad (decide (9 < c.w2.toNat % 256)) 2 0
  | 0x0402 => bad (decide (9 < c.w2.toNat % 256)) 2 0
  | 0x0501 => bad (!([1, 2, 3, 4, 5, 6, 7, 0xFF].contains (c.w2.toNat % 256))) 2 0 ++
      bad (decide (s.numTiles ≤ c.w2.toNat / 65536 % 512)) 2 16
  | 0x0601 => bad (decide (s.numTiles ≤ c.w2.toNat % 512)) 2 0
  | 0x0901 => bad (decide (72 < c.w2.toNat % 128)) 2 0
  | _ => []

/-- The lowest bit set of a number below 2^64. -/
def lowBit (v : Nat) : Nat := ((List.range 64).find? v.testBit).getD 0

/-- The words of a command. -/
def cmdWords (c : Cmd) : List Nat := [c.w2, c.w3, c.w4, c.w5, c.w6, c.w7].map (·.toNat)

/-- Check 4 of R367: the first failing word and its lowest failing bit. `w0` is word 0 as fetched. -/
def State.badParam (s : State) (c : Cmd) (w0 : Nat) : Option (Nat × Nat) :=
  let r0 := (w0 &&& 0xFFFC000000000000) ||| (if c.opcode = 0x0301 then 0 else w0 &&& 0x0002000000000000)
  let zero := (((cmdWords c).zip (paramMasks c)).zipIdx.filterMap fun x =>
    let v := x.1.1 - (x.1.1 &&& x.1.2)
    if v = 0 then none else some (x.2 + 2, lowBit v))
  let all := (if r0 = 0 then [] else [(0, lowBit r0)]) ++ zero ++ s.paramRange c
  all.foldl (fun a x => match a with
    | none => some x
    | some y => some (if x.1 < y.1 ∨ (x.1 = y.1 ∧ x.2 < y.2) then x else y)) none

/-- The bytes of a ring slot. -/
def State.sqSlot (s : State) (q : QueueS) (i : Nat) : List Byte :=
  s.hostBytes (q.base.toNat / 4096 * 4096 + 64 * (i % q.sqSize)) 64

/-- The command at the head of queue `n`. -/
def State.headCmd (s : State) (n : Nat) : Cmd :=
  let q := s.queue n
  let b := s.sqSlot q q.sqHead
  let w0 := field b 0 8
  let len := w0 / 65536 % 65536
  let w (i : Nat) : Word := BitVec.ofNat 64 (field b (8 * i) 8)
  { queue := n, sqHead := (q.sqHead + len) % q.sqSize, opcode := w0 % 65536, len := len, pkey := w0 / 2 ^ 32 % 65536
    fence := w0.testBit 48, crec := w0.testBit 49, tag := w 1, w2 := w 2, w3 := w 3, w4 := w 4, w5 := w 5, w6 := w 6, w7 := w 7
    payload := (List.range (min (len - 1) 1023)).flatMap fun i => s.sqSlot q (q.sqHead + 1 + i), arrival := s.chip.ns }

/-- Checks 1 to 4 of R367: a refusal's status and DETAIL. -/
def State.checkCmd (s : State) (c : Cmd) (w0 : Nat) : Option (Nat × Nat) :=
  match opTable.find? (·.op == c.opcode) with
  | none => some (0x0101, 0)
  | some r =>
    if !(decide (r.lo ≤ c.len ∧ c.len ≤ r.hi) && decide (c.len < (s.queue c.queue).sqSize)) then some (0x0102, 0)
    else if c.pkey != fget (s.queue c.queue).cfg F.HIF_Q_CFG_PKEY || (r.m && c.pkey != 0) then some (0x0104, 0)
    else (s.badParam c w0).map fun p => (0x0103, p.1 + 256 * p.2)

/-- COMMAND_FETCH: the next command that the tail covers, while the completion ring has room; a FENCE waits for the earlier
commands' replies. A command that passes is started by its own row; one that fails is answered. -/
def commandFetchTx (n : Nat) : Tx := fun s =>
  let q := s.queue n
  let c := s.headCmd n
  let avail := (q.sqTail + q.sqSize - q.sqHead) % q.sqSize
  let odd := c.len = 0 ∨ q.sqSize ≤ c.len
  if !q.en || q.cqRoom = 0 || avail = 0 || (!odd && decide (avail < c.len)) ||
      (c.fence && s.chip.fetched.any (·.queue == n)) then []
  else
    let head := if odd then (q.sqHead + 1) % q.sqSize else c.sqHead
    let c := { c with sqHead := head }
    chain [
      rouse 1,
      modQueue n fun q => { q with sqHead := head },
      match s.checkCmd c (field (s.sqSlot q q.sqHead) 0 8) with
      | some r => queueReply c r.1 r.2 0
      | none => modChip fun ch => { ch with fetched := ch.fetched ++ [c] }] s

/-- COMMAND_FETCH, while the endpoint is served; a ring that passes the top of the host's address space goes on at 0. -/
def execCommandFetch (q : Nat) (s : State) : Out :=
  if q < 8192 then commit (whenS State.served (commandFetchTx q)) s else .refused .illFormed

end Sys2Proof.Machine
end

