-- ==== Sys2Proof/Machine/Prepare.lean ====
section
/-! DEFINITION. What JOB_START sets on a module before its start clap (R53, R59, R67, R70, R76–R78, R177, R202, R245, R376). -/

namespace Sys2Proof.Machine

/-- Change every entry of a store whose unlisted entries read as `z`. -/
def mapStore {α : Type} [DecidableEq α] (z : α) (f : α → α) (m : List (Nat × α)) : List (Nat × α) :=
  (m.map fun x => (x.1, f x.2)).filter fun x => x.2 != z

/-- Nothing of the job is left at work on a tile; the tags counted since a tag break was armed stay counted (R100). -/
def TileS.idle (ts : TileS) : TileS :=
  let stop (x : StreamS) : StreamS := { tagSeen := x.tagSeen }
  { ts with c := stop ts.c, d := stop ts.d, m := stop ts.m, v := stop ts.v, passes := [], entryFree := 0, lastL := 0, wcyc := 0, wcnt := 0
            places := [], vops := [], landing := [], reads := [], retired := none, doneAt := 0, sliceUsed := 0, kvInflight := []
            avail := [], empties := [], grants := [], olds := [], winMin := none }

/-- A tile as a job finds it: output settings of R177, no slack window, scrub and automatic tests due. -/
def TileS.fresh (ts : TileS) : TileS := { ts.idle with mout := {}, lastMin := none, scrubLast := none, autoLast := none }

/-- Tile registers that take their reset values at JOB_START: STR_PC, STR_ISSUED, STR_CNT, STR_CMP, MXA_ADP_SLOT, VEC_VL and
GRN_BEAT (R70, R76, R77, R105, R202, R254, R376). -/
def jobReg (k : Nat) : Bool :=
  let o := (k - 0x100000) % 0x4000
  isTileReg k && (decide (0x10 ≤ o ∧ o < 0x30) || decide (0x70 ≤ o ∧ o < 0x90) || decide (0x100 ≤ o ∧ o < 0x280) ||
    decide (0x480 ≤ o ∧ o < 0x500) || k == R.VEC_VL ((k - 0x100000) / 0x4000) || k == R.GRN_BEAT ((k - 0x100000) / 0x4000))
where
  /-- Is the key that of a tile register? -/
  isTileReg (k : Nat) : Bool := decide (0x100000 ≤ k)

/-- The module is ready for frame 0, or for the frame of a restored context: nothing of an earlier job is left. The cue streams' program
counters stay as they are (DESIGN CHOICE, log entry 63: R70 names the tile streams). -/
def freshJob : Tx := chain [
  setF R.FRM_CTL F.FRM_CTL_RUN 1, setF R.FRM_CTL F.FRM_CTL_FROZEN 0,
  fun _ => [.dropRegs jobReg, .dropFull],
  look fun s => forEach (s.tiles.map (·.1)) fun t => modTile t TileS.fresh,
  setRegN R.FRM_COUNT 0, setRegN R.FRM_STRETCH_CNT 0, setRegN R.FRM_MAINT_SHORT_CNT 0, setRegN R.FRM_LAG 0, setRegN R.FRM_SLACK_MIN 0,
  setRegN R.FRM_REALIGN_FRAME 0,
  look fun s => modChip fun c => { c with
    fcyc := 0, winFrame := 0, slackWin := s.rf R.FRM_CTL F.FRM_CTL_SLACK_WIN, winLen := 0, starvedDone := false, overrunDone := false
    overrunCall := false, halting := false, hold := none, freezeAt := none, freezeHits := [], freezeDomain := false, capture := none
    slots := [], cues := mapStore {} (fun x => { x with
      cnt := Vector.replicate 8 0, cmp := Vector.replicate 4 {}, admitted := false, free := 0 }) c.cues },
  noteOpen]

/-- Fills that run complete; time moves on to their ends. -/
def finishFills : Tx := fun s => forEach (s.tiles.map (·.1)) (fun t => look fun s' => match (s'.tile t).fill with
  | some f => chain [elapseToNs (f.endNs.getD 0), finishFill t f]
  | none => skip) s

/-- Bank A of every tile is filled and active, and bank B unfilled (R245). -/
def fillBankA : Tx := chain [
  finishFills,
  look fun s => forEach s.tileList fun t => chain [
    whenS (fun s' => s'.tw (R.GRN_TBL_SEL t) != 0) (setTw (R.GRN_TBL_SEL t) 0),
    setF (R.GRN_STAT t) F.GRN_STAT_ACTIVE 0, setF (R.GRN_STAT t) F.GRN_STAT_PENDING 0, setF (R.GRN_STAT t) F.GRN_STAT_FILLED_B 0,
    startFill t 0 true],
  finishFills]

/-- What JOB_START does on a module before its start clap. -/
def prepareJob : Tx := chain [freshJob, modChip fun c => { c with restored := none }, fillBankA, jobVotes]

/-! ### What a clap that fails puts back (R387) -/

/-- The entries of an older store that differ from those of a newer one. -/
def differing {α : Type} [DecidableEq α] (d : Nat → α) (old new : List (Nat × α)) : List (Nat × α) :=
  (((old ++ new).map (·.1)).eraseDups.filter fun k => Sparse.get d old k != Sparse.get d new k).map fun k => (k, Sparse.get d old k)

/-- Is the register one of the power block, whose votes are put back as votes? -/
def powerKey (k : Nat) : Bool := decide (0x60000 ≤ k ∧ k < 0x70000)

/-- The job votes, and those of the forwarding, that stand in `t` and not in `s`. -/
def State.newVotes (s t : State) : List (Nat × Nat) :=
  (List.range 10).flatMap fun d => ([4, 6].filter fun n => (t.votes d).testBit n && !(s.votes d).testBit n).map fun n => (d, n)

/-- What of `s` is no more in `t`. -/
def State.since (s t : State) : BeforeS :=
  { regs := (differing resetWord s.regs t.regs).filter fun x => !powerKey x.1
    mem := differing byte0 s.mem t.mem, err := differing byte0 s.err t.err, poison := differing pois0 s.poison t.poison
    full := differing empty0 s.full t.full, tiles := differing tile0 s.tiles t.tiles, twLast := s.chip.twLast
    votes := s.newVotes t, slots := s.chip.slots, cues := s.chip.cues, xfers := s.chip.xfers, inbound := s.chip.inbound
    restored := s.chip.restored, winFrame := s.chip.winFrame, winLen := s.chip.winLen, slackWin := s.chip.slackWin
    capture := s.chip.capture, hold := s.chip.hold, rollA := s.chip.rollA, rollB := s.chip.rollB }

/-- An earlier part of a preparation and a later one. -/
def BeforeS.join (a b : BeforeS) : BeforeS :=
  { a with regs := b.regs ++ a.regs, mem := b.mem ++ a.mem, err := b.err ++ a.err, poison := b.poison ++ a.poison
           full := b.full ++ a.full, tiles := b.tiles ++ a.tiles, votes := a.votes ++ b.votes }

/-- A preparation that a failed clap puts back. -/
def keepBefore (tx : Tx) : Tx := fun s =>
  let b := s.since (run tx s)
  chain [tx, modChip fun c => { c with before := some (match s.chip.before with | some a => a.join b | none => b) }] s

/-- The module is again as it was before the preparation. -/
def putBack : Tx := fun s =>
  match s.chip.before with
  | none => []
  | some b => chain [
      (fun _ => b.regs.map (fun x => .reg x.1 x.2) ++ b.mem.map (fun x => .mem x.1 [x.2]) ++ b.err.map (fun x => .err x.1 [x.2]) ++
        b.poison.map (fun x => .poison x.1 x.2) ++ b.full.map (fun x => .full x.1 x.2) ++ b.tiles.map (fun x => .tile x.1 x.2)),
      modChip fun c => { c with
        before := none, twLast := b.twLast, slots := b.slots, cues := b.cues, xfers := b.xfers, inbound := b.inbound
        restored := b.restored, winFrame := b.winFrame, winLen := b.winLen, slackWin := b.slackWin, capture := b.capture, hold := b.hold
        rollA := b.rollA, rollB := b.rollB },
      forEach b.votes fun v => withdrawVote v.1 v.2] s

/-- Does the start clap wait for this module: it has yet to be ready, its reel is loaded and checked, and its row maps are settled (Table:
Claps)? -/
def State.startDue (s : State) : Bool :=
  (match s.chip.clap with | some c => c.sub == 0 && c.rem.isNone && !c.ready.contains s.position | none => false) &&
    s.chip.reel.isSome && s.chip.armedMaps.isNone

/-- A module that the start clap waits for is prepared, its grain fills run to their ends, and it is ready (R245, R387). -/
def settleClap : Tx := whenS State.startDue (chain [keepBefore prepareJob, selfReady])

end Sys2Proof.Machine
end

