-- ==== Sys2Proof/Machine/Retire.lean ====
section
/-! DEFINITION. Online retirement of a tile into a spare of its row (R292–R297). -/

namespace Sys2Proof.Machine

/-! ### Planning (R293) -/

/-- A step: the site vacated and the site taken. -/
abbrev Step1 := Nat × Nat

/-- Remove a site and add another, ascending. -/
def moveSite (un : List Nat) (take vac : Nat) : List Nat :=
  let r := un.filter (· != take)
  r.filter (fun i => decide (i < vac)) ++ [vac] ++ r.filter (fun i => decide (vac < i))

/-- The map word of a list of unused sites (Table: Row-map encoding). -/
def State.mapWord (s : State) (un : List Nat) : Nat :=
  (un.zipIdx.map fun u => u.1 * 64 ^ u.2).foldl (· + ·) 0 + (if s.chip.part.grade3207 then 0 else 0xFFF000)

/-- The maps in effect with row `y` replaced. -/
def State.mapsWith (s : State) (y word : Nat) : List Nat := (List.range 16).map fun i => if i = y then word else s.rowCur i

/-- Is a site of a row bad or retired? -/
def State.siteBad (s : State) (y i : Nat) : Bool := (s.rf (R.MSH_BAD y) F.MSH_BAD_SITES).testBit i

/-- The steps that a set of unused sites allows: a tile moves onto an adjacent good unused site, and the maps stay legal. -/
def State.retireMoves (s : State) (y : Nat) (un : List Nat) : List (Step1 × List Nat) :=
  un.flatMap fun b =>
    if s.siteBad y b then []
    else ([b - 1, b + 1].filter fun a => decide (a < 34) && a != b && !un.contains a).filterMap fun a =>
      let un' := moveSite un b a
      if (s.mapsFault (s.mapsWith y (s.mapWord un'))).isNone then some ((a, b), un') else none

/-- Breadth-first search for the shortest sequence that ends with site `n` unused; plans are held last step first. -/
def State.retireSearch (s : State) (y n : Nat) : Nat → List (List Step1 × List Nat) → List (List Nat) → Option (List Step1)
  | 0, _, _ => none
  | fuel + 1, front, seen =>
    match front.find? (fun p => p.2.contains n) with
    | some p => some p.1.reverse
    | none =>
      let next := front.foldl (fun (acc : List (List Step1 × List Nat) × List (List Nat)) p =>
        (s.retireMoves y p.2).foldl (fun acc m =>
          if acc.2.contains m.2 then acc else (acc.1 ++ [(m.1 :: p.1, m.2)], m.2 :: acc.2)) acc) ([], seen)
      s.retireSearch y n fuel next.1 next.2

/-- The plan that leaves site `n` of row `y` unused: none where the row has no good unused site. -/
def State.retirePlan (s : State) (y n : Nat) : Option (List Step1) :=
  let un := s.unusedOf (s.rowCur y)
  if un.all (s.siteBad y) then none else s.retireSearch y n 34 [([], un)] [un]

/-- The logical tile at a site of a row under the current map. -/
def State.tileAtSite (s : State) (y site : Nat) : Nat :=
  y * s.cols + ((s.sitesOf (s.rowCur y)).findIdx? (· == site)).getD 0

/-! ### The steps -/

/-- Set the last retirement's result: 1 done, 2 no spare, 3 abandoned. -/
def retireResult (r : Nat) : Tx := chain [
  setF R.MSH_STAT F.MSH_STAT_RETIRE_RESULT r, setF R.MSH_STAT F.MSH_STAT_RETIRE_BUSY 0]

/-- RETIREMENT_START (R292, R293): the oldest valid entry. One for which there is no spare stays VALID and becomes the youngest (R449, log
entry 60). -/
def retirementStartTx : Tx := fun s =>
  if !s.rb R.MSH_CTL F.MSH_CTL_AUTO_RETIRE || s.chip.retire.isSome then []
  else match s.chip.noms.find? (fun n => s.rb (R.MSH_NOMINATE n) F.MSH_NOMINATE_VALID) with
    | none => []
    | some n =>
      let row := s.rf (R.MSH_NOMINATE n) F.MSH_NOMINATE_ROW
      let site := s.rf (R.MSH_NOMINATE n) F.MSH_NOMINATE_SITE
      let others := s.chip.noms.filter (· != n)
      match s.retirePlan row site with
      | none => chain [modChip fun c => { c with noms := others ++ [n] }, retireResult 2] s
      | some [] => chain [
          modChip fun c => { c with noms := others }, setF (R.MSH_NOMINATE n) F.MSH_NOMINATE_VALID 0, retireResult 1] s
      | some ((a, b) :: rest) =>
        let r : Retire := ⟨n, row, site, (a, b, s.tileAtSite row a) :: rest.map fun p => (p.1, p.2, 0), 0, 0, [], none⟩
        chain [
          setF R.MSH_STAT F.MSH_STAT_RETIRE_BUSY 1,
          setF R.MSH_RETIRE F.MSH_RETIRE_STEPS (rest.length + 1), setF R.MSH_RETIRE F.MSH_RETIRE_DONE 0,
          setF R.MSH_RETIRE F.MSH_RETIRE_UNITS 0,
          modChip fun c => { c with retire := some r }] s

/-- Change the running retirement. -/
def modRetire (f : Retire → Retire) : Tx := modChip fun c => { c with retire := c.retire.map f }

/-- In phase `ph` of the running retirement, do `f`. -/
def inPhase (ph : Nat) (f : Retire → Nat → Tx) : Tx := fun s =>
  match s.chip.retire with
  | some r => match r.plan with
    | (_, _, t) :: _ => if r.phase = ph then f r t s else []
    | [] => []
  | none => []

/-- RETIRE_WAKE (R294): site b is powered and zero-filled; mirroring begins. -/
def retireWakeTx : Tx := inPhase 0 fun _ _ => modRetire fun r => { r with phase := 1 }

/-- Copy units of a step (R294): 32 KiB of data regions each, 12 of scratchpad, 1 of instruction memory, 2 of codebooks, 1 of SFU
tables. -/
def State.copyUnits (s : State) (t : Nat) : Nat :=
  2 * ((List.range 256).filter fun r => !s.weightRegion t r).length + 16

/-- RETIRE_WEIGHTS (R294): the weight regions and grain banks of site b are there. -/
def retireWeightsTx : Tx := inPhase 1 fun _ t => fun s => modRetire (fun r => { r with phase := 2, unitsLeft := s.copyUnits t }) s

/-- The span (space, offset, bytes) that the copy unit with `left` units to go, itself counted, reads: 32 KiB of the data regions in order,
then 128 KiB of scratchpad; the other stores hold no lines (R294). -/
def State.copySpan (s : State) (t left : Nat) : Option (Nat × Nat × Nat) :=
  let rs := (List.range 256).filter fun r => !s.weightRegion t r
  let i := 2 * rs.length + 16 - left
  if i < 2 * rs.length then some (1, rs.getD (i / 2) 0 * 0x10000 + i % 2 * 0x8000, 0x8000)
  else if i < 2 * rs.length + 12 then some (0, (i - 2 * rs.length) * 0x20000, 0x20000)
  else none

/-- Does a line read uncorrectable (R115, R117)? -/
def State.lineBad (s : State) (sp t o : Nat) : Bool :=
  if sp = 1 then (s.standIn t o).isNone && (s.tierStored t o).ue.isSome else (s.spdLine t o).ue.isSome

/-- A copy unit's reads, spread over its 128 cycles: what they record, those that wait for a bank (R114), and the lines that read
uncorrectable. -/
def copyReadSpan (t : Nat) (q : Nat × Nat × Nat) : Tx := fun s => chain [
  countWaits t ((List.range (q.2.2 / 64)).map fun n =>
    ⟨s.chip.fcyc + n * 128 / (q.2.2 / 64), q.1, q.2.1 + 64 * n, if q.1 = 1 then 7 else 6, false, false⟩),
  noteRead q.1 t q.2.1 q.2.2 s.chip.fcyc,
  modRetire fun x => { x with bad := x.bad ++
    (((List.range (q.2.2 / 64)).map fun n => q.2.1 + 64 * n).filter (s.lineBad q.1 t)).map (q.1, ·) }] s

/-- RETIRE_COPY_UNIT (R294, R35). -/
def retireCopyUnitTx : Tx := inPhase 2 fun r t => unitTx t 128 0 3 <| chain [
  look fun s => match s.copySpan t r.unitsLeft with | some q => copyReadSpan t q | none => skip,
  incF R.MSH_RETIRE F.MSH_RETIRE_UNITS 1,
  modRetire fun x => { x with unitsLeft := r.unitsLeft - 1, phase := if r.unitsLeft ≤ 1 then 3 else 2 }]

/-- The maps after the current step: the tile leaves site a for site b. -/
def State.stepMaps (s : State) (row a b : Nat) : List Nat :=
  s.mapsWith row (s.mapWord (moveSite (s.unusedOf (s.rowCur row)) b a))

/-- RETIRE_STATE_UNIT (R294): the unit copies stream and grain state and arms the new maps. -/
def retireStateUnitTx : Tx := inPhase 3 fun r t => unitTx t 64 0 4 <| fun s =>
  match r.plan with
  | (a, b, _) :: _ =>
    let maps := s.stepMaps r.row a b
    chain [setTw (R.MSH_ROWMAP r.row) (maps.getD r.row 0),
      setF R.MSH_STAT F.MSH_STAT_PENDING 1,
      modChip fun c => { c with armedMaps := some maps },
      modRetire fun x => { x with phase := 4, staged := some (s.rowStaged r.row) }] s
  | [] => []

/-- The distinct lines of a space of tile `t` over which an error lies. -/
def State.errLines (s : State) (sp t : Nat) : List Nat :=
  let lo := memKey sp t 0
  ((s.err.filter fun c => decide (lo ≤ c.1 ∧ c.1 < lo + spaceSize sp)).map fun c => (c.1 - lo) / 64 * 64).eraseDups

/-- A line as the copy leaves it at the new site, stored without error: as it was written, or, uncorrectable when it was copied and not
written since, as it reads and poisoned (R127, R295). -/
def copyLineOver (bad : List (Nat × Nat)) (sp t o : Nat) : Tx := fun s =>
  let k := memKey sp t o
  let l := if sp = 1 then s.tierLine t o else s.spdLine t o
  let lost := bad.contains (sp, o) && s.lineBad sp t o
  [.mem k (if lost then l.data else s.lineMeant sp t o), .err k (List.replicate 64 0),
    .poison (k / 64) (poisonCopies (if s.lineBad sp t o then lost || s.linePoison (k / 64) else l.poison))]

/-- A weight region at the new site is its vault copy (R294, R295). -/
def copyWeights (t r : Nat) : Tx := fun s =>
  let k := memKey 1 t (r * 0x10000)
  [.mem k (s.vaultBytes ((256 * t + r) * 0x10000) 0x10000), .err k (List.replicate 0x10000 0)] ++
    (List.range 1024).map fun n => .poison (k / 64 + n) (poisonCopies false)

/-- Everything of tile `t` now stands at its new site (R294): its memories without the errors of the old one, an empty repair
buffer, grain banks refilled, no SFU bank held out (R241). The mirrored codebook store keeps a stored error (DESIGN CHOICE, log entry 17). -/
def retireMove (bad : List (Nat × Nat)) (t : Nat) : Tx := chain [
  look fun s => forEach ((s.errLines 1 t ++ ((s.tile t).repair ++ (s.tile t).granted).map (·.off)).filter fun o =>
    !s.weightRegion t (o / 0x10000)) (copyLineOver bad 1 t),
  look fun s => forEach (s.errLines 0 t) (copyLineOver bad 0 t),
  look fun s => forEach ((List.range 256).filter (s.weightRegion t)) (copyWeights t),
  fun s => if (s.errLines 4 t).isEmpty then [] else [.err (memKey 4 t 0) (List.replicate 0x4000 0)],
  setF (R.SFU_STAT t) F.SFU_STAT_HELD 0,
  modTile t fun ts => { ts with repair := [], granted := [], hardLines := [], sfuFails := [], sfuPasses := [] },
  sfuLevel t]

/-- An armed set of maps takes effect at frame cycle 2 of a tick (R36, R290, R294). -/
def rowMapSwitch : Tx := fun s =>
  match s.chip.armedMaps with
  | none => []
  | some maps => chain [
      inPhase 4 fun r t => retireMove r.bad t,
      applyMaps maps,
      setF R.MSH_STAT F.MSH_STAT_PENDING 0,
      modChip fun c => { c with armedMaps := none },
      inPhase 4 fun _ _ => modRetire fun r => { r with phase := 5 }] s

/-- Does a nomination entry still hold the running retirement's site? The host may have cleared it, and another nomination taken it. -/
def State.nomStands (s : State) (r : Retire) : Bool :=
  s.rf (R.MSH_NOMINATE r.nom) F.MSH_NOMINATE_ROW == r.row && s.rf (R.MSH_NOMINATE r.nom) F.MSH_NOMINATE_SITE == r.site

/-- OLD_SITE_POWER_DOWN (R291, R296): 64 cycles after the switch; the retirement record in the vault is updated first. After the last step the nominated site is bad and the retirement is
done; else the next step begins. -/
def oldSitePowerDownTx : Tx := inPhase 5 fun r _ => chain [
  elapseTo 66,
  look fun s => modChip fun c => { c with
    retMaps := some ((List.range 16).map fun y => s.rf (R.MSH_ROWMAP_CUR y) F.MSH_ROWMAP_CUR_U)
    retSites := if r.plan.length = 1 then c.retSites ++ [(r.row, r.site)] else c.retSites },
  incF R.MSH_RETIRE F.MSH_RETIRE_DONE 1,
  match r.plan with
  | [] => skip
  | [_] => chain [
      look fun s => setF (R.MSH_BAD r.row) F.MSH_BAD_SITES (setBit (s.rf (R.MSH_BAD r.row) F.MSH_BAD_SITES) r.site true),
      whenS (fun s => s.nomStands r) (chain [
        setF (R.MSH_NOMINATE r.nom) F.MSH_NOMINATE_VALID 0, modChip fun c => { c with noms := c.noms.filter (· != r.nom) }]),
      retireResult 1,
      modChip fun c => { c with retire := none }]
  | _ :: (a, b, _) :: rest => chain [
      setF R.MSH_RETIRE F.MSH_RETIRE_UNITS 0,
      look fun s => modRetire fun x => { x with
        plan := (a, b, s.tileAtSite r.row a) :: rest, phase := 0, unitsLeft := 0, bad := [] }]]

/-- A step that has not switched is abandoned, and the maps stay as they were, a staged one too (R297); its nomination stays valid (R449). -/
def abandonRetirement : Tx := fun s =>
  match s.chip.retire with
  | none => []
  | some r =>
    if r.phase = 5 then []
    else chain [
      modChip fun c => { c with retire := none, armedMaps := if r.phase = 4 then none else c.armedMaps },
      when (r.phase == 4) (chain [setTw (R.MSH_ROWMAP r.row) (r.staged.getD (s.rowCur r.row)), setF R.MSH_STAT F.MSH_STAT_PENDING 0]),
      retireResult 3] s

/-- RETIREMENT_ABANDON: a fault of site a's router or streams, or JOB_STOP where none runs any more. -/
def retirementAbandonTx (siteFault : Bool) : Tx := fun s =>
  if siteFault || !s.running then chain [abandonRetirement, settleClap] s else []

/-- RETIREMENT_START. -/
def execRetirementStart (s : State) : Out := commit retirementStartTx s

/-- RETIRE_WAKE. -/
def execRetireWake (s : State) : Out := commit retireWakeTx s

/-- RETIRE_WEIGHTS. -/
def execRetireWeights (s : State) : Out := commit retireWeightsTx s

/-- RETIRE_COPY_UNIT. -/
def execRetireCopyUnit (s : State) : Out := commit retireCopyUnitTx s

/-- RETIRE_STATE_UNIT. -/
def execRetireStateUnit (s : State) : Out := commit retireStateUnitTx s

/-- OLD_SITE_POWER_DOWN. -/
def execOldSitePowerDown (s : State) : Out := commit oldSitePowerDownTx s

/-- RETIREMENT_ABANDON. -/
def execRetirementAbandon (siteFault : Bool) (s : State) : Out := commit (retirementAbandonTx siteFault) s

end Sys2Proof.Machine
end

