-- ==== Sys2Proof/Machine/Registers.lean ====
section
/-! DEFINITION. Register accesses (R3–R10, R359, R360, R491): access codes, twin writes, what is ignored, registers with behaviour of
their own, data ports and selectors, and the recording of host writes (R402). -/

namespace Sys2Proof.Machine

/-! ### Keys -/

/-- Index of `k` in an array of `n` registers from `base` with a stride. -/
def indexIn (k base stride n : Nat) : Option Nat :=
  if base ≤ k ∧ (k - base) % stride = 0 ∧ (k - base) / stride < n then some ((k - base) / stride) else none

/-- Is `k` in such an array? -/
def inArr (k base stride n : Nat) : Bool := (indexIn k base stride n).isSome

/-- The global address of a register. -/
def State.regAddr (s : State) (k : Nat) : Nat :=
  if isTileKey k then gaddr s.position (tileOf k) 3 ((k - 0x100000) % 0x4000) else gaddr s.position 0 7 k

/-! ### Fields (R5, Table: Access codes) -/

/-- A field of a register row. -/
def FDef.fld (f : FDef) : Fld := ⟨f.hi, f.lo⟩

/-- Is the register twin-written? -/
def RegDef.twin (r : RegDef) : Bool := r.fields.any fun f => f.acc == .tw

/-- The word after a write of `v`, the fields at the bit positions in `skip` left as they are. -/
def applyFields (fs : List FDef) (skip : List Nat) (old v : Word) : Word :=
  fs.foldl (fun w f =>
    if skip.contains f.lo then w
    else match f.acc with
      | .rw => fset w f.fld (fget v f.fld)
      | .w1c => w &&& ~~~(v &&& fmask f.fld)
      | _ => w) old

/-- A twin write with disagreeing halves is ignored and counted (R8). -/
def twReject : Tx := incF R.MOD_TW_REJECT_CNT F.MOD_TW_REJECT_CNT_COUNT 1

/-! ### What is ignored (R491) -/

/-- Registers written only while no job runs (R22, R67, R328, R357, R372, R411). -/
def idleOnly (k : Nat) : Bool :=
  [R.FRM_LEN, R.FRM_STRETCH_MAX, R.FRM_SKEW_MAX, R.FRM_REALIGN_THRESH, R.FAB_JOB_PKEY, R.HIF_ADM, R.AUD_CTL, R.AUD_CTX_KEEP].contains k ||
    inArr k (R.FAB_LINK_DEPTH 0) 8 14 || inArr k (R.FAB_GROUTE 0) 8 64 || inArr k (R.ROL_LAG 0) 8 512 ||
    inArr k (R.HIF_CLASS_0 0) 8 128 || inArr k (R.HIF_REQ_AREA_0 0) 8 1024

/-- Does a write of a whole register take no effect at all? -/
def State.writeIgnored (s : State) (k : Nat) (v : Word) : Bool :=
  (s.running && idleOnly k) ||
    (k == R.AUD_CTX_KEEP && decide (6144 < fget v F.AUD_CTX_KEEP_FIRST + fget v F.AUD_CTX_KEEP_COUNT)) ||
    (k == R.PWR_LIMIT &&
      (let a := fget v F.PWR_LIMIT_SUSTAIN; let b := fget v F.PWR_LIMIT_PEAK
       !(decide (1000 ≤ a ∧ a ≤ 1600) && decide (a ≤ b ∧ b ≤ 1800))))

/-- The bit positions of fields that this write leaves as they are. -/
def State.skipped (s : State) (k : Nat) (v : Word) : List Nat :=
  let t := tileOf k
  if k = R.FRM_MAINT_SLICE then (if 16 < fget v F.FRM_MAINT_SLICE_FRAC then [0] else [])
  else if k = R.SPK_BASE_A ∨ k = R.SPK_BASE_B then (if 47 < fget v F.SPK_BASE_A_PAGE then [12] else [])
  else if k = R.TIR_SCRUB_CTL then (if 13 < fget v F.TIR_SCRUB_CTL_INTERVAL then [1] else [])
  else if k = R.TIR_INJECT then (let n := fget v F.TIR_INJECT_SYMS; if 1 ≤ n ∧ n ≤ 4 then [] else [16])
  else if k = R.ROL_LOAD_TIMEOUT then (if fget v F.ROL_LOAD_TIMEOUT_MS < 1000 then [0] else [])
  else if k = R.AUD_CTL then (if fget v F.AUD_CTL_CLAP_TIMEOUT = 0 then [20] else [])
  else if k = R.AUD_REPLAY_CTL then [0]
  else if k = R.MOD_STAT then (if s.chip.mainUp then [] else [6, 7])
  else match indexIn k (R.FAB_PORT_CTL 0) 8 14 with
    | some p => if p < 12 ∨ 2 ≤ fget v F.FAB_PORT_CTL_MODE then [1] else []
    | none =>
      if !isTileKey k then []
      else if k = R.STR_CTL t then (if s.running then [0] else [])
      else if k = R.SPD_INJECT t then (let n := fget v F.SPD_INJECT_BITS; if n = 1 ∨ n = 2 then [] else [23])
      else if k = R.VEC_VL t then (let n := fget v F.VEC_VL_VL; if 1 ≤ n ∧ n ≤ 16777216 then [] else [0])
      else if k = R.SFU_CTL t then (if s.running then [0] else [])
      else []

/-! ### What a write brings about -/

/-- RESUME (R104): every matched break is cleared, and a frozen chip asks for a resume clap. A freeze that a match has called and that is yet
to come stays due, and nothing is asked for (DESIGN CHOICE, log entry 67). -/
def resumeTx : Tx := fun s => chain [
  forEach (s.tileList.filter fun t => s.rb (R.STR_STAT t) F.STR_STAT_HIT || [0, 1, 2, 3].any fun k => ((s.tile t).stream k).broken)
    (fun t => chain [
      setF (R.STR_STAT t) F.STR_STAT_HIT 0,
      forEach [0, 1, 2, 3] fun k => modStream t k fun x => { x with broken := false }]),
  whenS State.frozen callResume] s

/-- A change of DBG_CTL.PROBE: the probe's vote slot 8 on every domain (R469). -/
def probeVotes (on : Bool) : Tx := forEach (List.range 10) fun d => if on then placeVote d 8 else withdrawVote d 8

/-- The adapter entry words that R191 refuses. -/
def adapterRefused (v : Word) : Bool :=
  let f := fget v F.MXA_ADP_TBL_0_WFMT
  let rho := 8 * (fget v F.MXA_ADP_TBL_0_RANK + 1)
  v.toNat.testBit 63 &&
    (!([3, 4, 5, 6, 7, 8, 9, 13].contains f) || (mxFmt f && rho % 32 != 0) || (f == 13 && rho != 64))

/-- What follows a write of chip register `k`, `old` before it. -/
def afterChip (k : Nat) (old v : Word) : Tx :=
  if k = R.AUD_REPLAY_CTL then when (!v.toNat.testBit 0) stopRecording
  else if k = R.DBG_CTL then when (old.toNat.testBit 0 != v.toNat.testBit 0) (probeVotes (v.toNat.testBit 0))
  else if k = R.MOD_STAT then whenS (fun s => !s.rb R.MOD_STAT F.MOD_STAT_RAIL_FAULT) (setF R.MOD_STAT F.MOD_STAT_FAULT_RAIL 0)
  else if k = R.MOD_ALERT_EN then fun s => noteAlert (s.reg R.MOD_ALERT &&& old != 0) s
  else if k = R.MSH_CTL then when (v.toNat.testBit 1) armTx
  else if k = R.MSH_RETIRE then when (v.toNat.testBit 10) (nominateSite (fget v F.MSH_RETIRE_ROW) (fget v F.MSH_RETIRE_SITE) 3)
  else if k = R.MOD_BYPASS then chain [when (v.toNat.testBit 1) openReqTx, when (v.toNat.testBit 2) bypassCloseTx]
  else match indexIn k (R.FAB_PORT_CTL 0) 8 14, indexIn k (R.MSH_NOMINATE 0) 8 8 with
    | some p, _ => when (v.toNat.testBit 3) (retrainTx p)
    | none, some n => when (v.toNat.testBit 63) (modChip fun c => { c with noms := c.noms.filter (· != n) })
    | none, none => skip

/-- What follows a write of a register of tile `t`. -/
def afterTile (t k : Nat) (v : Word) : Tx :=
  if k = R.STR_CTL t then when (v.toNat.testBit 8) resumeTx
  else if k = R.VEC_VL t then
    when (!(decide (1 ≤ fget v F.VEC_VL_VL) && decide (fget v F.VEC_VL_VL ≤ 16777216))) (setF (R.VEC_STAT t) F.VEC_STAT_VL_RANGE 1)
  else if k = R.SFU_CTL t then chain [
    whenS (fun s => !s.running) (noteCompat t),
    sfuLevel t]
  else if k = R.GRN_CTL t then when (v.toNat.testBit 16) (grainFillTx t)
  else match indexIn k (R.STR_BRK_TAG t 0) 8 4 with
    | some i => modStream t i fun x => { x with tagSeen := 0 }
    | none => skip

/-- Queue registers (R361): a word that changes nothing but EN, or any word while the queue is disabled. -/
def queueWrite (k : Nat) (v : Word) : Tx := fun s =>
  let n := s.rf R.HIF_Q_SEL F.HIF_Q_SEL_QUEUE
  let q := s.queue n
  let reject := incF R.HIF_STAT F.HIF_STAT_CFG_REJECT 1
  if k = R.HIF_Q_CFG then
    let v := v &&& 0x000FFFFFFFFFFFFF
    if q.en then
      if fset v F.HIF_Q_CFG_EN 1 != q.cfg then reject s
      else if v.toNat.testBit 51 then [] else queueDisableTx n s
    else
      let a := decide (12 < fget v F.HIF_Q_CFG_SQSZ)
      let b := decide (12 < fget v F.HIF_Q_CFG_CQSZ)
      let c := decide (8 < fget v F.HIF_Q_CFG_RSZ)
      let v1 := if a then fset v F.HIF_Q_CFG_SQSZ (fget q.cfg F.HIF_Q_CFG_SQSZ) else v
      let v2 := if b then fset v1 F.HIF_Q_CFG_CQSZ (fget q.cfg F.HIF_Q_CFG_CQSZ) else v1
      let v3 := if c then fset v2 F.HIF_Q_CFG_RSZ (fget q.cfg F.HIF_Q_CFG_RSZ) else v2
      chain [
        when (a || b || c) reject,
        modQueue n fun q => { q with cfg := fset v3 F.HIF_Q_CFG_EN 0 },
        when (v.toNat.testBit 51) (queueEnableTx n)] s
  else if q.en then reject s
  else
    let w := v &&& ~~~0xFFF
    modQueue n (fun q => if k = R.HIF_Q_BASE then { q with base := w } else if k = R.HIF_Q_CQ then { q with cq := w } else { q with res := w }) s

/-- A write of HIF_DOORBELL by function `f` (R363). -/
def doorbellWrite (f : Nat) (v : Word) : Tx :=
  let q := fget v F.HIF_DOORBELL_QUEUE
  let i := fget v F.HIF_DOORBELL_INDEX
  match fget v F.HIF_DOORBELL_KIND with
  | 0 => doorbellTx f q (moveSqTail i)
  | 1 => doorbellTx f q (moveCqHead i)
  | 2 => doorbellTx f q (moveResHead i)
  | _ => dbReject

/-! ### Data ports (R45, R46, R119, R160, R230, R326) -/

/-- Move an address field of a port on by one word, wrapping. -/
def advancePort (k : Nat) (f : Fld) : Tx := fun s => setF k f (s.rf k f + 1) s

/-- Does a store offset lie in a bank's region? -/
def State.inSpkBank (s : State) (b o : Nat) : Bool := decide (s.spkBase b ≤ o ∧ o < s.spkBase b + 65760)

/-- Is the place at offset `o` of a bank used: port codes 0–4 of the part's tiles, and the fabric ports (R45)? -/
def State.spkUsed (s : State) (o : Nat) : Bool :=
  let e := o / 16
  if e < 4096 then decide (e % 8 < 5) && decide (e / 8 < s.numTiles) else decide (e < 4110)

/-- Does an unused place of a bank hold the store offset, and no used one (R45)? -/
def State.spkDead (s : State) (o : Nat) : Bool :=
  let at_ (b : Nat) := s.inSpkBank b o && s.spkUsed (o - s.spkBase b)
  (s.inSpkBank 0 o || s.inSpkBank 1 o) && !(at_ 0 || at_ 1)

/-- Write the sprocket store word at SPK_TBL_ADDR. -/
def spkWrite (v : Word) : Tx := fun s =>
  let o := 8 * s.rf R.SPK_TBL_ADDR F.SPK_TBL_ADDR_ADDR
  chain [
    if s.running && s.inSpkBank s.spkActive o then incF R.SPK_STAT F.SPK_STAT_WR_REJECT 1
    else fun _ => [.mem (sprocketKey o) (leBytes 8 (if s.spkDead o then 0 else v.toNat))],
    advancePort R.SPK_TBL_ADDR F.SPK_TBL_ADDR_ADDR] s

/-- Does TIR_CLASS_ADDR name a word of a tile that the part has: four words a tile (R1, Table: TIR_CLASS_DATA)? -/
def State.classUsed (s : State) : Bool := decide (s.rf R.TIR_CLASS_ADDR F.TIR_CLASS_ADDR_ADDR / 4 < s.numTiles)

/-- Write the class-map word at TIR_CLASS_ADDR; ignored while a job runs. -/
def classWrite (v : Word) : Tx := fun s => chain [
  when (!s.running && s.classUsed) (fun _ => [.mem (classKey (8 * s.rf R.TIR_CLASS_ADDR F.TIR_CLASS_ADDR_ADDR)) (leBytes 8 v.toNat)]),
  advancePort R.TIR_CLASS_ADDR F.TIR_CLASS_ADDR_ADDR] s

/-- Key of the codebook entry at WPA_CB_ADDR. -/
def State.cbPort (s : State) (t : Nat) : Nat := memKey 5 t (8 * s.rf (R.WPA_CB_ADDR t) F.WPA_CB_ADDR_ADDR)

/-- Key of the table word at SFU_TBL_ADDR. -/
def State.sfuPort (s : State) (t : Nat) : Nat := memKey 5 t (0x40000 + 8 * s.rf (R.SFU_TBL_ADDR t) F.SFU_TBL_ADDR_ADDR)

/-- Store a word with fresh check bits. -/
def freshWord (k : Nat) (v : Word) : Tx := fun _ => [.mem k (leBytes 8 v.toNat), .err k (List.replicate 8 0)]

/-- Write the codebook entry at WPA_CB_ADDR (R160). -/
def cbWrite (t : Nat) (v : Word) : Tx := fun s => chain [
  if s.running && 8 * s.rf (R.WPA_CB_ADDR t) F.WPA_CB_ADDR_ADDR / 0x20000 == s.rf (R.WPA_CB_STAT t) F.WPA_CB_STAT_ACTIVE then
    incF (R.WPA_CB_STAT t) F.WPA_CB_STAT_WR_REJECT 1
  else freshWord (s.cbPort t) v,
  advancePort (R.WPA_CB_ADDR t) F.WPA_CB_ADDR_ADDR] s

/-- Write the table word at SFU_TBL_ADDR (R230). -/
def sfuWrite (t : Nat) (v : Word) : Tx := fun s => chain [
  if s.running && 8 * s.rf (R.SFU_TBL_ADDR t) F.SFU_TBL_ADDR_ADDR / 0x8000 == s.rf (R.SFU_STAT t) F.SFU_STAT_ACTIVE then
    incF (R.SFU_STAT t) F.SFU_STAT_WR_REJECT 1
  else freshWord (s.sfuPort t) v,
  advancePort (R.SFU_TBL_ADDR t) F.SFU_TBL_ADDR_ADDR] s

/-- A stored word as its SEC-DED decoder delivers it. -/
def State.fixedWord (s : State) (k : Nat) : Nat :=
  leNat (secDecode (List.zipWith (· ^^^ ·) (s.bytes k 8) (s.errBytes k 8)) (leNat (s.errBytes k 8))).data

/-- The count of histogram word `w` in a set of `n` counted cycles, at most 32 bits: 8p + bin of port `p`, 128 + 4t + bin of
tile `t`; bin 0 counts the cycles that no other bin of its unit counts (R326). -/
def State.histWord (s : State) (n : Nat) (h : List (Nat × Nat)) (w : Nat) : Nat :=
  let at_ (v : Nat) : Nat := Sparse.get (fun _ => 0) h v
  let v :=
    if w < 112 then (if w % 8 = 0 then n - ((List.range 7).map fun b => at_ (w + 1 + b)).foldl (· + ·) 0 else at_ w)
    else if 128 ≤ w ∧ w < 128 + 4 * s.numTiles then (if w % 4 = 0 then n - (at_ (w + 1) + at_ (w + 2) + at_ (w + 3)) else at_ w)
    else 0
  min v 0xFFFFFFFF

/-- The read set's count of FAB_CMAP_ADDR.WORD. -/
def State.cmapWord (s : State) : Nat :=
  s.histWord s.chip.readCycles s.chip.histRead (s.rf R.FAB_CMAP_ADDR F.FAB_CMAP_ADDR_WORD)

/-! ### Selectors (R36, R161, R230, R249) -/

/-- A selector write: it arms a switch to the other bank or cancels one; who wrote it is the SRC of its SELECT entry (R400). -/
def selectTx (k stat : Nat) (act pend : Fld) (v : Word) : Tx := fun s =>
  if !twAgree v then twReject s
  else chain [
    setTw k v.toNat, setB stat pend (v.toNat % 2 != s.rf stat act),
    modChip fun c => { c with selBy := (k, c.writer) :: c.selBy.filter (·.1 != k) }] s

def spkSelTx : Word → Tx := selectTx R.SPK_SEL R.SPK_STAT F.SPK_STAT_ACTIVE F.SPK_STAT_PENDING
def wpaCbSelTx (t : Nat) : Word → Tx := selectTx (R.WPA_CB_SEL t) (R.WPA_CB_STAT t) F.WPA_CB_STAT_ACTIVE F.WPA_CB_STAT_PENDING
def sfuTblSelTx (t : Nat) : Word → Tx := selectTx (R.SFU_TBL_SEL t) (R.SFU_STAT t) F.SFU_STAT_ACTIVE F.SFU_STAT_PENDING

/-- The grain selector refuses a bank that is not filled; the refusal is a recorded SELECT (R249, R401). -/
def grnTblSelTx (t : Nat) (v : Word) : Tx := fun s =>
  if !twAgree v then twReject s
  else if !s.rb (R.GRN_STAT t) (grnFilled (v.toNat % 2)) then
    chain [incF (R.GRN_STAT t) F.GRN_STAT_SEL_REJECT 1,
      recordEntry ⟨7, s.chip.writer, s.frame, 0, s.regAddr (R.GRN_TBL_SEL t), v.toNat % 2 + 2 ^ 63, 0, []⟩] s
  else selectTx (R.GRN_TBL_SEL t) (R.GRN_STAT t) F.GRN_STAT_ACTIVE F.GRN_STAT_PENDING v s

/-! ### The write of one register -/

/-- A write of an ordinary register: the fields of `v` under their access codes, then what follows it. -/
def plainWrite (r : RegDef) (k : Nat) (v : Word) : Tx := fun s =>
  if s.writeIgnored k v then []
  else
    let old := s.reg k
    chain [
      setReg k (applyFields r.fields (s.skipped k v) old v),
      if isTileKey k then afterTile (tileOf k) k v else afterChip k old v] s

/-- Is a commit (descriptor, cycle at which LEN settles, notify transfer) complete (R25, R277)? -/
def State.kvComplete (s : State) (e : Nat × Nat × Nat) : Bool :=
  decide (e.2.1 ≤ s.chip.fcyc) &&
    !s.chip.xfers.any fun x => x.id == e.2.2 && (decide (0 < x.inRouter) || (x.dstMod == s.position && x.dstTile == x.tile))

/-- The descriptor on which a write of register `k` waits: a commit on it is in flight, or an earlier write waits (R269). -/
def State.kvHolds (s : State) (k : Nat) : Option Nat :=
  let t := tileOf k
  let d := match indexIn k (R.KVC_DESC_0 t 0) 8 256, indexIn k (R.KVC_STAGE t 0) 8 64 with
    | some i, _ => some (i / 4)
    | none, some i => some i
    | none, none => none
  d.filter fun d => ((s.tile t).kvInflight.any fun e => e.1 == d && !s.kvComplete e) || (s.tile t).kvHeld.any (·.desc == d)

/-- A twin write whose halves agree. The manager's standby learns of a partition key first (R460). The chip never runs above XQ_STEP (R414): a CLK_STEP above it is ignored (DESIGN CHOICE, log entry
62). -/
def twinWrite (k : Nat) (v : Word) : Tx := fun s =>
  if s.writeIgnored k v then []
  else if k = R.CLK_STEP then
    if s.running then incF R.CLK_STAT F.CLK_STAT_WR_REJECT 1 s
    else if 72 < v.toNat % 128 ∨ s.rf R.CLK_FMAX F.CLK_FMAX_XQ_STEP < v.toNat % 128 then []
    else chain [setTw k v.toNat, applyStep] s
  else if k = R.ROL_ACTIVE then []
  else if inArr k (R.MSH_ROWMAP 0) 8 16 && s.chip.armedMaps.isSome then incF R.MSH_STAT F.MSH_STAT_WR_REJECT 1 s
  else chain [
    when (k == R.FAB_JOB_PKEY || (List.range 14).any fun p => inArr k (R.FAB_PKEY_TBL p 0) 8 64) tellStandby,
    setTw k v.toNat] s

/-- A write of a tile register that stands on its own. -/
def tileSpecial (t k : Nat) (v : Word) : Option Tx :=
  if k = R.WPA_CB_SEL t then some (wpaCbSelTx t v)
  else if k = R.SFU_TBL_SEL t then some (sfuTblSelTx t v)
  else if k = R.GRN_TBL_SEL t then some (grnTblSelTx t v)
  else if k = R.WPA_CB_DATA t then some (cbWrite t v)
  else if k = R.SFU_TBL_DATA t then some (sfuWrite t v)
  else match indexIn k (R.MXA_ADP_TBL_0 t 0) 16 32 with
    | some _ => if adapterRefused v then some (incF (R.MXA_STAT t) F.MXA_STAT_ADP_WR_REJECT 1) else none
    | none => none

/-- A write of a chip register that stands on its own. -/
def chipSpecial (k : Nat) (v : Word) : Option Tx :=
  if k = R.SPK_SEL then some (spkSelTx v)
  else if k = R.SPK_TBL_DATA then some (spkWrite v)
  else if k = R.TIR_CLASS_DATA then some (classWrite v)
  else if k = R.HIF_DOORBELL then some (doorbellWrite 0 v)
  else if [R.HIF_Q_BASE, R.HIF_Q_CQ, R.HIF_Q_RES, R.HIF_Q_CFG].contains k then some (queueWrite k v)
  else none

/-- What follows is done for `src`: a cue stream, or 0x100 the host; else the manager (Table: Replay entry). -/
def asWriter (src : Nat) (tx : Tx) : Tx :=
  chain [modChip fun c => { c with writer := src }, tx, modChip fun c => { c with writer := 0x200 }]

/-- A 64-bit write of the register with key `k`, by the host, a cue stream, a transfer or a preset. -/
def writeReg (k : Nat) (v : Word) : Tx := fun s =>
  match regOf k with
  | none => []
  | some r =>
    if isTileKey k && decide (s.numTiles ≤ tileOf k) then []
    else match (if isTileKey k then tileSpecial (tileOf k) k v else chipSpecial k v) with
      | some tx => tx s
      | none =>
        if r.twin && !twAgree v then twReject s
        else match (if isTileKey k then s.kvHolds k else none) with
          | some d => modTile (tileOf k) (fun ts => { ts with kvHeld := ts.kvHeld ++ [⟨k, v, d⟩] }) s
          | none => if r.twin then twinWrite k v s else plainWrite r k v s

/-! ### Reads -/

/-- Bytes of two pointers in one word. -/
def pack16 (xs : List Nat) : Word := BitVec.ofNat 64 ((xs.zipIdx.map fun x => x.1 % 65536 * 65536 ^ x.2).foldl (· + ·) 0)

/-- The result tail: a slot in ring mode, a record count in window mode. -/
def QueueS.resTailOut (q : QueueS) : Nat :=
  if fget q.cfg F.HIF_Q_CFG_RMODE = 1 then (q.resHead + q.records.length) % 0x100000000 else q.resTail

/-- `PWR_STATE` as it reads: bit d of TRANSIT is 1 while domain d waits to drop (R446; that a drop that is due is the entry, and an exit one
step, is DEDUCED, log entry 40). -/
def State.pwrState (s : State) : Word :=
  fset (s.reg R.PWR_STATE) F.PWR_STATE_TRANSIT
    (((List.range 10).filter fun d => s.chip.dropDue.contains d && s.votes d == 0).foldl (fun a d => a + 2 ^ d) 0)

/-- What a read of register `k` returns. -/
def State.readReg (s : State) (k : Nat) : Word :=
  let q := s.queue (s.rf R.HIF_Q_SEL F.HIF_Q_SEL_QUEUE)
  let t := tileOf k
  if isTileKey k then
    if s.numTiles ≤ t then 0
    else if k = R.WPA_CB_DATA t then BitVec.ofNat 64 (s.fixedWord (s.cbPort t))
    else if k = R.SFU_TBL_DATA t then BitVec.ofNat 64 (s.fixedWord (s.sfuPort t))
    else s.reg k
  else if k = R.HIF_TIME then BitVec.ofNat 64 s.chip.ns
  else if k = R.HIF_Q_BASE then q.base
  else if k = R.HIF_Q_CQ then q.cq
  else if k = R.HIF_Q_RES then q.res
  else if k = R.HIF_Q_CFG then q.cfg
  else if k = R.HIF_Q_STAT then pack16 [q.sqHead, q.sqTail, q.cqHead, q.cqTail]
  else if k = R.HIF_Q_RSTAT then BitVec.ofNat 64 (q.resHead % 0x100000000 + q.resTailOut * 0x100000000)
  else if k = R.SPK_TBL_DATA then
    let o := 8 * s.rf R.SPK_TBL_ADDR F.SPK_TBL_ADDR_ADDR
    if s.spkDead o then 0 else BitVec.ofNat 64 (leNat (s.bytes (sprocketKey o) 8))
  else if k = R.TIR_CLASS_DATA then
    if s.classUsed then BitVec.ofNat 64 (leNat (s.bytes (classKey (8 * s.rf R.TIR_CLASS_ADDR F.TIR_CLASS_ADDR_ADDR)) 8)) else 0
  else if k = R.FAB_CMAP_DATA then BitVec.ofNat 64 s.cmapWord
  else if k = R.PWR_STATE then s.pwrState
  else match indexIn k (R.PWR_VOTE 0) 8 10 with
    | some d => fset (s.reg k) F.PWR_VOTE_SLOTS (s.votes d)
    | none => s.reg k

/-- What a read of register `k` brings about: a data port moves on. -/
def readEffect (k : Nat) : Tx :=
  let t := tileOf k
  if isTileKey k then
    if k = R.WPA_CB_DATA t then advancePort (R.WPA_CB_ADDR t) F.WPA_CB_ADDR_ADDR
    else if k = R.SFU_TBL_DATA t then advancePort (R.SFU_TBL_ADDR t) F.SFU_TBL_ADDR_ADDR
    else skip
  else if k = R.SPK_TBL_DATA then advancePort R.SPK_TBL_ADDR F.SPK_TBL_ADDR_ADDR
  else if k = R.TIR_CLASS_DATA then advancePort R.TIR_CLASS_ADDR F.TIR_CLASS_ADDR_ADDR
  else if k = R.FAB_CMAP_DATA then advancePort R.FAB_CMAP_ADDR F.FAB_CMAP_ADDR_WORD
  else skip

/-- A host read of register `k`: the value it returns is kept in `readData`. -/
def hostRead (k : Nat) : Tx := fun s => chain [modChip fun c => { c with readData := s.readReg k }, readEffect k] s

/-! ### Host writes and their recording (R399, R402) -/

/-- Is the register one of a table, codebook or seed, or GRN_CTL? -/
def dataReg (k : Nat) : Bool :=
  let t := tileOf k
  if isTileKey k then [R.WPA_CB_DATA t, R.SFU_TBL_DATA t, R.GRN_SEED_LO t, R.GRN_SEED_HI t, R.GRN_CTL t].contains k
  else k == R.SPK_TBL_DATA

/-- Chip registers whose writes are never recorded: DBG_, PWR_, CLK_, HIF_, FAB_ECN_, FAB_CMAP_, TIR_SCRUB_, MSH_RETIRE. -/
def neverRecorded (k : Nat) : Bool :=
  decide (0x80000 ≤ k ∧ k < 0x90000) || decide (0x60000 ≤ k ∧ k < 0x70000) || decide (0x50000 ≤ k ∧ k < 0x60000) ||
    decide (0x30000 ≤ k ∧ k < 0x40000) ||
    [R.FAB_ECN_THRESH, R.FAB_ECN_CTL, R.FAB_CMAP_CTL, R.FAB_CMAP_ADDR, R.FAB_CMAP_DATA, R.TIR_SCRUB_CTL, R.TIR_SCRUB_STAT, R.MSH_RETIRE].contains k

/-- Is the register a bank selector, whose SELECT is recorded at its tick or as it is refused (R401)? -/
def bankSelector (k : Nat) : Bool :=
  let t := tileOf k
  k == R.SPK_SEL || (isTileKey k && [R.WPA_CB_SEL t, R.SFU_TBL_SEL t, R.GRN_TBL_SEL t].contains k)

/-- The replay kind that a host write of `v` while a job runs is recorded as: 2 WRITE, 7 SELECT, 9 UNTIMED. A bank selector is recorded at
its tick, and ROL_ACTIVE ignores a write; a write of a row map, a selector too (R36), is recorded as it is made. -/
def State.recKind (s : State) (k : Nat) (v : Word) : Option Nat :=
  match regOf k with
  | none => none
  | some r =>
    if dataReg k then some 2
    else if bankSelector k || k == R.ROL_ACTIVE then none
    else if inArr k (R.MSH_ROWMAP 0) 8 16 then (if twAgree v then some 7 else none)
    else if !isTileKey k && neverRecorded k then none
    else if k == R.FRM_CTL then (if fget v F.FRM_CTL_SLACK_WIN = s.rf k F.FRM_CTL_SLACK_WIN then none else some 9)
    else if k == R.MSH_CTL then (if v.toNat.testBit 1 then some 9 else none)
    else if r.fields.any (fun f => f.acc == .rw || f.acc == .wo || f.acc == .tw) then some 9
    else none

/-- VALUE of the entry of a host write: of a row map the value, bit 63 set where it is refused (Table: Replay kinds). -/
def State.recValue (s : State) (k : Nat) (v : Word) (kind : Nat) : Nat :=
  if kind = 7 then v.toNat % 0x100000000 + (if inArr k (R.MSH_ROWMAP 0) 8 16 && s.chip.armedMaps.isSome then 2 ^ 63 else 0) else v.toNat

/-- A host write of `v` to register `k`, with the effect `tx`, and its entry (R402). -/
def recordedWrite (k : Nat) (v : Word) (tx : Tx) : Tx := fun s => chain [
  asWriter 0x100 tx,
  match (if s.running then s.recKind k v else none) with
  | some kind => recordEntry ⟨kind, 0x100, s.frame, 0, s.regAddr k, s.recValue k v kind, 0, []⟩
  | none => skip] s

/-- The stalled writes are applied in order while their entries fit. -/
def drainWrites : Tx := fun s =>
  forEach s.chip.heldWrites (fun i => whenS (fun s' => s'.chip.heldWrites.head? == some i && !s'.recStalls 64) <|
    chain [
      modChip (fun c => { c with heldWrites := c.heldWrites.tail }),
      match i with
      | .registerWrite a (some v) => recordedWrite a.off v (writeReg a.off v)
      | _ => skip]) s

/-- A host write of register `k`; one that is to be recorded stalls while the buffer is full (R399). -/
def hostAct (k : Nat) (v : Word) (tx : Tx) : Tx := fun s =>
  if s.running && ((s.recKind k v).isSome || bankSelector k) && (s.recStalls 64 || !s.chip.heldWrites.isEmpty) then
    chain [noteStall, modChip fun c => { c with heldWrites := c.heldWrites ++ [.registerWrite ⟨0, 0, k, 8⟩ (some v)] }] s
  else recordedWrite k v tx s

/-- A host write of register `k`. -/
def hostWriteReg (k : Nat) (v : Word) : Tx := hostAct k v (writeReg k v)

/-- The register that a host access names, if any (R359, R360). -/
def State.accKey (s : State) (a : HostAcc) : Option Nat :=
  let t := s.rf R.HIF_TILE_WIN F.HIF_TILE_WIN_TILE
  if a.func != 0 then none
  else if a.bar = 0 ∧ a.off < 0x100000 then some a.off
  else if a.bar = 2 ∧ a.off < 0x4000 ∧ t < s.numTiles then some (tileKey t a.off)
  else none

/-- Is the access 64 bits wide and 8-byte aligned (R4)? -/
def wholeAcc (a : HostAcc) : Bool := a.width == 8 && a.off % 8 == 0

/-- A host write: refused and counted unless 64 bits wide and aligned (R4, R360). -/
def registerWriteTx (a : HostAcc) (v : Word) : Tx := fun s =>
  if !wholeAcc a then incF R.HIF_STAT F.HIF_STAT_BAD_ACCESS 1 s
  else if a.func != 0 then (if a.bar = 0 ∧ a.off = 0 then doorbellWrite a.func v s else [])
  else match s.accKey a with
    | some k => hostWriteReg k v s
    | none => []

/-- A read that reaches no register returns 0. -/
def readNothing : Tx := modChip fun c => { c with readData := 0 }

/-- A host read: 0 and counted unless 64 bits wide and aligned; a VF reads HIF_TIME at offset 8 of its BAR0 and nothing else; BAR2
reads 0 while TILE is at or above the tile count (R4, R359, R360). -/
def registerReadTx (a : HostAcc) : Tx := fun s =>
  if !wholeAcc a then chain [readNothing, incF R.HIF_STAT F.HIF_STAT_BAD_ACCESS 1] s
  else if a.func != 0 then (if a.bar = 0 ∧ a.off = 8 then hostRead R.HIF_TIME s else readNothing s)
  else match s.accKey a with
    | some k => hostRead k s
    | none => readNothing s

/-- What precedes every access of a register BAR: stalled writes whose entries fit are applied first (R399), and it is an access of the
endpoint, and of the core regions where `core` says so (R435). -/
def admitAccess (core : Bool) : Tx := chain [drainWrites, accessWake 2, rouse 1, when core (rouse 2)]

/-- An access of a register BAR. -/
def accessTx (core : Bool) (tx : Tx) : Tx := whenS State.served ((admitAccess core).seq tx)

/-- A host access of a register BAR: a write of `v`, or (none) a read. The table has no row of its own for a read. -/
def registerAccessTx (a : HostAcc) (w : Option Word) : Tx := accessTx (a.bar == 2) <|
  match w with
  | some v => registerWriteTx a v
  | none => registerReadTx a

/-- REGISTER_WRITE. -/
def execRegisterWrite (a : HostAcc) (v : Option Word) (s : State) : Out :=
  if a.func ≤ 64 then commit (registerAccessTx a v) s else .refused .illFormed

/-- A host access of a data port or selector: a write, or a read. -/
def portTx (k : Nat) (w : Option Word) : Tx :=
  accessTx (isTileKey k) (match w with | some v => hostWriteReg k v | none => hostRead k)

/-- A host write of `v` to register `k` that the table has a row of its own for, with the effect `tx` (R402). -/
def actTx (k : Nat) (v : Word) (tx : Tx) : Tx := accessTx (isTileKey k) (hostAct k v tx)

/-- A register's word with further bits written as 1. -/
def State.wordWith (s : State) (k bits : Nat) : Word := s.reg k ||| BitVec.ofNat 64 bits

/-- RESUME: STR_CTL.RESUME is written. -/
def execResume (t : Nat) (s : State) : Out :=
  onTile t (actTx (R.STR_CTL t) (s.wordWith (R.STR_CTL t) 0x100) resumeTx) s
/-- GRAIN_FILL: GRN_CTL.FILL is written. -/
def execGrainFill (t : Nat) (s : State) : Out :=
  onTile t (actTx (R.GRN_CTL t) (s.wordWith (R.GRN_CTL t) 0x10000) (grainFillTx t)) s
/-- ARM: MSH_CTL.ARM is written. -/
def execArm (s : State) : Out := commit (actTx R.MSH_CTL (s.wordWith R.MSH_CTL 2) armTx) s
/-- HOST_NOMINATE: MSH_RETIRE.GO is written with the row and the site. -/
def execHostNominate (row site : Nat) (s : State) : Out :=
  commit (actTx R.MSH_RETIRE (BitVec.ofNat 64 (0x400 + site % 64 * 16 + row % 16)) (hostNominateTx row site)) s
/-- RETRAIN: FAB_PORT_CTL.RETRAIN is written. -/
def execRetrain (p : Nat) (s : State) : Out :=
  onPort p (actTx (R.FAB_PORT_CTL p) (s.wordWith (R.FAB_PORT_CTL p) 8) (retrainTx p)) s
/-- OPEN_REQ: MOD_BYPASS.OPEN_REQ is written. -/
def execOpenReq (s : State) : Out := commit (actTx R.MOD_BYPASS (s.wordWith R.MOD_BYPASS 2) openReqTx) s
/-- BYPASS_CLOSE: MOD_BYPASS.CLOSE_REQ is written. -/
def execBypassClose (s : State) : Out := commit (actTx R.MOD_BYPASS (s.wordWith R.MOD_BYPASS 4) bypassCloseTx) s

/-- SPK_TBL_DATA_ACCESS. -/
def execSpkTblDataAccess (w : Option Word) (s : State) : Out := commit (portTx R.SPK_TBL_DATA w) s
/-- TIR_CLASS_DATA_ACCESS. -/
def execTirClassDataAccess (w : Option Word) (s : State) : Out := commit (portTx R.TIR_CLASS_DATA w) s
/-- WPA_CB_DATA_ACCESS. -/
def execWpaCbDataAccess (t : Nat) (w : Option Word) (s : State) : Out := onTile t (portTx (R.WPA_CB_DATA t) w) s
/-- SFU_TBL_DATA_ACCESS. -/
def execSfuTblDataAccess (t : Nat) (w : Option Word) (s : State) : Out := onTile t (portTx (R.SFU_TBL_DATA t) w) s
/-- FAB_CMAP_DATA_READ. -/
def execFabCmapDataRead (s : State) : Out := commit (portTx R.FAB_CMAP_DATA none) s
/-- GRN_TBL_SEL_WRITE. -/
def execGrnTblSelWrite (t : Nat) (v : Word) (s : State) : Out := onTile t (portTx (R.GRN_TBL_SEL t) (some v)) s
/-- SPK_SEL_WRITE. -/
def execSpkSelWrite (v : Word) (s : State) : Out := commit (portTx R.SPK_SEL (some v)) s
/-- WPA_CB_SEL_WRITE. -/
def execWpaCbSelWrite (t : Nat) (v : Word) (s : State) : Out := onTile t (portTx (R.WPA_CB_SEL t) (some v)) s
/-- SFU_TBL_SEL_WRITE. -/
def execSfuTblSelWrite (t : Nat) (v : Word) (s : State) : Out := onTile t (portTx (R.SFU_TBL_SEL t) (some v)) s

end Sys2Proof.Machine
end

