-- ==== Sys2Proof/Machine/Routing.lean ====
section
/-! DEFINITION. Where a flit or packet goes (R50, R280–R283, R315, R316), sprocket slots (R40–R43, R45), demotion (R42, R298), the
egress of a fabric port (R305, R309–R311, R317, R324) and transfer trackers (R312). -/

namespace Sys2Proof.Machine

/-! ### Time -/

/-- The frame cycle of the last FRAME_END, once every tile has retired (R27). -/
def State.frameEnd (s : State) : Option Nat :=
  s.tileList.foldl (fun a t => match a, s.retiredAt t with | some x, some e => some (max x e) | _, _ => none) (some 0)

/-- The frame cycle at which the next tick fires (R27, R418), once it is known. -/
def State.tickAt (s : State) : Option Nat := s.frameEnd.map fun e => max s.frmLen (max (e + 1) s.chip.tickHold)

/-- Does the tick come at or before frame cycle `a`? -/
def State.tickBefore (s : State) (a : Nat) : Bool := match s.tickAt with | some t => decide (t ≤ a) | none => false

/-- Is frame cycle `a` known to be one of stretch (R43)? -/
def State.stretched (s : State) (a : Nat) : Bool :=
  decide (s.frmLen ≤ a) && (match s.tickAt with | some t => decide (a < t) | none => decide (a ≤ s.chip.fcyc))

/-- Do routers and ports stand still: frozen (R101), or held for the reference (R416)? -/
def State.meshHeld (s : State) : Bool := s.frozen || s.chip.hold == some .reference

/-- Is the slot of frame cycle `a` marked 1 in table `e` of sprocket bank `b`: 8t + q for a router port, 4,096 + p for a fabric port
(R40, R41, R45)? -/
def State.slotBit (s : State) (b e a : Nat) : Bool :=
  let j := a / 8 % 128
  (s.byte (sprocketKey (s.spkBase b + 16 * e + j / 8))).toNat.testBit (j % 8)

/-- Is the slot of frame cycle `a` marked 1 in table `e`? In frame cycles 0 to 2 the bank that was active before the tick still counts
(R36). -/
def State.slotMarked (s : State) (e a : Nat) : Bool := s.slotBit (if a < 3 then s.chip.spkPrev else s.spkActive) e a

/-- The same for a cycle that may lie before the tick, in the frame that it ended. -/
def State.slotAt (s : State) (e : Nat) (a : Int) : Bool :=
  if 0 ≤ a then s.slotMarked e a.toNat else s.slotBit s.chip.spkPrev e (s.chip.lastTick + a).toNat

/-- Was the cycle, which may lie before the tick, one of stretch? -/
def State.stretchedAt (s : State) (a : Int) : Bool :=
  if 0 ≤ a then s.stretched a.toNat else decide ((s.frmLen : Int) ≤ s.chip.lastTick + a)

/-! ### The mesh -/

/-- Difference of two numbers. -/
def absDiff (a b : Nat) : Nat := (a - b) + (b - a)

/-- Hops between two tiles (spec/02 Travel times). -/
def State.hops (s : State) (t u : Nat) : Nat := absDiff (s.tileX t) (s.tileX u) + absDiff (s.tileY t) (s.tileY u)

/-- The tile whose router an address leads to. The tile field of a chip register's address is ignored (R12): where it names no tile of the
part, it counts modulo the number of tiles (log entry 53). -/
def State.homeTile (s : State) (t : Nat) : Nat := t % s.numTiles

/-- Attachment tile of a port stop (R283). -/
def State.attach (s : State) (p : Nat) : Nat :=
  if p < 4 then (1 + 4 * p) * s.cols
  else if p < 8 then (2 + 4 * (p - 4)) * s.cols + s.cols - 1
  else if p < 12 then 3 + 8 * (p - 8)
  else 15 * s.cols + (if p = 12 then 7 else 23)

/-- The router port that leads from the attachment tile to the stop. -/
def stopDir (p : Nat) : Nat := if p < 4 then 1 else if p < 8 then 0 else if p < 12 then 3 else 2

/-- The output port of a flit at its router (R282, R283). -/
def State.outPort (s : State) (f : Flit) : Nat :=
  let x := s.tileX f.cur
  let y := s.tileY f.cur
  let u := s.tileX f.dstTile
  let v := s.tileY f.dstTile
  if x < u then 0 else if u < x then 1 else if y < v then 2 else if v < y then 3
  else match f.dstPort with | some p => stopDir p | none => 4

/-- Is the flit at the last router of its way through the mesh? -/
def Flit.atEnd (f : Flit) : Bool := f.cur == f.dstTile

/-- The tile that output port `q` of tile `t` leads to. -/
def State.nextTile (s : State) (t q : Nat) : Nat :=
  match q with | 0 => t + 1 | 1 => t - 1 | 2 => t + s.cols | _ => t - s.cols

/-- The input port at the far end of output port `q`. -/
def farSide (q : Nat) : Nat := match q with | 0 => 1 | 1 => 0 | 2 => 3 | _ => 2

/-! ### Demotion (R42, R298) -/

/-- A demotion at tile or port `u` is counted. -/
def noteDemote (u : Nat) (port : Bool) : Tx := chain [
  incF R.MSH_DEMOTE_CNT F.MSH_DEMOTE_CNT_DEMOTED 1,
  setF R.MSH_DEMOTE_LAST F.MSH_DEMOTE_LAST_UNIT u, setB R.MSH_DEMOTE_LAST F.MSH_DEMOTE_LAST_PORT port,
  when (!port) (noteSig 0x07 u)]

/-- A slot missed. -/
def noteMiss : Tx := incF R.SPK_MISS_CNT F.SPK_MISS_CNT_MISS 1
/-- A collision lost. -/
def noteCollide : Tx := incF R.SPK_MISS_CNT F.SPK_MISS_CNT_COLLIDE 1

/-! ### Modules (R315, R316) -/

/-- The egress port towards module `d` and whether the packet must be demoted because the chosen twin is not up and it takes the other;
none where the routing table has no way (R316). -/
def State.route (s : State) (d srcTile dstTile : Nat) : Option (Nat × Bool) :=
  let own := s.position
  let g := R.FAB_GROUTE (d / 16)
  let away := d / 16 != own / 16
  if away && !s.rb g F.FAB_GROUTE_VALID then none
  else
    let dest := if away then s.rf g F.FAB_GROUTE_EXIT_POS else d % 16
    let step := match ringStep (own % 4) (dest % 4) 0 4 with
      | some p => some p
      | none => ringStep (own / 4 % 4) (dest / 4 % 4) 2 6
    match step with
    | some p =>
      let tw := (srcTile + dstTile) % 2
      if s.portUp (p + tw) then some (p + tw, false) else some (p + 1 - tw, true)
    | none => if away then some (8 + s.rf g F.FAB_GROUTE_EXIT_PORT, false) else none

/-! ### Trackers (R312) -/

/-- FAB_TRK_STAT follows the trackers. -/
def noteTrackers : Tx := fun s =>
  let o := (s.chip.xfers.filter (·.tracked)).length
  let n := s.chip.inbound.length
  chain [
    setF R.FAB_TRK_STAT F.FAB_TRK_STAT_OUT_USED o, setF R.FAB_TRK_STAT F.FAB_TRK_STAT_IN_USED n,
    setF R.FAB_TRK_STAT F.FAB_TRK_STAT_PEAK (max (s.rf R.FAB_TRK_STAT F.FAB_TRK_STAT_PEAK) (o + n))] s

/-- Is a tracker free for an outbound transfer: 8,192 of the 32,768 are kept for inbound ones? -/
def State.trackerFree (s : State) : Bool :=
  let out := (s.chip.xfers.filter (·.tracked)).length
  decide (out < 24576) && decide (out + s.chip.inbound.length < 32768)

/-- The first transfer tag from `n` on that no transfer of the module holds, trying `fuel` tags. -/
def Chip.freeTag (c : Chip) : Nat → Nat → Nat
  | 0, n => n % 65536
  | fuel + 1, n => if c.xfers.any (fun x => x.tracked && x.ttag == n % 65536) then c.freeTag fuel (n + 1) else n % 65536

/-! ### Packets at a port's egress -/

/-- Payload flits. -/
def pktFlits (k : Packet) : Nat := k.payload.length / 64

/-- Bytes of a packet in the retransmit buffer (R309, R311). -/
def pktSize (k : Packet) : Nat := 32 + k.payload.length

/-- Is there room for `n` bytes in the 512 KiB retransmit buffer (R309, R310)? -/
def PortS.room (x : PortS) (n : Nat) : Bool := decide ((x.tx.map pktSize).foldl (· + ·) 0 + n ≤ 0x80000)

/-- Credit an unscheduled packet takes, in 64-byte units (R306, R307). -/
def pktCost (k : Packet) : Nat := max 1 (pktFlits k)

/-- The header of a packet, its CRC field as given (Table: Packet header). -/
def packetHeader (k : Packet) (crc : Nat) : List Byte :=
  let bit (b : Bool) (i : Nat) := b.toNat * 2 ^ i
  leBytes 8 (k.ptype % 16 + bit k.sched 4 + bit k.demoted 5 + bit k.ecnCe 6 + bit k.ecnEcho 7 + k.poison % 64 * 2 ^ 8 +
      k.pkey % 65536 * 2 ^ 16 + k.ttag % 65536 * 2 ^ 32 + k.seq % 65536 * 2 ^ 48) ++
    leBytes 8 k.dst ++
    leBytes 8 (k.srcMod % 1024 + k.srcTile % 512 * 2 ^ 10 + k.srcStream % 4 * 2 ^ 19 + pktFlits k % 8 * 2 ^ 21 + k.tlen % 32768 * 2 ^ 24 +
      bit k.retx 39 + k.wm % 4 * 2 ^ 40 + k.gm % 4 * 2 ^ 42 + k.hops % 16 * 2 ^ 44 + k.lseq % 65536 * 2 ^ 48) ++
    leBytes 8 (k.stampCyc % 2 ^ 24 + k.stampFn % 256 * 2 ^ 24 + crc % 2 ^ 32 * 2 ^ 32)

/-- The CRC over the header, with its own field 0, and the payload (R311). -/
def packetCrc (k : Packet) : Nat := crc32 (packetHeader k 0 ++ k.payload)

/-- The bytes of a packet on the link (R311). -/
def packetWire (k : Packet) : List Byte := packetHeader k (packetCrc k) ++ k.payload

/-- A packet goes out: it takes the next LSEQ, and its copy enters the retransmit buffer; a resent one's takes the place
of the lost one (R309). -/
def sendPacket (p : Nat) (k : Packet) : Tx := chain [
  rouse (portDom p),
  modPort p fun x =>
  { x with
    tx := (if k.retx then x.tx.filter (·.lseq != k.lseq) else x.tx) ++ [{ k with lseq := x.lseq }]
    lseq := (x.lseq + 1) % 65536 }]

/-- Cycles that `n` flits take at 48 bytes a cycle (R44). -/
def egressCycles (n : Nat) : Nat := (64 * n + 47) / 48

/-- Cycles that an unscheduled packet takes at port `p`: twice as many on a link at half rate (R320). -/
def State.sendCycles (s : State) (p : Nat) (k : Packet) : Nat :=
  max 1 (egressCycles (pktFlits k)) * if s.portState p = 4 then 2 else 1

/-- Is frame cycle `a` one of stretch as far as is known: in stretch whose end is not known, later cycles count as stretch too
(DESIGN CHOICE, log entry 52)? -/
def State.inStretch (s : State) (a : Nat) : Bool :=
  s.stretched a || (s.tickAt.isNone && decide (s.frmLen ≤ s.chip.fcyc) && decide (s.frmLen ≤ a))

/-- May unscheduled traffic use the egress of port `p` in frame cycle `a`: a slot marked 0, stretch, a capture's hold, or no frames
running (R43, R404)? -/
def State.egressOpen (s : State) (p a : Nat) : Bool :=
  !s.running || s.chip.hold.isSome || s.inStretch a || !s.slotMarked (4096 + p) a

/-- The cycle by which port `p`'s egress has had `n` cycles open to unscheduled traffic from `a` on, looking at `fuel` cycles. -/
def State.openEnd (s : State) (p : Nat) : Nat → Nat → Nat → Option Nat
  | _, 0, a => some a
  | 0, _ + 1, _ => none
  | fuel + 1, n + 1, a => if s.egressOpen p a then s.openEnd p fuel n (a + 1) else s.openEnd p fuel (n + 1) (a + 1)

/-- The cycle by which unscheduled packet `k` has left port `p`: the link is up, there is credit for it and, for one that is not
resent, room in the retransmit buffer, and slots marked 0 carry it (R43, R309, R310). None where it must wait. -/
def State.leaves (s : State) (p : Nat) (k : Packet) : Option Nat :=
  let x := s.port p
  if s.portUp p && decide (pktCost k ≤ x.credit) && (k.retx || x.room (pktSize k)) then
    s.openEnd p 3072 (s.sendCycles p k) (max x.freeU s.chip.fcyc)
  else none

/-- Unscheduled packets go out in order. -/
def drainPort (p : Nat) : Tx := fun s =>
  forEach (s.port p).queue (fun k => whenS (fun s' => (s'.port p).queue.head? == some k) fun s' =>
    match s'.leaves p k with
    | none => []
    | some e => chain [
        modPort p fun x => { x with queue := x.queue.tail, credit := x.credit - pktCost k, freeU := e },
        sendPacket p k] s') s

/-- Is what joins the unscheduled queue of port `p` marked: it is already, or the queue has reached PORT_TH flits (R324)? -/
def State.marks (s : State) (p : Nat) (k : Packet) : Bool :=
  k.ecnCe || decide (s.rf R.FAB_ECN_THRESH F.FAB_ECN_THRESH_PORT_TH ≤ (s.port p).queued)

/-- A packet joins the unscheduled queue. -/
def queuePacket (p : Nat) (k : Packet) : Tx := fun s =>
  chain [modPort p fun x => { x with queue := x.queue ++ [{ k with sched := false, ecnCe := s.marks p k }] }, drainPort p] s

/-- Does a scheduled packet of transfer `tag` that takes `n` cycles of port `p` from `b` on want one that another transfer took? -/
def PortS.collides (x : PortS) (tag : Nat) (b : Int) (n : Nat) : Bool :=
  x.booked.any fun y => y.2.2 != tag && decide (y.1 < b + n) && decide (b < y.2.1)

/-- Why a scheduled packet of transfer `tag` whose slot comes at cycle `b` of the frame is demoted at port `p` (R42, R310, R320): 0
passes, 1 missed its slot, 2 collides with a transfer that was processed before it, 3 another reason. -/
def State.egressLoss (s : State) (p tag : Nat) (k : Packet) (b : Int) : Nat :=
  let n := egressCycles (pktFlits k)
  if s.chip.hold.isSome || s.stretchedAt b || s.portState p != 3 || !(s.port p).room (pktSize k) then 3
  else if !(List.range n).all fun i => s.slotAt (4096 + p) (b + i) then 1
  else if (s.port p).collides tag b n then 2
  else 0

/-- The stamp of a packet that leaves at cycle `b`: frame cycle and frame number, of the frame before where `b` lies before the tick
(R305). -/
def State.stamp (s : State) (b : Int) : Nat × Nat :=
  if 0 ≤ b then (b.toNat, s.frame) else ((s.chip.lastTick + b).toNat, s.frame - 1)

/-- A scheduled packet leaves port `p` at cycle `b`, stamped, or is demoted for reason `why`: one packet counts one miss or collision
and one demotion, however many flits it has (R42, R305; log entry 52). -/
def leaveAt (p tag : Nat) (b : Int) (why : Nat) (k : Packet) : Tx := fun s =>
  if why = 0 then chain [
    modPort p fun x => { x with booked := (b, b + egressCycles (pktFlits k), tag) :: x.booked },
    sendPacket p { k with stampCyc := (s.stamp b).1 % 2 ^ 24, stampFn := (s.stamp b).2 % 256 }] s
  else chain [
    when (why == 1) noteMiss, when (why == 2) noteCollide, noteDemote p true,
    queuePacket p { k with demoted := true }] s

/-- The cycle, `a` or later, from which no earlier packet of transfer `tag` takes the egress: packets of one transfer follow each other
at 48 bytes a cycle (R44). -/
def PortS.follows (x : PortS) (tag : Nat) (a : Int) : Int :=
  let b := (x.booked.filter (·.2.2 == tag)).foldl (fun m y => max m y.2.1) a
  (x.late.filter (·.2.1 == tag)).foldl (fun m y => max m (y.1 + egressCycles (pktFlits y.2.2))) b

/-- A packet of transfer `tag` is ready at port `p`'s egress at frame cycle `a`. A scheduled one leaves at its slot (R44, R51, R305).
One whose cycle is FRM_LEN or more, in a frame that may still end without stretch, is held until the tick shows to which frame its
slot belongs. -/
def egress (p tag : Nat) (a : Int) (k : Packet) : Tx := fun s =>
  let b := (s.port p).follows tag a
  if !k.sched then queuePacket p k s
  else if s.running && s.chip.hold.isNone && decide ((s.frmLen : Int) ≤ b) && !s.stretchedAt b then
    modPort p (fun x => { x with late := x.late ++ [(b.toNat, tag, k)] }) s
  else leaveAt p tag b (s.egressLoss p tag k b) k s

/-- The tick fires at frame cycle `n`: scheduled packets whose cycle lay before it were in stretch, and are demoted (R43). -/
def lateStretch (n : Nat) : Tx := fun s =>
  forEach s.chip.ports (fun q => forEach (q.2.late.filter fun e => decide (e.1 < n)) fun e => leaveAt q.1 e.2.1 e.1 3 e.2.2) s

/-- After the bank switch of a tick, the scheduled packets whose slots lie in the new frame leave or miss them (R41, R51). -/
def tickLate : Tx := fun s =>
  forEach s.chip.ports (fun q => forEach q.2.late fun e => chain [
    look fun s' => leaveAt q.1 e.2.1 e.1 (s'.egressLoss q.1 e.2.1 e.2.2 e.1) e.2.2,
    modPort q.1 fun x => { x with late := x.late.tail }]) s

/-- The payload of a read request (Table: Packet types): where the data returns to, and TLEN. -/
def reqPayload (ret len : Nat) : List Byte := padTo 64 (leBytes 8 ret ++ leBytes 2 len)

/-- The packet of some flits of one transfer, the lowest address first (R311). -/
def State.packetOf (s : State) (fs : List Flit) : Option Packet :=
  match fs with
  | [] => none
  | f :: _ => some {
      ptype := f.kind, sched := fs.all (·.sched), demoted := fs.any (·.demoted), ecnCe := fs.any (·.ce), ecnEcho := false
      poison := (fs.zipIdx.map fun x => x.1.poison.toNat * 2 ^ x.2).foldl (· + ·) 0
      pkey := s.tw R.FAB_JOB_PKEY % 65536, ttag := f.ttag, seq := f.pkt, dst := f.g, srcMod := f.srcMod, srcTile := f.srcTile
      srcStream := f.stream, tlen := f.len, retx := false, wm := f.wm, gm := f.gm, hops := 0, lseq := 0, stampCyc := 0, stampFn := 0
      payload := if f.kind = 1 then reqPayload f.ret f.len else fs.flatMap (·.data) }

/-- The transfer that a packet belongs to: the module that numbered it, its tag, and whether it carries read data (R312). -/
def xferTag (k : Packet) : Nat := ((if k.ptype = 2 then 1024 + gMod k.dst else k.srcMod) * 65536) + k.ttag

/-- Flits of the packet that a flit belongs to. -/
def Flit.packetLen (f : Flit) : Nat := if f.kind = 1 then 1 else min 6 (f.len - 6 * f.pkt)

/-- A flit latches at port stop `p` at frame cycle `a`; with the last of its packet the packet is at the egress, which it reached with
its first (R283, R311). -/
def portLatch (p : Nat) (f : Flit) (a : Nat) : Tx := fun s =>
  let x := s.port p
  let mine (g : Flit) : Bool := g.srcMod == f.srcMod && gMod g.g == gMod f.g && g.ttag == f.ttag && g.pkt == f.pkt && g.kind == f.kind
  let asm : List (Int × Flit) := x.asm ++ [((a : Int), f)]
  let fs := asm.filter fun y => mine y.2
  if fs.length < f.packetLen then modPort p (fun x => { x with asm := asm }) s
  else
    let first := (fs.map (·.1)).foldl min (a : Int)
    chain [
      modPort p fun x => { x with asm := x.asm.filter fun y => !mine y.2 },
      match s.packetOf ((fs.foldl (fun m y => Sparse.insert y.2.id y.2 m) []).map (·.2)) with
      | some k => egress p (xferTag k) first k
      | none => skip] s

end Sys2Proof.Machine
end

