-- ==== Sys2Proof/Machine/Transfer.lean ====
section
/-! DEFINITION. Transfers (R47–R58, R86–R89, R280–R284, R312–R314): the D stream's DCPY, DMOV, DGSET and DFENCE, the hop of a flit,
what happens to data that arrives, the landing queue and remote reads. -/

namespace Sys2Proof.Machine

/-! ### Data that arrives -/

/-- The global address `n` bytes on, within its space's offsets. -/
def gAdd (g n : Nat) : Nat := gaddr (gMod g) (gTile g) (gSpace g) ((gOff g + n) % 0x40000000000)

/-- Where the data of a flit belongs: its own transfer of this module, or one that another module sent (R312). -/
structure Owner where
  xid : Nat
  srcMod : Nat
  ttag : Nat
  inbound : Bool
deriving DecidableEq, Repr

/-- The owner of a flit's data. -/
def Flit.owner (f : Flit) : Owner := ⟨f.xid, f.srcMod, f.ttag, f.inbound⟩

/-- The owner of a waiting write's data. -/
def Landing.owner (l : Landing) : Owner := ⟨l.xid, l.srcMod, l.ttag, l.inbound⟩

/-- Bytes that granule `g` takes of a span of `n` bytes from `off`. -/
def granuleBytes (off n g : Nat) : Nat :=
  ((spanParts (wrapOff 0 off) n).filter fun p => wrapOff 0 p.1 / 256 == g).foldl (fun a p => a + p.2) 0

/-- The granules that a span fills, with the bytes each awaits (R55). -/
def awaited (off n : Nat) : List (Nat × Nat) := (granulesOf (wrapOff 0 off) n).map fun g => (g, granuleBytes off n g)

/-- `n` bytes from `off` landed: what the granules still await. -/
def landedOf (gs : List (Nat × Nat)) (off n : Nat) : List (Nat × Nat) := gs.map fun g => (g.1, g.2 - granuleBytes off n g.1)

/-- `n` bytes from `off` landed, readable from cycle `d`: the granules of `gs` that they touch are readable no sooner, and those that await
no byte more are full (R53, R55). -/
def fillLanded (t off n d : Nat) (gs : List (Nat × Nat)) : Tx :=
  forEach gs fun g => chain [
    when (granuleBytes off n g.1 != 0) (noteAvail t (256 * g.1) 256 d), when (g.2 == 0) (setFull t g.1 true)]

/-- Does the transfer write into the tile that issued it (R25, R86)? -/
def Xfer.own (x : Xfer) (pos : Nat) : Bool := x.dstMod == pos && x.dstTile == x.tile

/-- A transfer of this module has completed at cycle `d`: one into the issuing tile is complete at once, another when its
acknowledgement is back (R25, R86). A commit whose notify it is is complete no sooner (R277). -/
def finishXfer (x : Xfer) (d : Nat) : Tx := fun s =>
  let own := x.own s.position
  let back := if own || x.dstMod != s.position then 0 else 6 + 3 * s.hops x.tile (s.homeTile x.dstTile)
  chain [
    modChip fun c => { c with xfers := c.xfers.filter (·.id != x.id) },
    when x.tracked noteTrackers,
    when (decide (x.stream < 4)) (modStream x.tile x.stream fun y => { y with xdone := max y.xdone (d + back) }),
    when own (chain [
      busyUntil x.tile d,
      modTile x.tile fun ts => { ts with kvInflight := ts.kvInflight.map fun e => if e.2.2 = x.id then (e.1, max e.2.1 d, e.2.2) else e }])] s

/-- `n` bytes of a transfer of this module landed at offset `off` of tile `t` at cycle `d`. -/
def countXfer (id t off n d : Nat) : Tx := fun s =>
  match s.chip.xfers.find? (·.id == id) with
  | none => []
  | some x =>
    let gs := landedOf x.grans off n
    let x' : Xfer := { x with left := x.left - n, grans := gs.filter (·.2 != 0), seen := max x.seen d }
    chain [
      modChip fun c => { c with xfers := c.xfers.map fun y => if y.id = id then x' else y },
      fillLanded t off n d gs,
      when (x'.left == 0 && (x.own s.position || !x.tracked)) (finishXfer x' x'.seen)] s

/-- The COMPLETION of an inbound transfer, under the key of its packets (R313, R322, R324). -/
def completionPacket (pos : Nat) (i : Inbound) : Packet :=
  { ptype := 3, sched := false, demoted := false, ecnCe := false, ecnEcho := i.ce, poison := 0, pkey := i.pkey, ttag := i.ttag, seq := 0
    dst := gaddr i.srcMod i.srcTile 0 0, srcMod := pos, srcTile := 0, srcStream := i.stream, tlen := i.tlen, retx := false, wm := 0
    gm := 0, hops := 0, lseq := 0, stampCyc := 0, stampFn := 0, payload := [] }

/-- A packet of this module's port complex leaves for its destination module (R316). -/
def sendFromPorts (k : Packet) : Tx := fun s =>
  match s.route (gMod k.dst) k.srcTile (gTile k.dst) with
  | some (p, dem) => queuePacket p { k with demoted := k.demoted || dem } s
  | none => []

/-- `n` bytes of an inbound WRITE transfer landed at offset `off` of tile `t` at cycle `d`; at its count the transfer is complete
and its COMPLETION is sent (R313, R314). -/
def countInbound (m tag t off n d : Nat) : Tx := fun s =>
  match s.chip.inbound.find? (fun i => i.srcMod == m && i.ttag == tag) with
  | none => []
  | some i =>
    let gs := landedOf i.grans off n
    let i' : Inbound := { i with bytes := i.bytes + n, grans := gs.filter (·.2 != 0) }
    chain [
      modChip fun c => { c with inbound := c.inbound.map fun j => if j.srcMod = m ∧ j.ttag = tag then i' else j },
      fillLanded t off n d gs,
      when (decide (64 * i.tlen ≤ i'.bytes)) (chain [
        modChip fun c => { c with inbound := c.inbound.filter fun j => !(j.srcMod == m && j.ttag == tag) },
        noteTrackers,
        sendFromPorts (completionPacket s.position i')])] s

/-- The count of landed bytes. -/
def countLanded (o : Owner) (t off n d : Nat) : Tx :=
  if o.inbound then countInbound o.srcMod o.ttag t off n d else countXfer o.xid t off n d

/-- Key of the register at an offset of space 3 or 7. -/
def spaceKey (sp t off : Nat) : Nat := if sp = 3 then tileKey t (wrapOff 3 off) else wrapOff 7 off

/-- Write bytes into registers, eight at a time. -/
def writeWords (sp t : Nat) : Nat → List (List Byte) → Tx
  | _, [] => skip
  | off, w :: ws => chain [writeReg (spaceKey sp t off) (BitVec.ofNat 64 (leNat w)), writeWords sp t (off + 8) ws]

/-- A write into instruction memory, which takes none while a job runs (R74, R75). -/
def imemWrite (t off : Nat) (data : List Byte) : Tx := fun s =>
  if s.running then incF (R.STR_STAT t) F.STR_STAT_IMEM_REJECT 1 s
  else forEach (pieces 8 data).zipIdx (fun p => fun _ => [.mem (memKey 2 t (wrapOff 2 (off + 8 * p.2))) p.1]) s

/-- A write into the table banks of tile `t`, word by word: one into an active bank is refused while a job runs (R230). The codebook
banks take no transfer: R159 lists their writers. -/
def tableWrite (t off : Nat) (data : List Byte) : Tx := forEach (pieces 8 data).zipIdx fun p => fun s =>
  let o := wrapOff 5 (off + 8 * p.2)
  let put : Tx := fun _ => [.mem (memKey 5 t o) p.1, .err (memKey 5 t o) (List.replicate p.1.length 0)]
  if o < 0x40000 then []
  else if s.running && (o - 0x40000) / 0x8000 == s.rf (R.SFU_STAT t) F.SFU_STAT_ACTIVE then
    incF (R.SFU_STAT t) F.SFU_STAT_WR_REJECT 1 s
  else put s

/-- The rank of arriving data at a bank: the D stream's own move, a cue injection, or what came over the mesh; in the tier all rank as
D-stream writes (Table: Bank priority, log entry 56). -/
def State.landRank (s : State) (sp : Nat) (o : Owner) : Nat :=
  if sp = 1 || o.inbound then 4
  else match s.chip.xfers.find? (·.id == o.xid) with
    | some x => if 4 ≤ x.stream then 5 else if x.own s.position then 3 else 4
    | none => 4

/-- The cycle in which data that would be readable at cycle `d` is, once its banks are granted (R109, R113, R114). -/
def State.landAt (s : State) (sp t off n : Nat) (o : Owner) (d : Nat) : Nat :=
  let back := seenAfter sp
  if 1 < sp then d
  else (spanParts off n).foldl (fun a p => max a (s.grantAt t sp p.1 (s.landRank sp o) (d - back) true + back)) d

/-- Data lands at an offset of a space of tile `t`, readable at cycle `d` unless a bank delays it. Only the fill engine writes a grain
table (R243). -/
def land (sp t off : Nat) (data : List Byte) (poison : Bool) (o : Owner) (d : Nat) : Tx := fun s =>
  let e := s.landAt sp t off data.length o d
  let back := seenAfter sp
  chain [
  forEach (spanParts off data.length) (fun p => takeBank t sp p.1 (s.landRank sp o) (d - back) true),
  (if sp = 0 then wrBytes 0 t off data poison e
    else if sp = 1 then tierWriteLine t off data poison e
    else if sp = 2 then imemWrite t off data
    else if sp = 4 then skip
    else if sp = 5 then tableWrite t off data
    else writeWords sp t off (pieces 8 data)),
  countLanded o t off data.length e] s

/-- Must a held write that arrives at cycle `d` wait: a granule of it is full, or an earlier write waits for it (R53, R57)? -/
def State.heldBack (s : State) (t off n d : Nat) : Bool :=
  (granulesOf (wrapOff 0 off) n).any fun g => s.isFull t g || decide (d < s.fullTill t g) || (s.tile t).landing.any fun l =>
    (granulesOf (wrapOff 0 l.off) l.data.length).contains g

/-- Data arrives at its tile: it lands, or waits in the landing queue (R57). -/
def arrive (sp t off wm : Nat) (data : List Byte) (poison : Bool) (o : Owner) (d : Nat) : Tx := fun s =>
  if sp == 0 && wm == 2 && s.heldBack t off data.length d then
    modTile t (fun ts => { ts with landing := ts.landing ++ [⟨off, data, wm, poison, o.xid, o.srcMod, o.ttag, o.inbound⟩] }) s
  else land sp t off data poison o d s

/-- Has the landing queue no room for a flit (16 KiB, R57)? -/
def State.landingFull (s : State) (t : Nat) : Bool := decide (256 ≤ (s.tile t).landing.length)

/-- HELD_WRITE_LAND: the first waiting write whose granules are empty and that no earlier one precedes lands. -/
def heldWriteLandTx (t : Nat) : Tx := fun s =>
  if s.meshHeld then []
  else
    let ls := (s.tile t).landing
    let free (i : Nat) (l : Landing) : Bool := (granulesOf (wrapOff 0 l.off) l.data.length).all fun g =>
      !s.fullNow t g && !(ls.take i).any fun e => (granulesOf (wrapOff 0 e.off) e.data.length).contains g
    match ls.zipIdx.find? fun x => free x.2 x.1 with
    | some (l, i) => chain [
        modTile t fun ts => { ts with
          landing := ts.landing.eraseIdx i, roomAt := if s.landingFull t then s.chip.fcyc + 1 else ts.roomAt },
        land 0 t l.off l.data l.poison l.owner s.chip.fcyc] s
    | none => []

/-- HELD_WRITE_LAND. -/
def execHeldWriteLand (t : Nat) (s : State) : Out := onTile t (heldWriteLandTx t) s

/-! ### Flits -/

/-- A flit with nothing in it yet. -/
def flit0 : Flit := ⟨0, 0, 0, 0, 4, 0, none, false, false, false, 0, [], 0, 0, 0, 0, 0, 0, 0, 1, 0, false, false, 0, false⟩

/-- The flits of some data: one for every 64 bytes, each at its output from its own cycle of `cs` on (R88). -/
def dataFlits (base : Flit) (cs : List Nat) (bs : List PByte) : List Flit :=
  (pieces 64 bs).zipIdx.map fun p => { base with
    id := base.id + p.2, poison := ppoison p.1, data := pdata p.1, g := gAdd base.g (64 * p.2), pkt := p.2 / 6, cyc := cs.getD p.2 0 }

/-- A flit enters an input port from its source; an unscheduled one that finds the port's 8 places taken waits there for a credit
(R284). -/
def Chip.enter (c : Chip) (f : Flit) : Chip :=
  { c with flits := c.flits ++ [{ f with wait := !f.sched && decide (8 ≤ c.held f.cur f.inPort) }] }

/-- Flits enter the mesh. -/
def inject (fs : List Flit) : Tx := modChip fun c => { fs.foldl Chip.enter c with nextId := c.nextId + fs.length }

/-- An unscheduled flit left input port `p` of tile `t` in cycle `a`: where 8 or more stood there, no flit comes on its credit before the
next cycle, and once fewer than 8 are left the first one that waits at the port's source takes a place (R284). -/
def creditBack (t p a : Nat) : Tx := modChip fun c =>
  let c := if c.held t p < 7 then c else { c with credAt := (8 * t + p, a + 1) :: c.credAt.filter (·.1 != 8 * t + p) }
  match c.flits.find? fun f => f.wait && f.cur == t && f.inPort == p with
  | none => c
  | some f =>
    if 8 ≤ c.held t p then c
    else { c with flits := c.flits.map fun g => if g.id = f.id then { g with wait := false, cyc := max g.cyc (a + 1) } else g }

/-- A flit leaves the router of the tile that issued its transfer (R25); a cue stream's transfer is no tile's. -/
def leaveSource (f : Flit) (a : Nat) : Tx := when (f.inPort == 4 && decide (f.kind ≤ 1) && !f.inbound) <| chain [
  modChip fun c => { c with xfers := c.xfers.map fun x => if x.id = f.xid then { x with inRouter := x.inRouter - 1 } else x },
  when (decide (f.stream < 4)) (busyUntil f.cur (a + 1))]

/-- A read request reaches its owner (R49). -/
def requestOf (f : Flit) (d : Nat) : ReadReq :=
  ⟨f.id, gSpace f.g, gOff f.g, f.len, f.gm, f.sched, gMod f.ret, gTile f.ret, gOff f.ret, gSpace f.ret, f.wm, f.xid, f.ttag, f.stream, d⟩

/-- The rate limit of module `d`, in bytes a period (R325). -/
def State.rateOf (s : State) (d : Nat) : Nat := (s.chip.rate.find? (·.1 == d)).elim (64 * s.rf R.FAB_ECN_CTL F.FAB_ECN_CTL_MAX) (·.2)

/-- Bytes that this module has sent to module `d` in the current sprocket period (R325). -/
def State.sentTo (s : State) (d : Nat) : Nat :=
  ((s.chip.sent.filter fun x => x.1 == d && decide (x.2.1 ≤ s.chip.fcyc / 1024)).map (·.2.2)).foldl (· + ·) 0

/-- A marked completion or READ_DATA from module `d` reduces its limit, once a period; limits are kept while FAB_ECN_CTL.EN is 1
(R325). -/
def reduceRate (d : Nat) : Tx := fun s =>
  if !s.rb R.FAB_ECN_CTL F.FAB_ECN_CTL_EN || s.chip.marked.contains d then []
  else
    let r := s.rateOf d
    let r' := max 64 (r - r / 2 ^ s.rf R.FAB_ECN_CTL F.FAB_ECN_CTL_DEC)
    modChip (fun c => { c with rate := (d, r') :: c.rate.filter (·.1 != d), marked := d :: c.marked }) s

/-- The congestion mark that a flit brings to its destination: a reader sees it on READ_DATA, the tracker of a WRITE transfer keeps it for
the COMPLETION (R324, R325). -/
def noteMark (f : Flit) : Tx := fun s =>
  if !f.ce then []
  else if f.inbound then modChip (fun c => { c with inbound := c.inbound.map fun i =>
    if i.srcMod = f.srcMod ∧ i.ttag = f.ttag then { i with ce := true } else i }) s
  else when (f.kind == 2 && f.srcMod != s.position) (reduceRate f.srcMod) s

/-- A flit passes local delivery at frame cycle `a` (R47: readable four cycles later, three more in the tier, R48). -/
def deliver (f : Flit) (a : Nat) : Tx :=
  let sp := gSpace f.g
  let d := a + 4 + (if sp = 1 then 3 else 0)
  if f.kind = 1 then modTile f.cur fun ts => { ts with reads := ts.reads ++ [requestOf f (a + 4)] }
  else chain [noteMark f, arrive sp f.cur (gOff f.g) f.wm f.data f.poison f.owner d]

/-- The flit passes output `q` of its router in frame cycle `a` (Table: Router pipeline). -/
def passFlit (f : Flit) (q a : Nat) : Tx := fun s => chain [
  modChip fun c => { c with taken := c.taken ++ [(8 * f.cur + q, a)] },
  leaveSource f a,
  modChip fun c => { c with flits := c.flits.filter (·.id != f.id) },
  when (!f.sched) (creditBack f.cur f.inPort a),
  if f.atEnd then match f.dstPort with
    | none => deliver f a
    | some p => portLatch p f (a + 2)
  else modChip fun c => { c with flits := c.flits ++ [{ f with cur := s.nextTile f.cur q, inPort := farSide q, cyc := a + 3 }] }] s

/-- May the flit leave its router: while the landing queue of its tile is full the router holds every flit for the tile (R57)? -/
def State.takes (s : State) (f : Flit) : Bool := !f.atEnd || f.dstPort.isSome || !s.landingFull f.cur

/-- The cycle from which the next place has room for the flit: the landing queue, where it was full, or the next router's input port,
where its credits were out (R57, R284). -/
def State.roomFrom (s : State) (f : Flit) : Nat :=
  if f.atEnd then (if f.dstPort.isSome then 0 else (s.tile f.cur).roomAt)
  else
    let q := s.outPort f
    ((s.chip.credAt.find? (·.1 == 8 * s.nextTile f.cur q + farSide q)).map (·.2)).getD 0

/-- A scheduled flit is demoted at frame cycle `a` and competes from the next cycle on (R42). -/
def demoteFlit (f : Flit) (a : Nat) : Tx := chain [
  noteDemote f.cur false,
  modChip fun c => { c with flits := c.flits.map fun g =>
    if g.id = f.id then { g with sched := false, demoted := true, cyc := a + 1 } else g }]

/-- Does the frame's end wait for flit `g`: one that has yet to leave the router of the tile that issued it, or that brings data which
the issuing tile awaits (R25)? -/
def State.endsAfter (s : State) (g : Flit) : Bool := !g.inbound && s.chip.xfers.any fun x =>
  x.id == g.xid && decide (x.stream < 4) && (x.own s.position || (g.inPort == 4 && g.cur == x.tile))

/-- Is frame cycle `a` of flit `f` one of stretch: it is known to be, or the frame's end waits for a flit no sooner there, or in the same
router (R25, R43)? -/
def State.stretchOf (s : State) (f : Flit) (a : Nat) : Bool :=
  s.stretched a || (s.tickAt.isNone && decide (s.frmLen ≤ a) && s.chip.flits.any fun g =>
    s.endsAfter g && (decide (a < g.cyc + 2) || g.cur == f.cur))

/-- Is every slot free to both classes at frame cycle `a`: stretch (R43), or the hold of a capture (R404)? -/
def State.openSlots (s : State) (f : Flit) (a : Nat) : Bool := s.chip.hold.isSome || s.stretchOf f a

/-- Is it still open whether frame cycle `a` belongs to stretch or to the next frame, or is the tick due before it? -/
def State.undecided (s : State) (f : Flit) (a : Nat) : Bool := decide (s.frmLen ≤ a) && !s.openSlots f a

/-- Has output `o` passed a flit in cycle `a`? An output passes at most one a cycle (R280). -/
def State.outTaken (s : State) (o a : Nat) : Bool := s.chip.taken.contains (o, a)

/-- Does another scheduled flit with a lower input port want the same output in the same cycle (R42)? -/
def State.beaten (s : State) (f : Flit) (q : Nat) : Bool := s.chip.flits.any fun g =>
  g.sched && g.cur == f.cur && g.cyc == f.cyc && decide (g.inPort < f.inPort) && s.outPort g == q

/-- The hop of a scheduled flit (R42, R43, R281, R284). One whose tile's landing queue is full is held, and is demoted once its slot is
past (R57). -/
def schedHop (f : Flit) : Tx := fun s =>
  let q := s.outPort f
  let a := if f.atEnd then max f.cyc (s.roomFrom f) else f.cyc
  let over_ := f.cyc / 8 * 8 + 7
  if s.undecided f f.cyc then []
  else if s.openSlots f f.cyc || decide (8 < s.chip.held f.cur f.inPort) then demoteFlit f f.cyc s
  else if !s.slotMarked (8 * f.cur + q) f.cyc then chain [noteMiss, demoteFlit f f.cyc] s
  else if !s.takes f then when (decide (over_ < s.chip.fcyc)) (demoteFlit f over_) s
  else if over_ < a then demoteFlit f over_ s
  else if s.outTaken (8 * f.cur + q) a || s.beaten f q then chain [noteCollide, demoteFlit f a] s
  else passFlit f q a s

/-- The first cycle from `a` on, of at most `fuel`, in which output `o` is open to unscheduled flit `f` and free. -/
def State.freeCycle (s : State) (f : Flit) (o : Nat) : Nat → Nat → Option Nat
  | 0, _ => none
  | fuel + 1, a =>
    if (s.openSlots f a || !s.slotMarked o a) && !s.outTaken o a then some a else s.freeCycle f o fuel (a + 1)

/-- The cycle in which output `o` serves unscheduled flit `f`, which competes from `a` on: every eight of its taken cycles can shut one
period, and where no slot of a period is marked 0 the flit waits for the stretch (R43, R281). -/
def State.serveCycle (s : State) (f : Flit) (o a : Nat) : Nat :=
  let n := (s.chip.taken.filter (·.1 == o)).length
  match s.freeCycle f o (1024 * (n / 8 + 2)) a with
  | some b => b
  | none => (s.freeCycle f o (n + 1) (max a s.frmLen)).getD (max a s.frmLen + n)

/-- Is the flit the oldest unscheduled one of its input port? -/
def Chip.headOfLine (c : Chip) (f : Flit) : Bool := c.flits.all fun g =>
  g.sched || g.cur != f.cur || g.inPort != f.inPort || decide (f.cyc < g.cyc) || (f.cyc == g.cyc && decide (f.id ≤ g.id))

/-- The input ports whose oldest unscheduled flit competes for output `q` of tile `t` in cycle `a`. -/
def State.rivals (s : State) (t q a : Nat) : List Nat := (List.range 5).filter fun i => s.chip.flits.any fun g =>
  !g.sched && g.cur == t && g.inPort == i && decide (g.cyc ≤ a) && s.outPort g == q && s.chip.headOfLine g

/-- The input port that round-robin serves: the first one after that served last (R281). -/
def State.robin (s : State) (t q a : Nat) : Option Nat :=
  let last := (s.chip.served.find? (·.1 == 8 * t + q)).elim 4 (·.2)
  ((List.range 5).map fun i => (last + 1 + i) % 5).find? fun i => (s.rivals t q a).contains i

/-- The cycle in which an unscheduled flit passes its output. -/
def State.hopAt (s : State) (f : Flit) : Nat := s.serveCycle f (8 * f.cur + s.outPort f) (max f.cyc (s.roomFrom f))

/-- The hop of an unscheduled flit: in a free cycle, in order, with a credit of the next router (R43, R281, R284, R324). -/
def freeHop (f : Flit) : Tx := fun s =>
  let q := s.outPort f
  let a := s.hopAt f
  let credit := f.atEnd || decide (s.chip.held (s.nextTile f.cur q) (farSide q) < 8)
  if s.undecided f a || f.wait || !s.chip.headOfLine f || s.robin f.cur q a != some f.inPort || !credit || !s.takes f then []
  else
    let ce := f.ce || decide (s.rf R.FAB_ECN_THRESH F.FAB_ECN_THRESH_MESH_TH ≤ s.chip.held f.cur f.inPort)
    chain [
      modChip fun c => { c with served := (8 * f.cur + q, f.inPort) :: c.served.filter (·.1 != 8 * f.cur + q) },
      passFlit { f with ce := ce } q a] s

/-- The hops of scheduled flits that lie before the tick at frame cycle `n` are made before it, the earliest first; `done` are flits that
cannot hop. -/
def settleHops : Nat → Nat → List Nat → Tx
  | 0, _, _ => skip
  | fuel + 1, n, done => fun s =>
    let fs := s.chip.flits.filter fun f => f.sched && decide (f.cyc < n) && !done.contains f.id
    match fs.foldl (fun a f => match a with | some b => if f.cyc < b.cyc then some f else a | none => some f) none with
    | none => []
    | some f =>
      if (schedHop f s).isEmpty then settleHops fuel n (f.id :: done) s
      else chain [schedHop f, settleHops fuel n done] s

/-- FLIT_HOP: the flit with number `id`. -/
def flitHopTx (id : Nat) : Tx := fun s =>
  match s.chip.flits.find? (·.id == id) with
  | none => []
  | some f => if s.meshHeld then [] else if f.sched then schedHop f s else freeHop f s

/-- FLIT_HOP. -/
def execFlitHop (id : Nat) (s : State) : Out := commit (flitHopTx id) s

/-! ### Reads of any space -/

/-- What `n` bytes of a space of tile `t` hold. -/
def State.readSpace (s : State) (sp t off n : Nat) : List PByte :=
  if sp ≤ 1 then s.rd sp t off n
  else if sp = 2 then (List.range n).map fun i => (s.byte (memKey 2 t (wrapOff 2 (off + i))), false)
  else if sp = 4 then
    (List.range (n / 4)).flatMap fun i =>
      let o := wrapOff 4 (off + 4 * i)
      (leBytes 4 (s.grainLookup t (o / 0x2000) (o % 0x2000 / 4)).w).map (·, false)
  else if sp = 5 then
    (List.range (n / 8)).flatMap fun i => (leBytes 8 (s.fixedWord (memKey sp t (wrapOff sp (off + 8 * i))))).map (·, false)
  else (List.range (n / 8)).flatMap fun i => (leBytes 8 (s.readReg (spaceKey sp t (off + 8 * i))).toNat).map (·, false)

/-- The bytes of `n` bytes of a space, line after line granted in the cycles `cs` (R109, R113). -/
def State.readRun (s : State) (sp t off n : Nat) (cs : List Nat) : List PByte :=
  cs.zipIdx.flatMap fun c => (s.asOf t c.1).readSpace sp t (off + 64 * c.2) (min 64 (n - 64 * c.2))

/-- Granules that a consume read empties, each four cycles after the grant of its last line (R53, R54). -/
def emptyRun (t off n : Nat) (cs : List Nat) : Tx :=
  forEach (granulesOf off n).zipIdx fun g =>
    emptyFrom t g.1 (cs.getD ((min n (256 * (g.2 + 1) - off % 256) + 63) / 64 - 1) 0 + 4)

/-- What that read brings about (R53, R113, R114). -/
def readRunDone (sp t gm off n : Nat) (cs : List Nat) : Tx := fun s =>
  if sp ≤ 1 then chain [takeRun t sp 3 off false cs, noteRead sp t off n (cs.headD s.chip.fcyc), when (sp == 0 && gm == 2) (emptyRun t off n cs)] s
  else if sp = 2 ∨ sp = 4 ∨ sp = 5 then []
  else forEach (List.range (n / 8)) (fun i => readEffect (spaceKey sp t (off + 8 * i))) s

/-- Is the data of a read there: its granules are full, no line of it awaits a refetch (R53, R121)? -/
def State.spaceReady (s : State) (sp t gm off n : Nat) : Bool :=
  if sp = 0 then s.readReady t gm off n else !s.needsRefetch sp t off n

/-! ### DCPY and DMOV (R86–R88) -/

/-- The cycle from which the D stream's transfer engine is free (R88). -/
def State.engineFree (s : State) (t : Nat) : Nat := (s.tile t).d.engine

/-- Start a transfer of stream 1 of tile `t`. -/
def newXfer (x : Xfer) : Tx := chain [
  modChip fun c => { c with xfers := c.xfers ++ [x], nextId := c.nextId + 1 },
  when x.tracked noteTrackers]

/-- The data of a transfer inside the tile arrives, each flit in its own cycle (R47). -/
def arriveAll (sp t off wm : Nat) (o : Owner) (ds : List Nat) (bs : List PByte) : Tx :=
  forEach (pieces 64 bs).zipIdx fun p => arrive sp t (off + 64 * p.2) wm (pdata p.1) (ppoison p.1) o (ds.getD p.2 0)

/-- A transfer inside tile `t`, issued at cycle `c`: `n` bytes from one place to another. -/
def localMove (t c n ssp soff gm dsp doff wm : Nat) : Tx := fun s =>
  let cs := s.grantRun t ssp 3 false ((n + 63) / 64) soff c
  let id := s.chip.nextId
  let far := 6 + (if ssp = 1 then 3 else 0) + (if dsp = 1 then 3 else 0)
  chain [
    newXfer ⟨id, t, 1, s.position, t, 0, n, 0, if dsp = 0 && wm != 0 then awaited doff n else [], false, 0, (n + 63) / 64⟩,
    modStream t 1 fun x => { x with engine := cs.getLastD c + 1 },
    readRunDone ssp t gm soff n cs,
    arriveAll dsp t doff wm ⟨id, s.position, 0, false⟩ (cs.map (· + far)) (s.readRun ssp t soff n cs)] s

/-- Would the waiting part of a held write inside the tile pass the landing queue? -/
def State.localRoom (s : State) (t wm sp off n : Nat) : Bool :=
  sp != 0 || wm != 2 ||
    decide ((s.tile t).landing.length +
      ((granulesOf (wrapOff 0 off) n).filter fun g => s.heldBack t (256 * g) 256 s.chip.fcyc).length * 4 ≤ 256)

/-- DCPY. -/
def dcpyTx (a : DcpyArgs) : Tx :=
  issue (.tile a.tile 1) a.h (.dcpy a) fun s c =>
    let n := 256 * a.len
    let k := if a.step then n * s.cnt (.tile a.tile 1) a.ctr else 0
    let src := wrapOff 0 (256 * a.src + k)
    let dst := wrapOff 0 (256 * a.dst + k)
    let cyc := max (max c (s.engineFree a.tile)) (if a.gm = 0 then 0 else s.availAt a.tile src n)
    { cyc := cyc, ready := s.readReady a.tile a.gm src n && s.localRoom a.tile a.wm 0 dst n
      go := localMove a.tile cyc n 0 src a.gm 0 dst a.wm }

/-- DCPY. -/
def execDcpy (a : DcpyArgs) (s : State) : Out := instruction (.dcpy a) (.tile a.tile 1) (dcpyTx a) s

/-- May a DMOV to module `d` issue: a way, a tracker, and for an unscheduled one its rate (R312, R325)? -/
def State.outboundReady (s : State) (d t u : Nat) (sched : Bool) : Bool :=
  (s.route d t u).isSome && s.trackerFree &&
    (sched || !s.rb R.FAB_ECN_CTL F.FAB_ECN_CTL_EN || decide (s.sentTo d < s.rateOf d))

/-- Flits sent to module `d` in the cycles `cs` are counted, each in its period (R325). -/
def noteSent (d : Nat) (cs : List Nat) : Tx := modChip fun c => { c with
  sent := c.sent ++ ((cs.map (· / 1024)).eraseDups.map fun k => (d, k, 64 * (cs.filter fun x => x / 1024 == k).length)) }

/-- The flit of stream 1 of tile `t` to global address `g`, through the mesh or to the port stop of its way (R282, R283, R316). -/
def State.flitTo (s : State) (t g : Nat) (sched : Bool) (f : Flit) : Flit :=
  let base : Flit := { f with cur := t, srcMod := s.position, srcTile := t, sched := sched, g := g }
  if gMod g = s.position then { base with dstTile := s.homeTile (gTile g) }
  else match s.route (gMod g) t (gTile g) with
    | some (p, dem) => { base with dstTile := s.attach p, dstPort := some p, sched := sched && !dem, demoted := sched && dem }
    | none => base

/-- Flits that their way demotes at their source, because the chosen twin is not up: each counts as demoted at the tile (R298, R316). -/
def noteSource (t : Nat) (fs : List Flit) : Tx := when (fs.any (·.demoted)) <| chain [
  incF R.MSH_DEMOTE_CNT F.MSH_DEMOTE_CNT_DEMOTED (fs.filter (·.demoted)).length,
  setF R.MSH_DEMOTE_LAST F.MSH_DEMOTE_LAST_UNIT t, setB R.MSH_DEMOTE_LAST F.MSH_DEMOTE_LAST_PORT false]

/-- The flits of a transfer that leave tile `t`. -/
def sendFlits (t : Nat) (fs : List Flit) : Tx := chain [noteSource t fs, inject fs]

/-- A transfer out of tile `t`, issued at cycle `c`: data to `g`, or a read request for `len` units at `g`. -/
def sendMove (t c len g gm loc wm : Nat) (dir sched : Bool) : Tx := fun s =>
  let n := 64 * len
  let id := s.chip.nextId
  let away := gMod g != s.position
  let tag := if away then s.chip.freeTag 32768 s.chip.ttagNext else 0
  let dst := if dir then loc else gOff g
  let sp := if dir then 0 else gSpace g
  let x : Xfer := ⟨id, t, 1, if dir then s.position else gMod g, if dir then t else gTile g, tag, n, if dir then 1 else len,
    if sp = 0 ∧ wm ≠ 0 ∧ (dir ∨ !away) then awaited dst n else [], away, 0, len⟩
  let cs := s.grantRun t 0 3 false len loc c
  let f := s.flitTo t g sched { flit0 with
    id := id + 1, xid := id, kind := dir.toNat, wm := wm, gm := gm, len := len, ret := gaddr s.position t 0 loc, ttag := tag
    cyc := c + 2 }
  chain [
    when away (chain [
      twUse R.FAB_JOB_PKEY,
      modChip fun c => { c with ttagNext := (tag + 1) % 65536 },
      when (!sched) (noteSent (gMod g) (if dir then [c + 1] else cs.map (· + 1)))]),
    newXfer x,
    modStream t 1 fun y => { y with engine := if dir then c + len else cs.getLastD c + 1 },
    if dir then sendFlits t [f]
    else chain [readRunDone 0 t gm loc n cs, sendFlits t (dataFlits f (cs.map (· + 2)) (s.readRun 0 t loc n cs))]] s

/-- Is global address `g` local to tile `t` (R18)? -/
def State.nearby (s : State) (t g : Nat) : Bool := gMod g == s.position && gTile g == t

/-- DMOV. -/
def dmovTx (a : DmovArgs) : Tx :=
  issue (.tile a.tile 1) a.h (.dmov a) fun s c =>
    let n := 64 * a.len
    let k := if a.step then n * s.cnt (.tile a.tile 1) a.ctr else 0
    let loc := wrapOff 0 (64 * a.loc + k)
    let g := gAdd a.g k
    let near := s.nearby a.tile g
    let sp := gSpace g
    let off := wrapOff sp (gOff g)
    let ssp := if a.dir then sp else 0
    let soff := if a.dir then off else loc
    let dsp := if a.dir then 0 else sp
    let doff := if a.dir then loc else off
    let reads := near || !a.dir
    let cyc := max (max c (s.engineFree a.tile)) (if reads && ssp == 0 && a.gm != 0 then s.availAt a.tile soff n else 0)
    { words := 2, addrs := [g], cyc := cyc
      ready := (!reads || s.spaceReady ssp a.tile a.gm soff n) &&
        (if near then s.localRoom a.tile a.wm dsp doff n
         else gMod g == s.position || s.outboundReady (gMod g) a.tile (gTile g) a.sched)
      blocked := when reads (askRefetch ssp a.tile soff n)
      go := if near then localMove a.tile cyc n ssp soff a.gm dsp doff a.wm
        else sendMove a.tile cyc a.len g a.gm loc a.wm a.dir a.sched }

/-- DMOV. -/
def execDmov (a : DmovArgs) (s : State) : Out := instruction (.dmov a) (.tile a.tile 1) (dmovTx a) s

/-! ### READ_REQ_SERVE (R49, R56) -/

/-- The flits of a reply: read data to the reader, its lines granted in the cycles `cs`; a tier source adds three cycles (R48). -/
def State.replyFlits (s : State) (t : Nat) (r : ReadReq) (cs : List Nat) : List Flit :=
  dataFlits (s.flitTo t (gaddr r.retMod r.retTile r.retSpace r.retOff) r.sched { flit0 with
      id := s.chip.nextId, xid := r.xid, kind := 2, wm := r.wm, len := r.len, ttag := r.ttag, stream := r.stream })
    (cs.map (· + (if r.space = 1 then 5 else 2))) (s.readRun r.space t r.off (64 * r.len) cs)

/-- READ_REQ_SERVE: request `id` at tile `t`. -/
def readReqServeTx (t id : Nat) : Tx := fun s =>
  match (s.tile t).reads.find? (·.id == id) with
  | none => []
  | some r =>
    let n := 64 * r.len
    let off := wrapOff r.space r.off
    if s.meshHeld || (r.retMod != s.position && (s.route r.retMod t r.retTile).isNone) then []
    else if !s.spaceReady r.space t r.gm off n then askRefetch r.space t off n s
    else
      let cs := s.grantRun t r.space 3 false r.len off (max r.cyc (if r.space = 0 ∧ r.gm ≠ 0 then s.availAt t off n else 0))
      chain [
        when (r.retMod != s.position) (twUse R.FAB_JOB_PKEY),
        modTile t fun ts => { ts with reads := ts.reads.filter (·.id != id) },
        sendFlits t (s.replyFlits t r cs),
        readRunDone r.space t r.gm off n cs] s

/-- READ_REQ_SERVE. -/
def execReadReqServe (t id : Nat) (s : State) : Out := onTile t (readReqServeTx t id) s

/-! ### DGSET and DFENCE -/

/-- DGSET: 16 granules a cycle; each is full, or empty, from its group's cycle on (R86). -/
def dgsetTx (t : Nat) (h : Hdr) (first count : Nat) (v : Bool) : Tx :=
  issue (.tile t 1) h (.dgset t h first count v) fun s c =>
    let cyc := max c (s.tile t).d.dgset
    let last := cyc + (count + 15) / 16 - 1
    { cyc := cyc
      go := chain [
        forEach (List.range count) (fun i =>
          let g := (first + i) % 6144
          if v then fullFrom t g (cyc + i / 16) else whenS (fun s => decide (s.availAt t (256 * g) 256 ≤ cyc + i / 16)) (emptyFrom t g (cyc + i / 16))),
        modStream t 1 fun x => { x with dgset := last + 1 },
        busyUntil t last] }

/-- DGSET. -/
def execDgset (t : Nat) (h : Hdr) (first count : Nat) (val : Bool) (s : State) : Out :=
  instruction (.dgset t h first count val) (.tile t 1) (dgsetTx t h first count val) s

/-- DFENCE: every earlier transfer of the stream has completed, acknowledged where it wrote away from the tile. -/
def dfenceTx (t : Nat) (h : Hdr) : Tx :=
  issue (.tile t 1) h (.dfence t h) fun s c =>
    { cyc := max c (s.tile t).d.xdone, ready := !s.chip.xfers.any fun x => x.tile == t && x.stream == 1, go := skip }

/-- DFENCE. -/
def execDfence (t : Nat) (h : Hdr) (s : State) : Out := instruction (.dfence t h) (.tile t 1) (dfenceTx t h) s

end Sys2Proof.Machine
end

