-- ==== Sys2Proof/Machine/Admit.lean ====
section
/-! DEFINITION. Admission (R374), what an accepted request sets, cue injections (R91, R92), and the effect of a replayed entry
(R401, R403). -/

namespace Sys2Proof.Machine

/-! ### Injection -/

/-- The flits of a cue injection. The place of the cue streams in the mesh is not given: they enter it at logical tile 0's local port
(R92; DESIGN CHOICE, log entry 53). -/
def State.injectFlits (s : State) (k g wm : Nat) (bs : List Byte) : List Flit :=
  dataFlits { flit0 with
    id := s.chip.nextId + 1, xid := s.chip.nextId, dstTile := gTile g, g := g, wm := wm, len := (bs.length + 63) / 64
    srcMod := s.position, srcTile := 512 + k, stream := 4 }
    ((List.range ((bs.length + 63) / 64)).map (s.chip.fcyc + 2 + ·)) (bs.map (·, false))

/-- Cue stream `k` writes data at a global address of a scratchpad, as an unscheduled transfer of its own (R91, R92). -/
def injectData (k g wm : Nat) (bs : List Byte) : Tx := fun s =>
  let id := s.chip.nextId
  let off := wrapOff 0 (gOff g)
  let fs := s.injectFlits k g wm bs
  if bs.isEmpty then []
  else chain [
    newXfer ⟨id, 512 + k, 4, s.position, gTile g, 0, bs.length, fs.length, if wm = 0 then [] else awaited off bs.length, false, 0, fs.length⟩,
    inject fs] s

/-! ### The bound (R374) -/

/-- The class register words and the parameters of a REQ_SUBMIT (R371). -/
def reqClass (c : Cmd) : Nat := c.w2.toNat % 64
def reqUnits (c : Cmd) : Nat := c.w2.toNat / 2 ^ 32
def reqDeadline (c : Cmd) : Nat := c.w3.toNat
def reqAddr (c : Cmd) : Nat := c.w4.toNat
def reqLen (c : Cmd) : Nat := c.w5.toNat % 2 ^ 25
def reqAdp (c : Cmd) : Nat := c.w5.toNat / 2 ^ 25 % 32
def reqAdpEn (c : Cmd) : Bool := c.w5.toNat.testBit 30

/-- The request's payload: inline, then what HADDR names (R371). -/
def State.reqInput (s : State) (c : Cmd) : List Byte := c.payload ++ s.hostBytes (reqAddr c) (reqLen c)

/-- Frames of work (R374). -/
def State.reqFrames (s : State) (c : Cmd) : Nat :=
  let k := R.HIF_CLASS_0 (reqClass c)
  s.rf k F.HIF_CLASS_0_FIXED + s.rf k F.HIF_CLASS_0_PER_UNIT * reqUnits c

/-- The bound in whole nanoseconds (R374). -/
def State.admitBound (s : State) (n : Nat) : Nat :=
  s.cyclesNs (max (s.frameMax - s.chip.fcyc) 1 + n * s.frameMax + s.rf R.FRM_SKEW_MAX F.FRM_SKEW_MAX_CYCLES)

/-- The lowest request slot that is free, with its adapter slot where adapters are used (R374). -/
def State.freeSlot (s : State) : Option Nat :=
  (List.range (s.rf R.HIF_ADM F.HIF_ADM_NSLOT)).find? fun n => s.chip.slots.all fun x =>
    x.slot != n && !(s.rb R.HIF_ADM F.HIF_ADM_ADP && x.slot % 16 == n % 16)

/-- The adapter entry's registers are the same on every tile that a load wrote; VALID and key of entry `e` on some tile (R355). -/
def State.adpValid (s : State) (e key : Nat) : Bool := s.tileList.any fun t =>
  s.rb (R.MXA_ADP_TBL_0 t e) F.MXA_ADP_TBL_0_VALID && s.rf (R.MXA_ADP_TBL_0 t e) F.MXA_ADP_TBL_0_PKEY == key

/-- The checks of R374 in order: a refusal's status. -/
def State.admitCheck (s : State) (c : Cmd) : Option Nat :=
  let k := reqClass c
  if !s.running || s.chip.parked || s.descState s.active != 4 then some 0x0203
  else if !s.rb (R.HIF_CLASS_0 k) F.HIF_CLASS_0_VALID || reqUnits c == 0 ||
      decide (s.rf (R.HIF_CLASS_1 k) F.HIF_CLASS_1_MAX_UNITS < reqUnits c) || c.w6 != 0 || c.w7 != 0 ||
      (reqAdpEn c && !(s.rb R.HIF_ADM F.HIF_ADM_ADP && s.adpValid (reqAdp c) c.pkey)) then some 0x0103
  else if s.freeSlot.isNone then some 0x0202
  else if reqDeadline c < (s.chip.ns - c.arrival) + s.admitBound (s.reqFrames c) then some 0x0201
  else none

/-- The adapter slot of request slot `n` takes the request's key and entry, or key 0 (R374). -/
def setAdpSlot (n key entry : Nat) (en : Bool) : Tx := fun s =>
  forEach s.tileList (fun t =>
    let k := R.MXA_ADP_SLOT t (n % 16)
    chain [setF k F.MXA_ADP_SLOT_PKEY (if en then key else 0), setF k F.MXA_ADP_SLOT_ENTRY (if en then entry else 0)]) s

/-- A request is accepted into a slot: it is open and bound to the LIVE roll (R352, R374). -/
def acceptSlot (x : Slot) : Tx := chain [
  modChip fun c => { c with slots := c.slots.filter (·.slot != x.slot) ++ [x] },
  noteOpen,
  incF R.HIF_ADM_STAT F.HIF_ADM_STAT_ACCEPTED 1,
  addBound x.desc true,
  whenS (fun s => s.rb R.HIF_ADM F.HIF_ADM_ADP) (setAdpSlot x.slot x.pkey x.adpEntry x.adpEn)]

/-- The slot of a request admitted now (R374, R375). -/
def State.slotOf (s : State) (c : Cmd) (n : Nat) (crec : Bool) (timed : Bool) (input : List Byte) : Slot :=
  { slot := n, tag := c.tag.toNat, queue := c.queue, pkey := c.pkey, crec := crec, aFrame := s.frame, n := s.reqFrames c
    arrival := c.arrival, dueNs := c.arrival + reqDeadline c, timed := timed, adpEn := reqAdpEn c, adpEntry := reqAdp c
    desc := s.active, input := sha256 input, chain := List.replicate 32 0, records := 0, complete := false, ended := false
    drained := false, fullFrame := 0, fullNs := 0 }

/-! ### Replayed entries (R401, R403) -/

/-- Key of the register at a global address of space 3 or 7. -/
def gKey (g : Nat) : Nat := spaceKey (gSpace g) (gTile g) (gOff g)

/-- The command whose 64-byte slot an ADMIT entry holds; queue, key and adapter as recorded. -/
def State.entryCmd (s : State) (e : RepEntry) : Cmd :=
  let w (i : Nat) : Word := BitVec.ofNat 64 (field e.body (8 * i) 8)
  { queue := e.val / 256 % 8192, sqHead := 0, opcode := 0x0301, len := field e.body 2 2, pkey := field e.body 4 2, fence := false
    crec := e.val.testBit 27, tag := BitVec.ofNat 64 e.tag, w2 := w 2, w3 := w 3, w4 := w 4, w5 := w 5, w6 := w 6, w7 := w 7
    payload := [], arrival := s.chip.ns }

/-- ADMIT: the recorded slot and frame, no bound (R403). -/
def replayAdmit (e : RepEntry) : Tx := fun s =>
  let c := s.entryCmd e
  let input := (s.chip.replay.find? fun x => x.kind == 3 && x.src == e.src && decide (e.seq ≤ x.seq)).elim [] (·.body)
  acceptSlot { s.slotOf c (e.val % 256) (e.val.testBit 27) false input with
    aFrame := e.frame, adpEn := e.val.testBit 26, adpEntry := e.val / 2 ^ 21 % 32 } s

/-- END: the request ends as recorded (R403). -/
def replayEnd (e : RepEntry) : Tx := fun s =>
  match s.unfinished.find? (·.tag == e.tag) with
  | none => []
  | some x =>
    if e.val = 0x0801 then deadlineFault x s
    else chain [modSlot x.slot fun y => { y with ended := true }, addBound x.desc false, recordEnd x 0] s

/-- A replayed WRITE. One of a bank selector only arms it: whether it was refused, which the SELECT entry next to it says, was counted
with that entry (R403). -/
def replayWrite (e : RepEntry) : Tx := fun s =>
  let k := gKey e.addr
  let v := BitVec.ofNat 64 e.val
  let refused := s.chip.replay.any fun x => x.kind == 7 && x.addr == e.addr && x.val.testBit 63 && (x.seq == e.seq + 1 || e.seq == x.seq + 1)
  let t := tileOf k
  asWriter e.src (if !bankSelector k then writeReg k v
    else if refused then skip
    else if isTileKey k && k == R.GRN_TBL_SEL t then selectTx k (R.GRN_STAT t) F.GRN_STAT_ACTIVE F.GRN_STAT_PENDING v
    else writeReg k v) s

/-- An entry that applies at frame cycle 16 (R403); it is an input of a recording as well (R398). -/
def replayEntry (e : RepEntry) : Tx :=
  let again := look fun s => recordEntry { e with frame := s.frame }
  match e.kind with
  | 2 => chain [replayWrite e, again]
  | 3 => chain [injectData e.src e.addr (e.val % 4) e.body, again]
  | 4 => chain [replayAdmit e, again]
  | 5 => replayEnd e
  | _ => skip

/-- Entries of kind `k` that take effect in frame `f`, in order. -/
def State.entriesAt (s : State) (f : Nat) (p : Nat → Bool) : List RepEntry :=
  s.chip.replay.filter fun e => e.frame == f && p e.kind

end Sys2Proof.Machine
end

