-- ==== Sys2Proof/Machine/Distribute.lean ====
section
/-! DEFINITION. Distribution of roll images (R343): the packets in which the reading module sends a shard, and the copies that every module
forwards. -/

namespace Sys2Proof.Machine

/-- The modules that a shard goes to (R333). -/
def State.shardDests (s : State) (x : Shard) : List Nat := (List.range s.chip.part.modules).filter x.toModule

/-- Does the path from module `r` to module `d` reach this module by port `p` or its twin (R316, R343)? -/
def State.comesBy (s : State) (r d p : Nat) : Bool :=
  (s.pathTo r d).any fun l => l.low == s.position && if p < 8 then l.lowPort == p / 2 * 2 else l.lowPort == p

/-! ### The clap tree (R383) -/

/-- Does port `p` carry a token: GO and ANNOUNCE go down the tree, READY up, FREEZE on every UP port (R383)? Of a link's twins the second
carries tokens only while the first is not up (log entry 54). -/
def State.carries (s : State) (p : Nat) (tok : Token) : Bool :=
  let onTree (q : Nat) : Bool := p == q || (decide (q < 8) && p == q + 1 && !s.portUp q)
  match tok.kind with
  | 1 => (s.treeParent).any onTree
  | 4 => s.portUp p
  | _ => s.treeChildren.any onTree

/-- The ports on which this module passes shard `i` on to some of modules `ds`, each with the first of them that it leads to (R343). -/
def State.shardPorts (s : State) (i : Nat) (ds : List Nat) : List (Nat × Nat) :=
  let hops := (ds.filter (· != s.position)).filterMap fun d => (s.route d (i % 512) 0).map fun q => (q.1, d)
  hops.foldl (fun a h => if a.any (·.1 == h.1) then a else a ++ [h]) []

/-- The units of 64 bytes that one transfer of a shard carries at most. -/
def shardUnits : Nat := 32766

/-- The packets of shard `i` towards module `d`: key-0 MGMT transfers of the unscheduled class, their address the offset of their bytes in
the shard (R311, R343; log entry 59). -/
def State.shardPackets (s : State) (i d : Nat) (bs : List Byte) : List Packet :=
  let wide := padTo ((bs.length + 63) / 64 * 64) bs
  (pieces (64 * shardUnits) wide).zipIdx.flatMap fun x => (pieces 384 x.1).zipIdx.map fun y => {
    ptype := 4, sched := false, demoted := false, ecnCe := false, ecnEcho := false, poison := 0, pkey := 0, ttag := x.2 % 65536, seq := y.2
    dst := d * 0x40000000000000 + 64 * shardUnits * x.2 + 384 * y.2, srcMod := s.position, srcTile := i % 512, srcStream := 0
    tlen := x.1.length / 64, retx := false, wm := 0, gm := 0, hops := 0, lseq := 0, stampCyc := 0, stampFn := 0
    payload := y.1 }

/-- Bytes go to module `d` alone, as those of shard `i` do. -/
def sendBytes (i d : Nat) (bs : List Byte) : Tx := fun s =>
  match s.route d (i % 512) 0 with
  | some q => forEach (s.shardPackets i d bs) (queuePacket q.1) s
  | none => []

/-- The reading module sends the header and the tables to every other module (R342). -/
def sendTable (bs : List Byte) : Tx := fun s =>
  forEach ((List.range s.chip.part.modules).filter (· != s.position)) (fun d => sendBytes 0 d bs) s

/-- A shard that a module refused goes to it alone (R344). -/
def resendShard (l : LoadS) (i : Nat) (bs : List Byte) : Tx := chain [
  forEach (l.again.filter fun x => x.1 == i) (fun x => sendBytes i x.2 bs),
  modLoad fun m => { m with again := m.again.filter fun x => x.1 != i }]

/-- The reading module sends shard `i`, once on each port that leads to a destination (R343). -/
def sendShard (l : LoadS) (i : Nat) (bs : List Byte) : Tx := fun s => chain [
  forEach (s.shardPorts i (s.shardDests (l.shard i))) (fun q => forEach (s.shardPackets i q.2 bs) (queuePacket q.1)),
  modLoad fun m => { m with sent := m.sent ++ [i] }] s

/-- Bytes of shard `i` that have come by port `p`. -/
def LoadS.came (l : LoadS) (i p : Nat) : Nat := ((l.passed.find? fun x => x.1 == i && x.2.1 == p).map (·.2.2)).getD 0

/-- The load whose shards this module passes on: the one that runs, or the one whose own part is complete (R343). -/
def State.carried (s : State) : Option LoadS :=
  match s.chip.load with
  | some l => if l.table.isEmpty then s.chip.relay else some l
  | none => s.chip.relay

/-- Change it. -/
def modCarried (f : LoadS → LoadS) : Tx := modChip fun c =>
  match c.load with
  | some l => if l.table.isEmpty then { c with relay := c.relay.map f } else { c with load := some (f l) }
  | none => { c with relay := c.relay.map f }

/-- The shard that a packet at port `p` is part of: of those with its number the first whose bytes have not all come (R343). -/
def State.shardOf (s : State) (p : Nat) (k : Packet) : Option Nat :=
  match s.carried with
  | none => none
  | some l =>
    if k.ptype = 4 ∧ k.pkey = 0 ∧ k.srcMod = s.chip.part.managerPos ∧ k.srcMod ≠ s.position then
      (List.range l.shards).find? fun i => i % 512 == k.srcTile && decide (l.came i p < (l.shard i).length)
    else none

/-- A packet of shard `i` comes by port `p`: copies go on towards the destinations whose path comes that way, and a destination hands it to
its management (R343). -/
def passShard (p i : Nat) (k : Packet) : Tx := fun s =>
  match s.carried with
  | none => []
  | some l =>
    let ds := s.shardDests (l.shard i)
    let on := (s.shardPorts i (ds.filter fun d => s.comesBy k.srcMod d p)).filter fun q => q.1 / 2 != p / 2
    chain [
      modCarried fun m => { m with passed :=
        (i, p, m.came i p + k.payload.length) :: m.passed.filter fun x => !(x.1 == i && x.2.1 == p) },
      forEach on (fun q => queuePacket q.1
        { k with hops := k.hops + 1, retx := false, dst := q.2 * 0x40000000000000 + k.dst % 0x40000000000000 }),
      when (ds.contains s.position) (modChip fun c => { c with mgmtIn := c.mgmtIn ++ [k] })] s

end Sys2Proof.Machine
end

