-- ==== Sys2Proof/Machine/Rolls.lean ====
section
/-! DEFINITION. Loading, arming, switching and freeing rolls, and private adapters (R337–R356). -/

namespace Sys2Proof.Machine

/-- Digest that the mirror index records for a region of the load (R331): its group's, or the adapter's root. -/
def State.regionDigest (s : State) (l : LoadS) (r : Nat) : Nat :=
  match (List.range 256).find? (fun g => match s.group g with
      | some (a, n, b, hb) => decide (a ≤ r ∧ r < a + n) || (hb && decide (b ≤ r ∧ r < b + n))
      | none => false) with
  | some g => if l.ask.adapter then leNat l.root else field (s.roll l.desc).gdigest (32 * g) 32
  | none => leNat l.root

/-! ### The end of a load -/

/-- The adapter entry's words for tile `t` (R190, R355): the first A shard and the first B shard that name it. -/
def State.adapterWords (s : State) (l : LoadS) (t key : Nat) : Option (Nat × Nat) :=
  let xs := ((List.range l.shards).map l.shard).filter fun x =>
    x.toModule s.position && decide (x.tile ≤ t ∧ t < x.tile + x.ntile)
  if xs.isEmpty then none else
    let a := xs.find? (·.kind == 1)
    let b := xs.find? (·.kind == 2)
    let rho := match b, a with | some x, _ => x.ksrc | none, some x => x.lrows | none, none => 0
    let fmt := match a, b with | some x, _ => x.tfmt | none, some x => x.tfmt | none, none => 0
    let off (x : Option Shard) := (x.map (·.toff)).getD 0
    let bor (x : Option Shard) := match x with
      | some y => if y.xform.testBit 2 then (y.toff * 1024 + y.borderOff) / 64 else 0
      | none => 0
    some (key + (rho / 8 - 1) % 8 * 2 ^ 16 + fmt * 2 ^ 19 + off a % 2 ^ 14 * 2 ^ 24 + off b % 2 ^ 14 * 2 ^ 38,
      bor a + bor b * 2 ^ 24)

/-- May an entry be VALID (R191)? -/
def adapterFits (fmt rho : Nat) : Bool :=
  [3, 4, 5, 6, 7, 8, 9, 13].contains fmt && (if mxFmt fmt then rho % 32 == 0 else if fmt == 13 then rho % 64 == 0 else true)

/-- Write entry `e` of every tile that a shard names, VALID last, and its digest (R355). -/
def adapterEntry (l : LoadS) (e key : Nat) : Tx := fun s => chain [
  forEach s.tileList (fun t => match s.adapterWords l t key with
    | none => skip
    | some w => chain [
        setRegN (R.MXA_ADP_TBL_0 t e) w.1, setRegN (R.MXA_ADP_TBL_1 t e) w.2,
        if adapterFits (w.1 / 2 ^ 19 % 32) (8 * (w.1 / 2 ^ 16 % 8 + 1)) then setF (R.MXA_ADP_TBL_0 t e) F.MXA_ADP_TBL_0_VALID 1
        else incF (R.MXA_STAT t) F.MXA_STAT_ADP_WR_REJECT 1]),
  setWords (R.ROL_ADP_ROOT e 0) l.root] s

/-- Announce a switch of the ARMED descriptor; it takes effect at once where no job runs (R351). -/
def switchRoll (x earliest : Nat) : Tx := fun s =>
  let f := s.announceFrame (max earliest (s.frame + 4))
  if s.running then
    chain [twUse R.FRM_LEN, setRegN R.ROL_SWITCH_FRAME f, modChip (fun c => { c with armedRoll := some x }), announce 1 f] s
  else chain [switchNow x, announce 1 s.frame] s

/-- Is every shard, vault copy and codebook unit of the load complete (R350)? -/
def State.loadComplete (s : State) (l : LoadS) : Bool :=
  (l.table != [] || l.ask.source == 4) && l.vault.isEmpty && (s.needed l).all l.done.contains &&
    (!l.cbNeeded || s.tileList.all fun t => (s.tile t).cbUnits == 0)

/-- Has the manager sent every shard that another module takes, and is every other module's part complete (R340, R343)? -/
def State.domainComplete (s : State) (l : LoadS) : Bool :=
  let others := (List.range s.chip.part.modules).filter (· != s.position)
  others.all l.built.contains &&
    (decide (3 ≤ l.ask.source) || (List.range l.shards).all fun i =>
      l.sent.contains i || !(s.shardWritten l (l.shard i) && others.any (l.shard i).toModule))

/-- The module's own part is complete: the roll is BUILT here or the adapter entry VALID (R350, R355). Another module than the manager says so;
it passes shards on still. -/
def finishOwn (l : LoadS) : Tx := chain [
  if l.ask.adapter then adapterEntry l l.desc (l.ask.cmd.w6.toNat / 2 ^ 16 % 2 ^ 16) else setDesc l.desc 2,
  if l.ask.own then modLoad fun m => { m with ownDone := true }
  else chain [
    modChip fun c => { c with load := none, relay := some l },
    setF R.ROL_LOAD_STAT F.ROL_LOAD_STAT_PHASE 4, sendMgmt 4 0]]

/-- The manager's load ends once every module's part is complete, and its reply is posted; a ROLL_SWITCH that built goes on to arm and switch
(R340). -/
def finishAll (l : LoadS) : Tx := chain [
  modChip fun c => { c with load := none },
  setF R.ROL_LOAD_STAT F.ROL_LOAD_STAT_PHASE 4,
  when l.ask.switchAfter (chain [setDesc l.desc 3, tellModules 9 (leNat l.root), switchRoll l.desc l.ask.cmd.w6.toNat]),
  l.ask.reply 0 0 0]

/-- The load goes on to its end where it is complete. -/
def tryFinish : Tx := chain [
  look fun s => match s.chip.load with
    | some l => when (!l.ownDone && s.loadComplete l) (finishOwn l)
    | none => skip,
  look fun s => match s.chip.load with
    | some l => when (l.ownDone && s.domainComplete l) (finishAll l)
    | none => skip]

/-! ### Commands (R340, R341) -/

/-- The 32-byte root in words 2 to 5. -/
def cmdRoot (c : Cmd) : List Byte := [c.w2, c.w3, c.w4, c.w5].flatMap fun w => leBytes 8 w.toNat

/-- The descriptor that a load takes: a non-LIVE one that is EMPTY or FAILED. -/
def State.loadDesc (s : State) : Option Nat :=
  let cand := match s.live with | some y => [1 - y] | none => [0, 1]
  cand.find? fun x => s.descState x == 0 || s.descState x == 6

/-- Is the layout to be recorded by this load: both descriptors are EMPTY and no job runs (R337)? -/
def State.layoutOpen (s : State) : Bool := s.descState 0 == 0 && s.descState 1 == 0 && !s.running

/-- The image's group table is recorded (R337). -/
def recordLayout (tbl : List Byte) : Tx := chain [
  forEach (List.range 256) (fun g => setRegN (R.ROL_GROUP g) (field tbl (4 * g) 4)), setF R.ROL_CTL F.ROL_CTL_LAYOUT_SET 1]

/-- Entry `g` of a group table: A_FIRST, count, B_FIRST, USED, HAS_B. -/
def groupEntry (tbl : List Byte) (g : Nat) : Nat × Nat × Nat × Bool × Bool :=
  (field tbl (4 * g) 1, field tbl (4 * g + 1) 1 + 1, field tbl (4 * g + 2) 1, (field tbl (4 * g + 3) 1).testBit 0,
    (field tbl (4 * g + 3) 1).testBit 1)

/-- The slot ranges (first, count) of the USED groups. -/
def groupRanges (tbl : List Byte) : List (Nat × Nat) := (List.range 256).flatMap fun g =>
  match groupEntry tbl g with
  | (a, n, b, true, hb) => (a, n) :: if hb then [(b, n)] else []
  | _ => []

/-- The recorded group table as bytes. -/
def State.groupTable (s : State) : List Byte := (List.range 256).flatMap fun g =>
  let k := R.ROL_GROUP g
  leBytes 1 (s.rf k F.ROL_GROUP_A_FIRST) ++ leBytes 1 (s.rf k F.ROL_GROUP_COUNTM1) ++ leBytes 1 (s.rf k F.ROL_GROUP_B_FIRST) ++
    leBytes 1 (s.rf k F.ROL_GROUP_USED + 2 * s.rf k F.ROL_GROUP_HAS_B)

/-- May a load with this group table go on: it is the recorded one, or this load records it (R337)? -/
def State.layoutFits (s : State) (tbl : List Byte) : Bool :=
  s.layoutOpen || (s.rb R.ROL_CTL F.ROL_CTL_LAYOUT_SET && tbl == s.groupTable)

/-- The group in one of whose slots a region lies. -/
def groupOf (tbl : List Byte) (r : Nat) : Option Nat := (List.range 256).find? fun g =>
  match groupEntry tbl g with
  | (a, n, b, true, hb) => decide (a ≤ r ∧ r < a + n) || (hb && decide (b ≤ r ∧ r < b + n))
  | _ => false

/-- Does the mirror index hold the last LIVE roll's content of a region: its group's digest, or outside every group the root (R331)? -/
def State.mirrored (s : State) (q : Nat × Nat) : Bool :=
  let r := s.chip.lastRoll
  s.chip.mirror.contains (256 * q.1 + q.2,
    match groupOf r.groups q.2 with | some g => field r.gdigest (32 * g) 32 | none => leNat s.chip.lastLive)

/-- Is source 4 accepted: the named root is the last LIVE roll, every region of its slot mask is mirrored, and its layout fits (R337,
R341)? -/
def State.mirrorHolds (s : State) (root : List Byte) : Bool :=
  let r := s.chip.lastRoll
  s.chip.lastLive == root && s.layoutFits r.groups &&
    r.regions.all fun q => (groupOf r.groups q.2).isNone || s.mirrored q

/-- The counters of ROL_LOAD_STAT restart (R357). -/
def restartLoadStat (phase : Nat) : Tx := chain [
  setF R.ROL_LOAD_STAT F.ROL_LOAD_STAT_RESENDS 0, setF R.ROL_LOAD_STAT F.ROL_LOAD_STAT_SAT_CNT 0,
  setF R.ROL_LOAD_STAT F.ROL_LOAD_STAT_SHARDS_DONE 0, setF R.ROL_LOAD_STAT F.ROL_LOAD_STAT_PHASE phase]

/-- Write codebook `k` of a section into the inactive bank of tile `t` (R350). -/
def writeCodebook (t k : Nat) (sec : List Byte) : Tx := fun s =>
  let b := 1 - s.rf (R.WPA_CB_STAT t) F.WPA_CB_STAT_ACTIVE
  let a := memKey 5 t (b * 0x20000 + k * 0x8000)
  [.mem a ((sec.drop (0x8000 * k)).take 0x8000), .err a (List.replicate 0x8000 0)]

/-- The codebook section is due on every tile: in units while a job runs, else at once (R350). -/
def startCodebooks (sec : List Byte) : Tx := fun s =>
  forEach s.tileList (fun t =>
    if s.running then modTile t fun ts => { ts with cbUnits := 4 }
    else forEach (List.range 4) fun k => writeCodebook t k sec) s

/-- A load begins; firmware holds CORE, TIERS and VAULT for it (R431). -/
def startLoad (a : LoadAsk) (desc : Nat) : Tx := fun s =>
  let l : LoadS := { ask := a, desc := desc, root := cmdRoot a.cmd, table := [], shards := 0, done := [], resent := [], vault := []
                     cbNeeded := false, startNs := s.chip.ns }
  chain [
    forEach ([2, 3, 7].filter fun d => decide (s.domState d < 3)) bringUp, workOn [2, 3, 7],
    restartLoadStat 1, modChip fun ch => { ch with load := some l }] s

/-- A load from the tier mirror (source 4, R341): no image is read; every region that the LIVE roll does not share comes from its
mirror copy. -/
def startMirror (x : Nat) : Tx := fun s =>
  let r := { s.chip.lastRoll with regions := s.chip.lastRoll.regions.filter s.mirrored }
  let cb := !r.cbData.isEmpty && s.live.isNone
  let shared := match s.live with | some y => (s.roll y).regions | none => []
  let changed := if s.live.isSome then 0 else ((List.range 256).filter fun g => (groupEntry r.groups g).2.2.2.1).length
  chain [
    when s.layoutOpen (recordLayout r.groups),
    setRegN (descKey x 0) 0, setRegN (descKey x 9) 0, setF (descKey x 0) F.ROL_DESC_A_0_CHANGED changed,
    setDesc x 1, setRoot x s.chip.lastLive, setMask x s.chip.lastMask, setRoll x (fun _ => { r with freeNamed := false }),
    setF (descKey x 0) F.ROL_DESC_A_0_CB_SWITCH cb.toNat,
    setF R.ROL_LOAD_STAT F.ROL_LOAD_STAT_PHASE 3,
    modLoad (fun l => { l with vault := r.regions.filter fun q => !shared.contains q, cbNeeded := cb }),
    when cb (startCodebooks r.cbData), tryFinish] s

/-- Does an adapter slot of the module name entry `e` with a non-zero key (R356)? -/
def State.entryInUse (s : State) (e : Nat) : Bool := s.tileList.any fun t => (List.range 16).any fun n =>
  s.rf (R.MXA_ADP_SLOT t n) F.MXA_ADP_SLOT_PKEY != 0 && s.rf (R.MXA_ADP_SLOT t n) F.MXA_ADP_SLOT_ENTRY == e

/-- The entry of an adapter load. -/
def LoadAsk.entry (a : LoadAsk) : Nat := a.cmd.w6.toNat % 32

/-- The status with which a load is refused before its image is read, 0 where it is not (R340, R341, R356). -/
def State.askStatus (s : State) (a : LoadAsk) : Nat :=
  if a.own && a.source == 2 && s.portState a.drive != 6 then 0x0103
  else if a.adapter then
    if decide (3 < a.source) || a.cmd.w6.toNat / 2 ^ 16 % 2 ^ 16 == 0 then 0x0103
    else if s.entryInUse a.entry then 0x0404 else 0
  else if 4 < a.source then 0x0103
  else if s.loadDesc.isNone then 0x0404
  else if a.source = 4 && !s.mirrorHolds (cmdRoot a.cmd) then 0x0103 else 0

/-- A load is asked for: refused, begun, or, behind another that runs, made to wait for its end (R340; log entry 58). -/
def askLoad (a : LoadAsk) : Tx := fun s =>
  if s.askStatus a ≠ 0 then a.reply (s.askStatus a) 0 0 s
  else if s.chip.load.isSome then modChip (fun c => { c with loadWait := c.loadWait ++ [a] }) s
  else
    let x := if a.adapter then a.entry else s.loadDesc.getD 0
    chain [startLoad a x, when (a.own && decide (3 ≤ a.source)) (tellModules 13 (leNat (cmdRoot a.cmd))),
      when (a.source == 4) (startMirror x)] s

/-- Loads that waited begin, in order, once none runs. -/
def nextLoads : Tx := fun s =>
  forEach s.chip.loadWait (fun a => whenS (fun s' => s'.chip.load.isNone && s'.chip.loadWait.head? == some a) (chain [
    modChip fun c => { c with loadWait := c.loadWait.tail }, askLoad a])) s

/-- What a command of a load asks for; `own` where this module owes its reply. -/
def askOf (c : Cmd) (own : Bool) : LoadAsk :=
  if c.opcode = 0x0210 then ⟨c, own, true, c.w6.toNat / 256 % 8, false, false⟩
  else if c.opcode = 0x0203 then
    let src := c.w7.toNat / 2 % 8
    ⟨c, own, false, src, c.w7.toNat.testBit 4 && decide (src < 3), own⟩
  else ⟨c, own, false, c.w6.toNat % 8, c.w6.toNat.testBit 3 && decide (c.w6.toNat % 8 < 3), false⟩

/-- ROLL_LOAD, ADAPTER_LOAD and a ROLL_SWITCH that builds are the manager's (R340). -/
def loadTx (c : Cmd) : Tx := fun s => if s.isManager then askLoad (askOf c true) s else postReply c 0x0103 0 0 s

/-- ROLL_ARM: of a roll that is BUILT on every module (R340). -/
def rollArmTx (c : Cmd) : Tx := fun s =>
  if !s.isManager then postReply c 0x0103 0 0 s
  else match [0, 1].find? (fun x => s.descState x == 2 && s.descRoot x == (cmdRoot c)) with
    | some x =>
      if s.chip.load.any fun l => !l.ask.adapter && l.desc == x then postReply c 0x0203 0 0 s
      else chain [setDesc x 3, tellModules 9 (leNat (cmdRoot c)), postReply c 0 0 0] s
    | none => postReply c 0x0203 0 0 s

/-- ROLL_SWITCH (R351). -/
def rollSwitchTx (c : Cmd) : Tx := fun s =>
  if !s.isManager then postReply c 0x0103 0 0 s
  else if c.w7.toNat.testBit 0 then
    let src := c.w7.toNat / 2 % 8
    if src = 1 ∨ src = 3 ∨ src = 4 then loadTx c s else postReply c 0x0103 0 0 s
  else match [0, 1].find? (fun x => s.descState x == 3 && s.descRoot x == (cmdRoot c)) with
    | some x => chain [switchRoll x c.w6.toNat, postReply c 0 0 0] s
    | none => postReply c 0x0203 0 0 s

/-- ROLL_FREE. -/
def rollFreeTx (c : Cmd) : Tx := fun s =>
  if !s.isManager then postReply c 0x0103 0 0 s
  else match s.byRoot (cmdRoot c) with
    | none => postReply c 0x0103 0 0 s
    | some x =>
      let st := s.descState x
      if st = 4 then postReply c 0x0103 0 0 s
      else if st = 1 ∨ (st = 5 ∧ 0 < s.bound x) then postReply c 0x0404 0 0 s
      else if st = 5 then chain [
        tellStandby, setRoll x (fun r => { r with freeNamed := true }), tellModules 10 (leNat (cmdRoot c)), oldRollFreeTx,
        postReply c 0 0 0] s
      else chain [emptyDesc x, tellModules 10 (leNat (cmdRoot c)), postReply c 0 0 0] s

/-- The root of a roll as a message carries it (log entry 70). -/
def rootBytes (n : Nat) : List Byte := leBytes 32 n

/-- The manager's ROLL_ARM reaches another module: the BUILT roll of that root is ARMED (R340). -/
def armedElsewhere (root : List Byte) : Tx := fun s =>
  match [0, 1].find? fun x => s.descState x == 2 && s.descRoot x == root with
  | some x => setDesc x 3 s
  | none => []

/-- The manager's ROLL_FREE reaches another module: the roll of that root is emptied, an OLD one as R353 says. -/
def freedElsewhere (root : List Byte) : Tx := fun s =>
  match s.byRoot root with
  | none => []
  | some x =>
    if s.descState x = 5 then chain [setRoll x (fun r => { r with freeNamed := true }), oldRollFreeTx] s
    else if s.descState x = 4 ∨ s.descState x = 1 then [] else emptyDesc x s

/-- ROLL_LOAD. -/
def execRollLoad (c : Cmd) (s : State) : Out :=
  commit (onStart c (loadTx { c with opcode := 0x0201 })) s
/-- ROLL_ARM. -/
def execRollArm (c : Cmd) (s : State) : Out := commit (onStart c (rollArmTx c)) s
/-- ROLL_SWITCH. -/
def execRollSwitch (c : Cmd) (s : State) : Out := commit (onStart c (rollSwitchTx { c with opcode := 0x0203 })) s
/-- ROLL_FREE. -/
def execRollFree (c : Cmd) (s : State) : Out := commit (onStart c (rollFreeTx c)) s
/-- ADAPTER_LOAD. -/
def execAdapterLoad (c : Cmd) (s : State) : Out :=
  commit (onStart c (loadTx { c with opcode := 0x0210 })) s

/-! ### The header and the tables (R332–R338, R342) -/

/-- No range passes region 255 and no two overlap (R337). -/
def groupsOk (tbl : List Byte) : Bool :=
  let rs := groupRanges tbl
  rs.all (fun r => decide (r.1 + r.2 ≤ 256)) &&
    (List.range 256).all (fun q => (rs.filter fun r => decide (r.1 ≤ q ∧ q < r.1 + r.2)).length ≤ 1) &&
    (List.range 256).all (fun g => decide (field tbl (4 * g + 3) 1 < 4))

/-- A shard's tier extent against the group table (R334). -/
def shardPlaced (tbl : List Byte) (x : Shard) : Bool :=
  if x.kind = 0 then
    match groupEntry tbl x.group with
    | (a, n, _, used, _) => used && x.regions.all fun r => decide (a ≤ r ∧ r < a + n)
  else (groupRanges tbl).all fun g => x.regions.all fun r => !decide (g.1 ≤ r ∧ r < g.1 + g.2)

/-- The parts of an image that the reading module sends to every module: header (0x2500 bytes), shard table, codebook section. -/
structure RollTable where
  head : List Byte
  table : List Byte
  cb : List Byte

/-- Read the parts of an image, of which `img o n` gives `n` bytes from offset `o` (R332). -/
def cutTable (img : Nat → Nat → List Byte) : RollTable :=
  let h := img 0 0x2500
  let cb := field h 0x18 8
  ⟨h, img (field h 0x10 8) (96 * field h 0xC 4), if cb = 0 then [] else img cb 0x20000⟩

/-- The image that a load reads: the manager's source 0 is host memory at word 7 of the command, another image comes as bytes (R341). -/
def State.imageOf (s : State) (a : LoadAsk) (bytes : List Byte) (o n : Nat) : List Byte :=
  if a.own && a.source == 0 then s.hostBytes (a.cmd.w7.toNat + o) n else (bytes.drop o).take n

/-- The header's group table. -/
def RollTable.groups (r : RollTable) : List Byte := (r.head.drop 0x100).take 1024
/-- Its shards. -/
def RollTable.shards (r : RollTable) : List Shard := (pieces 96 r.table).map readShard
/-- Its group digests, computed from the table (R336). -/
def RollTable.gdigest (r : RollTable) : List Byte :=
  let xs := r.shards.filter (·.kind == 0)
  (List.range 256).flatMap fun g => sha256 ((xs.filter (·.group == g)).flatMap (·.digest))

/-- Do the header's group digests say what the table's shards give (R332, R336)? -/
def RollTable.gdigestOk (r : RollTable) : Bool := (List.range 256).all fun g =>
  !(r.shards.any fun x => x.kind == 0 && x.group == g) ||
    (r.head.drop (0x500 + 32 * g)).take 32 == (r.gdigest.drop (32 * g)).take 32

/-- The checks of header and table before any effect (R334, R337, R342): `true` when they pass. -/
def State.tableOk (s : State) (l : LoadS) (r : RollTable) : Bool :=
  let h := r.head
  let n := field h 0xC 4
  let tbl := if l.ask.adapter && s.rb R.ROL_CTL F.ROL_CTL_LAYOUT_SET then s.groupTable else r.groups
  decide (h.length = 0x2500) && field h 0 4 == 0x4C4C4F52 && field h 4 2 == 1 && field h 6 2 == s.grade &&
    field h 8 2 == s.chip.part.modules && field h 0xA 2 == 0 && decide (1 ≤ n ∧ n ≤ 16777215) &&
    decide (r.table.length = 96 * n) && (h.drop 0x80).take 128 == List.replicate 128 0 &&
    (h.drop 0x20).take 32 == l.root && merkleRoot (r.shards.map (·.digest)) == l.root &&
    (h.drop 0x40).take 32 == sha256 r.groups && groupsOk r.groups && r.gdigestOk &&
    (if field h 0x18 8 = 0 then (h.drop 0x60).take 32 == List.replicate 32 0
     else decide (r.cb.length = 0x20000) && (h.drop 0x60).take 32 == sha256 r.cb) &&
    (if l.ask.adapter then !s.rb R.ROL_CTL F.ROL_CTL_LAYOUT_SET || r.groups == s.groupTable else s.layoutFits r.groups) &&
    r.shards.all (fun x => x.ok s.numTiles s.chip.part.modules && shardPlaced tbl x && (!l.ask.adapter || x.kind != 0))

/-- Is group `g` changed against the LIVE roll (R336)? Where no roll is LIVE every USED group is written. -/
def State.groupChanged (s : State) (r : RollTable) (g : Nat) : Bool :=
  (groupEntry r.groups g).2.2.2.1 &&
    match s.live with
    | none => true
    | some y => field r.gdigest (32 * g) 32 != field (s.roll y).gdigest (32 * g) 32 ||
        ((r.shards.any fun x => x.kind == 0 && x.group == g && x.tfmt == 13) && (r.head.drop 0x60).take 32 != (s.roll y).cbDigest)

/-- Bytes left in the roll store (Table: Vault partitions). -/
def State.storeRoom (s : State) : Nat := 119655038976 - (s.chip.rollStore.map fun e => e.bytes.length).foldl (· + ·) 0

/-- Does a changed group find no second slot (R338)? -/
def State.noSlot (s : State) (r : RollTable) : Bool :=
  s.live.isSome && (List.range 256).any fun g => s.groupChanged r g && !(groupEntry r.groups g).2.2.2.2

/-- The new roll's slot mask (R338). -/
def State.newMask (s : State) (r : RollTable) : Nat :=
  match s.live with
  | none => 0
  | some y => ((List.range 256).map fun g =>
      if (groupEntry r.groups g).2.2.2.1 && (s.slotMask y g != s.groupChanged r g) then 2 ^ g else 0).foldl (· + ·) 0

/-- Regions that the new roll shares with the LIVE roll: those of its unchanged groups' slots (R336). -/
def State.sharedRegions (s : State) (r : RollTable) : List (Nat × Nat) :=
  match s.live with
  | none => []
  | some y => (s.roll y).regions.filter fun q => (List.range 256).any fun g =>
      match groupEntry r.groups g with
      | (a, n, b, true, _) => !s.groupChanged r g &&
          (let f := if s.slotMask y g then b else a; decide (f ≤ q.2 ∧ q.2 < f + n))
      | _ => false

/-- A passing table of a roll: the descriptor is LOADING (R337, R338, R340, R350). -/
def acceptRoll (l : LoadS) (r : RollTable) : Tx := fun s =>
  let x := l.desc
  let mask := s.newMask r
  let changed := ((List.range 256).filter (s.groupChanged r)).length
  let cb := !r.cb.isEmpty && (match s.live with | none => true | some y => (s.roll y).cbDigest != (r.head.drop 0x60).take 32)
  let shared := s.sharedRegions r
  chain [
    when s.layoutOpen (recordLayout r.groups),
    setRegN (descKey x 0) 0, setDesc x 1, setRegN (descKey x 9) 0,
    setF (descKey x 0) F.ROL_DESC_A_0_CB_SWITCH cb.toNat, setF (descKey x 0) F.ROL_DESC_A_0_CHANGED changed,
    setRoot x l.root, setMask x mask,
    setRoll x (fun _ => { groups := r.groups, gdigest := r.gdigest, cbDigest := (r.head.drop 0x60).take 32, cbData := r.cb, regions := shared }),
    modLoad (fun m => { m with table := r.table, shards := field r.head 0xC 4, cbNeeded := cb, startNs := s.chip.ns, cbData := r.cb }),
    setF R.ROL_LOAD_STAT F.ROL_LOAD_STAT_PHASE 2,
    when cb (startCodebooks r.cb), tryFinish] s

/-- A passing table of an adapter: its entry loses VALID before the first write (R356). -/
def acceptAdapter (l : LoadS) (r : RollTable) : Tx := fun s => chain [
  forEach s.tileList (fun t => setF (R.MXA_ADP_TBL_0 t l.desc) F.MXA_ADP_TBL_0_VALID 0),
  modLoad (fun m => { m with table := r.table, shards := field r.head 0xC 4, startNs := s.chip.ns, cbData := r.cb }),
  setF R.ROL_LOAD_STAT F.ROL_LOAD_STAT_PHASE 2, tryFinish] s

/-- A refused load leaves everything as it was. -/
def refuseLoad (l : LoadS) (status : Nat) : Tx := chain [
  modChip (fun c => { c with load := none }), setF R.ROL_LOAD_STAT F.ROL_LOAD_STAT_PHASE 0, l.ask.reply status 0 0,
  if l.ask.own then tellModules 12 0 else sendMgmt 3 status]

/-- A shard in the own roll store under the root and digest (R344). -/
def State.storedShard (s : State) (l : LoadS) (x : Shard) : Option (List Byte) :=
  (s.chip.rollStore.find? fun e => e.root == l.root && e.digest == x.digest).map (·.bytes)

/-- Is there room in the roll store for the shards that this module is to store: those that are sent to it and not stored already (R336, R340,
R341)? -/
def State.storeFits (s : State) (l : LoadS) (r : RollTable) : Bool :=
  let xs := r.shards.filter fun x =>
    x.toModule s.position && (x.kind != 0 || s.groupChanged r x.group) && (s.storedShard l x).isNone
  decide ((xs.map (·.length)).foldl (· + ·) 0 ≤ s.storeRoom)

/-- The header and the tables reach a module with a load that awaits them. -/
def checkTable (l : LoadS) (r : RollTable) : Tx := fun s =>
  if !s.tableOk l r then refuseLoad l 0x0103 s
  else if l.ask.adapter then acceptAdapter l r s
  else if s.noSlot r || (l.ask.store && !s.storeFits l r) then refuseLoad l 0x0403 s
  else acceptRoll l r s

/-- ROLL_TABLE_RECEIVE: another module than the manager learns of a load by it; the reading module first sends what it has read to every other
(R342). -/
def rollTableReceiveTx (m : RollTableMsg) : Tx := chain [
  whenS (fun s => !s.isManager && s.chip.load.isNone) (askLoad (askOf m.cmd false)),
  fun s => match s.chip.load with
    | none => []
    | some l =>
      if l.ask.source = 4 ∨ l.table ≠ [] then []
      else
        let r := cutTable (s.imageOf l.ask m.bytes)
        chain [when (l.ask.own && decide (l.ask.source < 3)) (sendTable (r.head ++ r.table ++ r.cb)), checkTable l r] s,
  nextLoads]

/-- ROLL_TABLE_RECEIVE. -/
def execRollTableReceive (m : RollTableMsg) (s : State) : Out := commit (rollTableReceiveTx m) s

/-! ### Shards (R343–R350) -/

/-- Regions of the load that all their shards have written and whose vault copy has not begun (R350). -/
def State.doneRegions (s : State) (l : LoadS) (x : Shard) : List (Nat × Nat) :=
  let rest := ((s.needed l).filter fun i => !l.done.contains i).map l.shard
  let left := rest.flatMap (s.shardRegions l)
  (s.shardRegions l x).filter fun r => !left.contains r

/-- The codebooks that a shard's VQ12×8 blocks for tile `t` use: the image's section, else those in effect at the tile (R348, log
entry 29). -/
def State.shardBooks (s : State) (l : LoadS) (x : Shard) (t : Nat) : List Byte :=
  if x.tfmt = 13 && l.cbData.isEmpty then s.bytes (memKey 5 t (s.rf (R.WPA_CB_STAT t) F.WPA_CB_STAT_ACTIVE * 0x20000)) 0x20000 else l.cbData

/-- A verified shard is transformed and written (R347–R350). -/
def takeShard (i : Nat) (stored : List Byte) : Tx := fun s =>
  match s.chip.load with
  | none => []
  | some l =>
    let x := l.shard i
    match x.payload stored with
    | none => chain [setF R.ROL_LOAD_STAT F.ROL_LOAD_STAT_DIGEST_FAIL 1,
        failLoad 0x0401 (i + 0x80000000) F.ROL_LOAD_STAT_XFORM_FAIL] s
    | some p =>
      let parts := (List.range x.ntile).map fun j => (x.tile + j, x.tierBytes (s.shardBooks l x (x.tile + j)) ((p.drop (j * x.perTile)).take x.perTile))
      let l' := { l with done := l.done ++ [i] }
      chain [
        forEach parts (fun q => loaderWrite q.1 (x.toff * 1024 + s.slotShift l x) q.2.1),
        incF R.ROL_LOAD_STAT F.ROL_LOAD_STAT_SAT_CNT ((parts.map fun q => q.2.2).foldl (· + ·) 0),
        incF R.ROL_LOAD_STAT F.ROL_LOAD_STAT_SHARDS_DONE 1,
        when (l.ask.store && (s.storedShard l x).isNone) (modChip fun c => { c with rollStore := c.rollStore ++ [⟨l.root, x.digest, stored⟩] }),
        when (!l.ask.adapter) (setRoll l.desc fun r => { r with regions := (r.regions ++ s.shardRegions l x).eraseDups }),
        modLoad (fun _ => { l' with vault := l'.vault ++ s.doneRegions l' x }),
        whenS (fun s' => match s'.chip.load with | some m => (s'.needed m).all m.done.contains | none => false)
          (setF R.ROL_LOAD_STAT F.ROL_LOAD_STAT_PHASE 3),
        tryFinish] s

/-- A shard that did not verify after its last resend comes from the own roll store, or the load fails (R344, R345). -/
def fallBack (i status : Nat) (flag : Fld) : Tx := fun s =>
  match s.chip.load with
  | none => []
  | some l => match s.storedShard l (l.shard i) with
    | some b => chain [setF R.ROL_LOAD_STAT F.ROL_LOAD_STAT_FALLBACK 1, takeShard i b] s
    | none => failLoad status i flag s

/-- A shard that did not verify is asked for again, up to three times; then it comes from the own roll store, or the load fails (R344). -/
def badShard (l : LoadS) (i : Nat) : Tx :=
  let n := (l.resent.find? (·.1 == i)).elim 0 (·.2)
  if n < 3 then chain [
    incF R.ROL_LOAD_STAT F.ROL_LOAD_STAT_RESENDS 1, when (!l.ask.own) (sendMgmt 2 i),
    modLoad fun m => { m with resent := (i, n + 1) :: m.resent.filter (·.1 != i) }]
  else fallBack i 0x0401 F.ROL_LOAD_STAT_DIGEST_FAIL

/-- The stored bytes of shard `i` as this module has them: from the image in host memory at its OFFSET, from the own roll store (sources
1 and 3), else as they arrived (R333, R341). -/
def State.shardBytes (s : State) (l : LoadS) (x : Shard) (bytes : List Byte) : Option (List Byte) :=
  if l.ask.source = 3 || (l.ask.own && l.ask.source == 1) then s.storedShard l x
  else if l.ask.own && l.ask.source == 0 then some (s.imageOf l.ask [] x.offset x.length)
  else some bytes

/-- SHARD_RECEIVE: shard `i` has been read or has arrived. The reading module first sends it to the others (R343); a destination takes it
when its digest is right. -/
def shardReceiveTx (i : Nat) (bytes : List Byte) : Tx := chain [
  fun s => match s.chip.load with
    | none => []
    | some l =>
      let x := l.shard i
      if l.table = [] || decide (l.shards ≤ i) then []
      else match s.shardBytes l x bytes with
        | none => []
        | some b => chain [
            when (l.ask.own && decide (l.ask.source < 3) && s.shardWritten l x)
              (if l.sent.contains i then resendShard l i b else sendShard l i b),
            when ((s.needed l).contains i && !l.done.contains i)
              (if b.length = x.length && sha256 b == x.digest then takeShard i b else badShard l i),
            tryFinish] s,
  nextLoads]

/-- SHARD_RECEIVE. -/
def execShardReceive (idx : Nat) (bytes : List Byte) (s : State) : Out :=
  commit (shardReceiveTx idx bytes) s

/-- LOAD_TIMEOUT (R345): ROL_LOAD_TIMEOUT after the shard table was verified. -/
def loadTimeoutTx : Tx := chain [
  fun s => match s.chip.load with
    | none => []
    | some l =>
      if l.table = [] then []
      else chain [
        elapseToNs (l.startNs + s.rf R.ROL_LOAD_TIMEOUT F.ROL_LOAD_TIMEOUT_MS * 1000000),
        forEach ((s.needed l).filter fun i => !l.done.contains i) (fun i => fallBack i 0x0402 F.ROL_LOAD_STAT_TIMEOUT)] s,
  nextLoads]

/-- LOAD_TIMEOUT. -/
def execLoadTimeout (s : State) : Out := commit loadTimeoutTx s

/-- The bytes of a region as they were written, without an error stored over them (R119, R124). -/
def State.regionContent (s : State) (t r : Nat) : List Byte := (List.range 1024).flatMap fun n =>
  s.lineMeant 1 t (r * 0x10000 + 64 * n)

/-- VAULT_ACCESS_COMPLETE for region `r` of tile `t` (R331, R341, R350): a mirror write ends with the index entry and the class
bit; a mirror read of source 4 writes the region and its class bit. -/
def vaultAccessCompleteTx (t r : Nat) : Tx := chain [
  fun s => match s.chip.load with
    | none => []
    | some l =>
      if !l.vault.contains (t, r) then []
      else
        let va := (256 * t + r) * 0x10000
        chain [
          if l.ask.source = 4 then loaderWrite t (r * 0x10000) (s.vaultBytes va 0x10000)
          else chain [fun s' => [.vault va (s'.regionContent t r)], setMirror t r (some (s.regionDigest l r))],
          setClass t r true,
          modLoad fun m => { m with vault := m.vault.filter (· != (t, r)) },
          tryFinish] s,
  nextLoads]

/-- VAULT_ACCESS_COMPLETE. -/
def execVaultAccessComplete (t region : Nat) (s : State) : Out := onTile t (vaultAccessCompleteTx t region) s

/-- CODEBOOK_UNIT (R350): one codebook of the running load into the tile's inactive bank. -/
def codebookUnitTx (t : Nat) : Tx := chain [
  fun s => match s.chip.load with
    | none => []
    | some l =>
      let left := (s.tile t).cbUnits
      if left = 0 then []
      else unitTx t 128 2 2 (chain [
        writeCodebook t (4 - left) (s.roll l.desc).cbData,
        modTile t fun ts => { ts with cbUnits := ts.cbUnits - 1 },
        tryFinish]) s,
  nextLoads]

/-- No job runs any more: the codebook units still to come run at once (R350). -/
def finishCodebooks : Tx := chain [
  fun s => match s.chip.load with
    | none => []
    | some l => chain [
        forEach s.tileList (fun t => let left := (s.tile t).cbUnits
          forEach ((List.range left).map fun k => 4 - left + k) fun k => writeCodebook t k (s.roll l.desc).cbData),
        forEach (s.tileList.filter fun t => (s.tile t).cbUnits != 0) (fun t => modTile t fun ts => { ts with cbUnits := 0 }),
        tryFinish] s,
  nextLoads]

/-- CODEBOOK_UNIT. -/
def execCodebookUnit (t : Nat) (s : State) : Out := onTile t (codebookUnitTx t) s

/-! ### The switch at a tick (R352) -/

/-- The roll switch armed for this frame. -/
def tickRoll : Tx := fun s =>
  match s.chip.armedRoll with
  | some x =>
    if (s.reg R.ROL_SWITCH_FRAME).toNat = s.frame then chain [
      makeLive x,
      forEach s.tileList (fun t => modTile t fun ts => { ts with servNext := some (s.frame + s.rf (R.ROL_LAG t) F.ROL_LAG_LAG, x) })] s
    else []
  | none => []

/-- Serving rolls that change at this tick. -/
def tickServing : Tx := fun s =>
  forEach s.tileList (fun t => match (s.tile t).servNext with
    | some (f, x) => when (decide (f ≤ s.frame)) (serve t x (s.rb (descKey x 0) F.ROL_DESC_A_0_CB_SWITCH))
    | none => skip) s

end Sys2Proof.Machine
end

