-- ==== Sys2Proof/Machine/Tokens.lean ====
section
/-! DEFINITION. Clapper tokens as they arrive (R382–R390, R461): GO, READY, ANNOUNCE, FREEZE. -/

namespace Sys2Proof.Machine

/-- A latency measured in 1/16 cycles at 1.8 GHz, in 1/16 cycles at the current clock, rounded to nearest (R384). -/
def State.latNow (s : State) (lat16 : Nat) : Nat := (2 * lat16 * s.perUnit + 144) / 288

/-- WAIT link slots of 0.6048 ns in 1/16 cycles at the current clock, rounded to nearest (R384). -/
def State.waitNow (s : State) (wait : Nat) : Nat := (wait * s.perUnit * 12096 + 50000) / 100000

/-- A token goes on to the next modules. -/
def forwardToken (tok : Token) : Tx := modChip fun c => { c with tokensOut := c.tokensOut ++ [tok] }

/-- Does a token of the manager come from the manager (R461)? -/
def State.fromManager (s : State) (tok : Token) : Bool := !s.isManager && tok.origin == s.chip.part.managerPos

/-- The clap that a call or a GO without a call starts. -/
def clapOf (sub seq ns : Nat) : ClapS := ⟨sub, seq, [], none, ns, 0, none⟩

/-- GO: the countdown starts, and the token goes on 8 cycles later with REM reduced by them (R384). -/
def goTokenTx (p : Nat) (tok : Token) (wait : Nat) : Tx := fun s =>
  if tok.kind != 2 || decide (3 < tok.sub) || !s.fromManager tok then []
  else
    let rem := tok.arg % 2 ^ 40 - s.latNow (s.port p).lat16 - s.waitNow wait
    let c := s.chip.clap.getD (clapOf tok.sub tok.seq s.chip.ns)
    let c' : ClapS := { c with sub := tok.sub, seq := tok.seq, rem := some rem, callNs := s.chip.ns }
    chain [
      rouse 8,
      modChip fun ch => { ch with clap := some c', clapSub := ch.nsSub, clapSeq := tok.seq },
      setF R.AUD_CLAP_STAT F.AUD_CLAP_STAT_SEQ tok.seq, setF R.AUD_CLAP_STAT F.AUD_CLAP_STAT_SUB tok.sub,
      elapse 8, forwardToken { tok with arg := rem - 128 }] s

/-- GO. -/
def execGoToken (p : Nat) (tok : Token) (wait : Nat) (s : State) : Out :=
  if p < 14 then commit (goTokenTx p tok wait) s else .refused .illFormed

/-- READY: the manager notes its origin and may raise the GO; another module passes it up, and notes it where it comes from below (R383,
R387). -/
def readyTokenTx (tok : Token) : Tx := fun s =>
  if tok.kind != 1 then []
  else chain [
    when (!s.isManager) (forwardToken tok),
    when (s.chip.clap.any (·.seq == tok.seq) && (s.isManager || s.treeBelow.contains tok.origin)) (noteReady tok.origin)] s

/-- READY. -/
def execReadyToken (tok : Token) (s : State) : Out := commit (readyTokenTx tok) s

/-- The use of a clap that another module calls: what this module waits for (Table: Claps). -/
def State.clapUse (s : State) : Nat :=
  if s.frozen || s.chip.hold.isSome || s.chip.parked then 1 else if s.running then 2 else if s.chip.restored.isSome then 3 else 0

/-- The manager's call: the module joins the clap and sends READY when it is ready (Table: Claps, R387). A parked module is
ACTIVE again (R434). For a start it first does what
JOB_START does on every module; for a realign it is ready when the tick is reached (FRAME_TICK). -/
def joinClap (seq : Nat) : Tx := fun s =>
  let use := s.clapUse
  chain [
    rouse 8,
    modChip fun c => { c with clapSeq := seq, clap := some (clapOf use seq c.ns) },
    when s.chip.parked (chain [jobVotes, modChip fun c => { c with parked := false }]),
    when (use == 1 || use == 3) selfReady, settleClap] s

/-- A clap that fails leaves the module as it was before the call (R387): a job that was to start does not run. -/
def leaveClap : Tx := fun s =>
  match s.chip.clap with
  | none => []
  | some c => chain [
      when (c.sub == 0 || c.sub == 3) (chain [
        putBack,
        setF R.FRM_CTL F.FRM_CTL_RUN 0, setF R.AUD_REPLAY_CTL F.AUD_REPLAY_CTL_REPLAYING 0, setF R.AUD_STAT F.AUD_STAT_RESTORING 0]),
      modChip fun ch => { ch with clap := none }] s

/-- ANNOUNCE: 0 realign frame, 1 roll switch frame, 2 clock change frame, 3 capture frame, 4 clap call, 5 clap abort (R389). The
manager itself set what it announced. A token does not carry the step that a module writes into CLK_STEP (R419), nor whether a capture is a
park's (R434): a message of the manager told it (log entry 70); a step that none told is a free value (log entry 23). -/
def announceTokenTx (tok : Token) : Tx := fun s =>
  let said := (s.chip.said.find? (·.1 == tok.sub)).map (·.2)
  if tok.kind != 3 || decide (5 < tok.sub) || !s.fromManager tok then []
  else chain [
    (match tok.sub with
      | 0 => setRegN R.FRM_REALIGN_FRAME tok.arg
      | 1 => announcedSwitch tok.arg
      | 2 => chain [setRegN R.CLK_CHANGE_FRAME tok.arg, setTw R.CLK_STEP (said.getD (s.free.toNat % 73)), bumpFree]
      | 3 => modChip fun c => { c with capture := some ⟨tok.arg, said.isSome, none⟩ }
      | 4 => joinClap tok.seq
      | _ => leaveClap),
    modChip fun c => { c with said := c.said.filter (·.1 != tok.sub) },
    forwardToken tok] s

/-- ANNOUNCE. -/
def execAnnounceToken (tok : Token) (s : State) : Out := commit (announceTokenTx tok) s

/-- FREEZE: on the first arrival of its SEQ the chip freezes within 64 cycles and passes the token on (R383, R390). -/
def freezeTokenTx (tok : Token) : Tx := fun s =>
  if tok.kind != 4 || s.chip.freezeSeen.contains tok.seq then []
  else chain [
    modChip (fun c => { c with freezeSeen := c.freezeSeen ++ [tok.seq] }),
    when (s.running && !s.frozen) (freezeSoon s.chip.fcyc false),
    forwardToken tok] s

/-- FREEZE. -/
def execFreezeToken (tok : Token) (s : State) : Out := commit (freezeTokenTx tok) s

end Sys2Proof.Machine
end

