-- ==== Sys2Proof/Machine/Fabric.lean ====
section
/-! DEFINITION. The fabric (spec/11): packets that arrive (R305–R314, R322, R323), their release or forwarding (R305, R317),
completions (R313), control symbols (R307–R310), rate limits (R324, R325) and congestion maps (R326). -/

namespace Sys2Proof.Machine

/-! ### Rate limits (R325) -/

/-- ECN_RATE_PERIOD: a sprocket period ends; limits without a mark rise, and the counts of sent bytes begin again. -/
def ecnRatePeriodTx : Tx := chain [
  look fun s =>
    let b := (s.chip.fcyc / 1024 + 1) * 1024
    when (s.running && !s.tickBefore b) (elapseTo b),
  fun s =>
    let top := 64 * s.rf R.FAB_ECN_CTL F.FAB_ECN_CTL_MAX
    let up := 64 * s.rf R.FAB_ECN_CTL F.FAB_ECN_CTL_INC
    modChip (fun c => { c with
      rate := if !s.rb R.FAB_ECN_CTL F.FAB_ECN_CTL_EN then [] else c.rate.map fun r => if c.marked.contains r.1 then r else (r.1, min top (r.2 + up))
      marked := []
      sent := c.sent.filter fun x => decide (c.fcyc / 1024 ≤ x.2.1) }) s]

/-- ECN_RATE_PERIOD. -/
def execEcnRatePeriod (s : State) : Out := commit ecnRatePeriodTx s

/-! ### Congestion maps (R326) -/

/-- The words of a histogram set: 8p + bin of a port, 128 + 4t + bin of a tile. -/
def histWords : List Nat := List.range 112 ++ (List.range 2048).map (· + 128)

/-- CMAP_EPOCH: at the next millisecond the sets swap; the set read until then has been gathered. -/
def cmapEpochTx : Tx := chain [
  look fun s => elapseToNs ((s.chip.ns / 1000000 + 1) * 1000000),
  fun s =>
    let e := s.rf R.FAB_CMAP_CTL F.FAB_CMAP_CTL_EPOCH
    let ws := (histWords.map fun w => (w, s.histWord s.chip.readCycles s.chip.histRead w)).filter fun x => x.2 != 0
    chain [
      modChip fun c => { c with
        cmaps := if e = 0 then c.cmaps else (e, ws) :: c.cmaps
        readCycles := c.histCycles
        histRead := c.histCount
        histCycles := 0
        histCount := [] },
      setF R.FAB_CMAP_CTL F.FAB_CMAP_CTL_EPOCH (e + 1)] s]

/-- CMAP_EPOCH. -/
def execCmapEpoch (s : State) : Out := commit cmapEpochTx s

/-! ### Release (R305, R313, R317) -/

/-- The input port of the attachment tile that a stop enters by. -/
def stopSide (p : Nat) : Nat := if p < 4 then 1 else if p < 8 then 0 else if p < 12 then 3 else 2

/-- The bytes of a packet's payload with its flits' poison. -/
def payloadOf (k : Packet) : List PByte := k.payload.zipIdx.map fun b => (b.1, k.poison.testBit (b.2 / 64))

/-- The flits of a packet released at port `p` in frame cycle `r`: flit `i` comes ⌈4i/3⌉ cycles after the first (R51). -/
def State.releasedFlits (s : State) (p r : Nat) (k : Packet) (xid : Nat) : List Flit :=
  let f : Flit := { flit0 with
    id := s.chip.nextId, xid := xid, kind := k.ptype, cur := s.attach p, inPort := stopSide p, dstTile := s.homeTile (gTile k.dst), sched := k.sched
    demoted := k.demoted, g := k.dst, wm := k.wm, gm := k.gm, len := k.tlen, srcMod := k.srcMod, srcTile := k.srcTile
    stream := k.srcStream, ttag := k.ttag, ce := k.ecnCe, inbound := k.ptype != 2, cyc := r + 4 }
  if k.ptype = 1 then [{ f with ret := field k.payload 0 8, len := field k.payload 8 2 }]
  else dataFlits f ((List.range (pktFlits k)).map fun i => r + 4 + (4 * i + 2) / 3) (payloadOf k)

/-- The tracker of an inbound WRITE transfer counts a packet: its first one takes it (R312, R324). -/
def trackInbound (k : Packet) : Tx := fun s =>
  let base := gOff k.dst + 0x40000000000 - 384 * k.seq
  match s.chip.inbound.find? (fun i => i.srcMod == k.srcMod && i.ttag == k.ttag) with
  | some _ => modChip (fun c => { c with inbound := c.inbound.map fun i =>
      if i.srcMod = k.srcMod ∧ i.ttag = k.ttag then { i with ce := i.ce || k.ecnCe } else i }) s
  | none => chain [
      modChip fun c => { c with inbound := c.inbound ++ [⟨k.pkey, k.srcMod, k.ttag, k.tlen, 0, k.ecnCe,
        if k.wm ≠ 0 ∧ gSpace k.dst = 0 then awaited (base % 0x40000000000) (64 * k.tlen) else [], k.srcStream, k.srcTile⟩] },
      noteTrackers] s

/-- Is a tracker free for a new inbound transfer (R312)? -/
def State.inboundFree (s : State) (k : Packet) : Bool :=
  s.chip.inbound.any (fun i => i.srcMod == k.srcMod && i.ttag == k.ttag) ||
    decide ((s.chip.xfers.filter (·.tracked)).length + s.chip.inbound.length < 32768)

/-- A COMPLETION at port `p`: the tracker is free, the fence's wait ends when it has reached the tile, an echo lowers the limit
(R313, R325). -/
def takeCompletion (p : Nat) (k : Packet) : Tx := fun s =>
  match s.chip.xfers.find? (fun x => x.tracked && x.ttag == k.ttag && x.dstMod == k.srcMod) with
  | none => []
  | some x => chain [
      finishXfer x (s.chip.fcyc + 3 * (s.hops (s.attach p) x.tile + 1)),
      when k.ecnEcho (reduceRate k.srcMod)] s

/-- A management message: its kind and argument, where a packet carries one. Its form is the model's (DESIGN CHOICE, log entry 70): a MGMT packet
of key 0 whose payload begins with the kind in 8 bytes and the argument in 32. -/
def mgmtMessage (k : Packet) : Option (Nat × Nat) :=
  if k.ptype = 4 ∧ 40 ≤ k.payload.length then some (field k.payload 0 8, field k.payload 8 32) else none

/-- What the manager does with a message of module `d` (R104, R321, R344, R346, R420). -/
def managerTakes (d kind arg : Nat) : Tx := fun s =>
  let own := s.chip.load.any fun l => l.ask.own
  match kind with
  | 2 => when own (modLoad fun l => { l with again := l.again ++ [(arg, d)] }) s
  | 3 => when own (chain [failLoadAt (arg % 65536) (arg / 65536) d, nextLoads]) s
  | 4 => when own (chain [modLoad fun l => { l with built := l.built ++ [d] }, tryFinish, nextLoads]) s
  | 5 => callResume s
  | 6 => stepDown arg 0 s
  | 8 => when (!s.running) (sendMgmt 11 d) s
  | _ => []

/-- What another module does with a message of the manager (R321, R340, R346, R419, R434). -/
def workerTakes (kind arg : Nat) : Tx := fun s =>
  match kind with
  | 9 => armedElsewhere (rootBytes arg) s
  | 10 => freedElsewhere (rootBytes arg) s
  | 11 => bypassOpenGrantTx true s
  | 14 => modChip (fun c => { c with said := (2, arg) :: c.said.filter (·.1 != 2) }) s
  | 15 => modChip (fun c => { c with said := (3, 1) :: c.said.filter (·.1 != 3) }) s
  | 12 => match s.chip.load with
    | some l => when (!l.ask.own) (chain [abandonLoad l, nextLoads]) s
    | none => []
  | _ => []

/-- A key-0 packet goes to the management complex, and to no tile (R322). A WRITE to chip registers is applied there; the bytes of any
other count towards its transfer, whose COMPLETION carries key 0. A message has its effect. What else the management does with it the spec
leaves open. -/
def enterManagement (r : Nat) (k : Packet) : Tx := fun s => chain [
  modChip fun c => { c with mgmtIn := c.mgmtIn ++ [k] },
  (match mgmtMessage k with
    | some m =>
      if s.isManager then managerTakes k.srcMod m.1 m.2
      else when (k.srcMod == s.chip.part.managerPos) (workerTakes m.1 m.2)
    | none => skip),
  when (k.ptype == 0 && !s.badAddr k.dst) (chain [
    trackInbound { k with wm := 0 },
    if gSpace k.dst = 7 then land 7 0 (gOff k.dst) k.payload false ⟨0, k.srcMod, k.ttag, true⟩ r
    else countInbound k.srcMod k.ttag (gTile k.dst) (gOff k.dst) k.payload.length r])] s

/-- A packet of a job's key for this module is released at port `p` in frame cycle `r`. A WRITE to chip registers, which have no place in
the mesh, is applied at once (DESIGN CHOICE, log entry 53). -/
def enterTiles (p r : Nat) (k : Packet) : Tx := fun s =>
  match k.ptype with
  | 0 =>
    if s.badAddr k.dst then []
    else if gSpace k.dst = 7 then chain [
      trackInbound k, land 7 0 (gOff k.dst) k.payload false ⟨0, k.srcMod, k.ttag, true⟩ r] s
    else chain [trackInbound k, inject (s.releasedFlits p r k 0)] s
  | 1 => if s.badAddr k.dst then [] else inject (s.releasedFlits p r k 0) s
  | 2 => match s.chip.xfers.find? (fun x => x.tracked && x.ttag == k.ttag && x.dstMod == s.position) with
    | some x => inject (s.releasedFlits p r k x.id) s
    | none => []
  | 3 => takeCompletion p k s
  | _ => []

/-- A packet for this module is released at port `p` in frame cycle `r`: key 0 is the management's (R322). -/
def enterModule (p r : Nat) (k : Packet) : Tx := if k.pkey = 0 then enterManagement r k else enterTiles p r k

/-- Must a released packet wait in its buffer: no tracker is free, or no way leads on (R312, R316)? -/
def State.mustWait (s : State) (p : Nat) (k : Packet) : Bool :=
  if (s.shardOf p k).isSome then false
  else if gMod k.dst = s.position then k.ptype == 0 && !s.inboundFree k else (s.route (gMod k.dst) k.srcTile (gTile k.dst)).isNone

/-- A packet is released at port `p` in frame cycle `r`: into the module, or on to the next, 24 cycles later (R317); a shard's goes on
towards each of its destinations (R343). -/
def releasePacket (p r : Nat) (k : Packet) : Tx := fun s =>
  if let some i := s.shardOf p k then passShard p i k s
  else if gMod k.dst = s.position then enterModule p r k s
  else match s.route (gMod k.dst) k.srcTile (gTile k.dst) with
    | none => []
    | some (q, dem) =>
      let k' := { k with hops := k.hops + 1, sched := k.sched && !dem, demoted := k.demoted || dem, retx := false }
      chain [when (k.sched && dem) (noteDemote q true), egress q (xferTag k) (r + 24 : Nat) k'] s

/-- Position of the chip (R305). -/
def State.chipPos (s : State) : Nat := s.frmLen * s.frame + s.chip.fcyc

/-- The release position of a stamp at port `p`, its frame number within ±128 frames of the own one (R305). -/
def State.releasePos (s : State) (p : Nat) (k : Packet) : Nat :=
  let f := s.frame
  let d := (k.stampFn + 256 - f % 256) % 256
  let n := if d < 128 then f + d else f + d - 256
  s.frmLen * n + k.stampCyc + s.rf (R.FAB_LINK_DEPTH p) F.FAB_LINK_DEPTH_DEPTH

/-- The frame cycle at which a release position is reached, at once where it has passed or a capture holds (R305, R404). -/
def State.releaseCyc (s : State) (pos : Nat) : Nat :=
  if s.chip.hold.isSome then s.chip.fcyc else max s.chip.fcyc (pos - s.frmLen * s.frame)

/-- The packet of some that is released next: the lowest release position, the first to arrive among equals. -/
def firstRelease (xs : List RxPacket) : Option RxPacket :=
  xs.foldl (fun a e => match a with | none => some e | some b => if e.pos < b.pos then some e else a) none

/-- PACKET_RELEASE: of the buffered packets that nothing holds back, the one whose position comes first is released once the chip
reaches it; one that waits for a tracker or a way stands in no other's way (R305, R306, R312). -/
def packetReleaseTx (p : Nat) : Tx := fun s =>
  match firstRelease ((s.port p).rx.filter fun e => !s.mustWait p e.pkt) with
  | none => []
  | some e =>
    let r := s.releaseCyc e.pos
    if s.meshHeld || (decide (s.chip.fcyc < r) && (s.tickBefore r || !s.released)) then []
    else chain [
      elapseTo r,
      modPort p fun x => { x with rx := x.rx.erase e, creditOut := x.creditOut + (if e.credit then pktCost e.pkt else 0) },
      releasePacket p r e.pkt] s

/-- PACKET_RELEASE. -/
def execPacketRelease (p : Nat) (s : State) : Out := onPort p (packetReleaseTx p) s

/-! ### Arrival (R306, R309, R310, R317, R323) -/

/-- The next packet of the link was received (`true`) or lost: a loss takes the number that was expected and extends the latest run of
losses it follows (R307, R309). -/
def noteLseq (p lseq : Nat) (good : Bool) : Tx := modPort p fun x =>
  if good then { x with lastRx := lseq, nextRx := (lseq + 1) % 65536 }
  else
    let n := x.nextRx
    { x with
      nextRx := (n + 1) % 65536
      losses := match x.losses.reverse with
        | (f, k) :: _ => if (f + k) % 65536 = n then x.losses.dropLast ++ [(f, k + 1)] else x.losses ++ [(n, 1)]
        | [] => [(n, 1)] }

/-- Is a key allowed at port `p` (R323)? -/
def State.keyAllowed (s : State) (p key : Nat) : Bool :=
  key == 0 || (List.range 64).any fun k => (s.tw (R.FAB_PKEY_TBL p k)).testBit 16 && s.tw (R.FAB_PKEY_TBL p k) % 65536 == key

/-- Is there room in the 384 KiB buffer of scheduled packets, which holds their payload: 8,192 cycles at 48 bytes a cycle (R306)? -/
def PortS.rxRoom (x : PortS) (k : Packet) : Bool :=
  decide ((x.rx.map fun e => if e.pkt.sched then e.pkt.payload.length else 0).foldl (· + ·) 0 + k.payload.length ≤ 0x60000)

/-- An unscheduled packet is released as soon as it arrives, or waits for a tracker or a way; one that was sent unscheduled returns its
credit (R306, R307, R312). -/
def takeUnscheduled (p : Nat) (credit : Bool) (k : Packet) : Tx := fun s =>
  if s.meshHeld || s.mustWait p k then modPort p (fun x => { x with rx := x.rx ++ [⟨0, credit, k⟩] }) s
  else chain [
    modPort p fun x => { x with creditOut := x.creditOut + (if credit then pktCost k else 0) },
    releasePacket p s.chip.fcyc k] s

/-- A packet whose CRC is good and whose key is allowed. -/
def takePacket (p : Nat) (k : Packet) : Tx := fun s =>
  if 5 ≤ k.ptype ∨ (k.hops = 15 ∧ gMod k.dst ≠ s.position) then incF (R.FAB_PORT_DROP p) F.FAB_PORT_DROP_BAD_DROP 1 s
  else if !k.sched then takeUnscheduled p true k s
  else if (s.port p).rxRoom k then modPort p (fun x => { x with rx := x.rx ++ [⟨s.releasePos p k, false, k⟩] }) s
  else chain [
    noteDemote p true, setF R.FRM_FAULT F.FRM_FAULT_SKEW 1, takeUnscheduled p false { k with sched := false, demoted := true }] s

/-- FABRIC_PACKET_ARRIVE: `crc` is the packet's CRC field (R311), `ue` says how many uncorrectable codewords the packet touches; one that touches any, or whose CRC is wrong, is
dropped and reported lost (R309). -/
def fabricPacketArriveTx (p : Nat) (k : Packet) (crc ue : Nat) : Tx := fun s =>
  if !s.portUp p then []
  else if crc != packetCrc k || ue != 0 then chain [
    rouse (portDom p),
    when (crc != packetCrc k) (incF (R.FAB_PORT_DROP p) F.FAB_PORT_DROP_CRC_FAIL 1),
    incF (R.FAB_PORT_DROP p) F.FAB_PORT_DROP_FEC_UE ue, noteLseq p 0 false] s
  else chain [
    rouse (portDom p), noteLseq p k.lseq true,
    forEach (List.range 64) fun i => twCheck (R.FAB_PKEY_TBL p i) (s.regAddr (R.FAB_PKEY_TBL p i)),
    if s.keyAllowed p k.pkey then takePacket p k else incF (R.FAB_PORT_DROP p) F.FAB_PORT_DROP_PKEY_DROP 1] s

/-- FABRIC_PACKET_ARRIVE. -/
def execFabricPacketArrive (p : Nat) (pkt : Packet) (crc ue : Nat) (s : State) : Out := onPort p (fabricPacketArriveTx p pkt crc ue) s

/-- COMPLETION: a packet of type 3 arrives intact. -/
def completionTx (p : Nat) (k : Packet) : Tx := when (k.ptype == 3) (fabricPacketArriveTx p k (packetCrc k) 0)

/-- COMPLETION. -/
def execCompletion (p : Nat) (pkt : Packet) (s : State) : Out := onPort p (completionTx p pkt) s

/-! ### Control symbols (R307–R310) -/

/-- Is `n` one of `count` link sequence numbers from `first` on? -/
def lseqIn (first count n : Nat) : Bool := decide ((n % 65536 + 65536 - first % 65536) % 65536 < count)

/-- Packets reported lost go to the front of the unscheduled queue, as resent copies; the buffer keeps theirs (R309). -/
def resendLost (p first count : Nat) : Tx := fun s =>
  let lost := (s.port p).tx.filter fun k => lseqIn first count k.lseq
  if count = 0 then []
  else chain [
    modPort p fun x => { x with queue := lost.map (fun k => { k with sched := false, retx := true, demoted := true, ecnCe := s.marks p k }) ++ x.queue },
    incF (R.FAB_RETX_CNT p) F.FAB_RETX_CNT_RESENT lost.length, incF (R.FAB_RETX_CNT p) F.FAB_RETX_CNT_LOSS_NOTICES 1] s

/-- The bytes of a token (Table: Token). -/
def tokenBytes (t : Token) : List Byte := leBytes 1 t.kind ++ leBytes 1 t.sub ++ leBytes 2 t.origin ++ leBytes 4 t.seq ++ leBytes 8 t.arg

/-- Bytes 0 to 59 of a control symbol (Table: Control symbol). -/
def symbolBody (c : CtlSym) : List Byte :=
  leBytes 2 c.ack ++ leBytes 2 c.lossFirst ++ leBytes 2 c.lossCount ++ leBytes 4 c.credit ++ leBytes 2 c.wait ++ leBytes 4 0 ++
    tokenBytes c.token ++ padTo 16 (c.mgmt.take 16) ++ leBytes 12 0

/-- The CRC of a control symbol (R307). -/
def symbolCrc (c : CtlSym) : Nat := crc32 (symbolBody c)

/-- The 64 bytes of a control symbol. -/
def symbolBytes (c : CtlSym) : List Byte := symbolBody c ++ leBytes 4 c.crc

/-- The tokens not yet offered to port `p`: the next one that it carries, and the number of tokens offered once it has gone. -/
def State.offer (s : State) (p : Nat) : Option Token × Nat :=
  let n := (s.port p).told
  match ((s.chip.tokensOut.drop n).zipIdx n).find? (fun x => s.carries p x.1) with
  | some x => (some x.1, x.2 + 1)
  | none => (none, s.chip.tokensOut.length)

/-- The next token that port `p` carries. -/
def State.nextToken (s : State) (p : Nat) : Option Token := (s.offer p).1

/-- The number that ACK tells: the last one received, but none past a run of losses that a later symbol will tell (R307, R309). -/
def PortS.ack (x : PortS) : Nat := match x.losses.tail with | (f, _) :: _ => (f + 65535) % 65536 | [] => x.lastRx

/-- The control symbol that this end sends next at port `p`: the number acknowledged, the oldest run of losses not yet told, the
credit returned so far, and the oldest token not yet carried with the slots it waited, which nothing of the model fixes (R307, R308;
log entry 54). -/
def State.symbolOut (s : State) (p : Nat) : CtlSym :=
  let x := s.port p
  let loss := x.losses.headD (0, 0)
  let c : CtlSym := ⟨x.ack, loss.1, loss.2, x.creditOut % 2 ^ 32, if (s.nextToken p).isSome then s.free.toNat % 64 else 0,
    (s.nextToken p).getD ⟨0, 0, 0, 0, 0⟩, [], 0⟩
  { c with crc := symbolCrc c }

/-- This end's control slot of the link frame goes out (R307, R308). -/
def sendSymbol (p : Nat) : Tx := fun s => chain [
  modPort p fun x => { x with
    symbol := symbolBytes (s.symbolOut p), losses := x.losses.tail, told := (s.offer p).2 },
  bumpFree] s

/-- Is a control symbol intact (R308)? -/
def symbolIntact (c : CtlSym) : Bool := c.crc == symbolCrc c

/-- The token of a control symbol (R382, R384). -/
def takeToken (p : Nat) (tok : Token) (wait : Nat) : Tx :=
  match tok.kind with
  | 1 => readyTokenTx tok
  | 2 => goTokenTx p tok wait
  | 3 => announceTokenTx tok
  | 4 => freezeTokenTx tok
  | _ => skip

/-- What a symbol tells the sender of packets: packets reported lost are resent, the copies that ACK covers leave the buffer, and CREDIT,
which counts on from symbol to symbol, returns what it has grown by (R307–R309). -/
def takeSymbol (p : Nat) (c : CtlSym) : Tx := chain [
  resendLost p c.lossFirst c.lossCount,
  modPort p fun x => { x with
    tx := x.tx.filter fun k => !lseqIn (c.ack + 32769) 32768 k.lseq
    credit := x.credit + (c.credit + 2 ^ 32 - x.creditIn) % 2 ^ 32, creditIn := c.credit }]

/-- CONTROL_SYMBOL_RECEIVE: ignored when its CRC fails. It marks a link frame, so this end's own symbol goes out as well. -/
def controlSymbolReceiveTx (p : Nat) (c : CtlSym) : Tx := fun s =>
  if !s.portUp p then []
  else chain [
    sendSymbol p,
    when (symbolIntact c) (chain [takeSymbol p c, drainPort p, takeToken p c.token c.wait])] s

/-- CONTROL_SYMBOL_RECEIVE. -/
def execControlSymbolReceive (p : Nat) (c : CtlSym) (s : State) : Out := onPort p (controlSymbolReceiveTx p c) s

end Sys2Proof.Machine
end

