-- ==== Sys2Proof/Machine/Kv.lean ====
section
/-! DEFINITION. The key/value cache (R267–R277): KV_COMMIT and the descriptor writes held behind it. -/

namespace Sys2Proof.Machine

/-- A key/value descriptor (R267, R268). -/
structure KvDesc where
  base : Nat
  e : Nat
  cap : Nat
  len : Nat
  stg : Nat
deriving DecidableEq, Repr

/-- Descriptor `d` of tile `t`. -/
def State.kvDesc (s : State) (t d : Nat) : KvDesc :=
  let w0 := s.tw (R.KVC_DESC_0 t d)
  ⟨w0 % 0x40000, w0 / 0x40000 % 64 + 1, s.tw (R.KVC_DESC_1 t d) % 0x80000, s.tw (R.KVC_DESC_2 t d) % 0x80000,
    s.rf (R.KVC_STAGE t d) F.KVC_STAGE_STG⟩

/-- Do its words agree, and is it usable (R269, R272 check 1)? -/
def State.kvUsable (s : State) (t d : Nat) : Bool :=
  let k := s.kvDesc t d
  twAgree (s.reg (R.KVC_DESC_0 t d)) && twAgree (s.reg (R.KVC_DESC_1 t d)) && twAgree (s.reg (R.KVC_DESC_2 t d)) &&
    (s.tw (R.KVC_DESC_0 t d)).testBit 24 && decide (k.base + k.cap * k.e ≤ 262144) && decide (k.stg + 16 * k.e ≤ 262144)

/-- Do the indexes strictly ascend? -/
def ascends : List Nat → Bool
  | a :: b :: xs => decide (a < b) && ascends (b :: xs)
  | _ => true

/-- A path record's number of candidates and slot indexes (R271). -/
def pathOf (bs : List Byte) : Nat × List Nat :=
  let a := field bs 0 4
  (a, ((bs.drop 4).take a).map (·.toNat))

/-- Is the path record good for `nc` candidates (R272 check 2)? -/
def pathOk (bs : List PByte) (nc : Nat) : Bool :=
  let p := pathOf (pdata bs)
  !ppoison bs && decide (p.1 ≤ nc) && p.2.all (fun i => decide (i < nc)) && ascends p.2

/-- Outcome of the checks: 0 passes, 1 DESC_FAULT, 2 PATH_FAULT, 3 FULL. -/
def State.kvCheck (s : State) (a : KvArgs) (bs : List PByte) : Nat :=
  let k := s.kvDesc a.tile a.desc
  if !s.kvUsable a.tile a.desc then 1
  else if !pathOk bs (a.ncm1 + 1) then 2
  else if k.cap < k.len + (pathOf (pdata bs)).1 then 3
  else 0

/-- The copies of a passing commit (from, to), in path order and within an entry ascending (R273). -/
def KvDesc.copies (k : KvDesc) (path : List Nat) : List (Nat × Nat) :=
  path.zipIdx.flatMap fun p => (List.range k.e).map fun i =>
    ((k.stg + p.1 * k.e + i) * 64, (k.base + (k.len + p.2) * k.e + i) * 64)

/-- Grants of some tier lines, all asked for in cycle `c`, after the grants `gs`: those grants with them, and their cycles. -/
def grantGroup (rank : Nat) (wr : Bool) (c : Nat) (gs : List Grant) (os : List Nat) : List Grant × List Nat :=
  os.foldl (fun a o =>
    let g : Grant := ⟨c, 1, wrapOff 1 o / 64 * 64, rank, wr, false⟩
    let d := freeGrant a.1 g a.1.length
    ({ g with cyc := d } :: a.1, a.2 ++ [d])) (gs, [])

/-- The plan of a commit's copies as far as it is made: the grants, the cycles that bank waits have cost, and the grant cycles of the reads
and writes. -/
structure CopyPlan where
  gs : List Grant
  cost : Nat := 0
  reads : List Nat := []
  writes : List Nat := []

/-- The grants of a commit's copies whose first reads may be granted in cycle `c`: four reads a cycle at rank 3, each written 7 cycles later
at rank 4; a bank wait delays every later cycle by the cycles it costs (R275). -/
def State.planCopies (s : State) (t : Nat) (xs : List (Nat × Nat)) (c : Nat) : CopyPlan :=
  let ps := pieces 4 xs
  (List.range (if xs.isEmpty then 0 else ps.length + 7)).foldl (fun p i =>
    let at_ := c + i + p.cost
    let r := grantGroup 3 false at_ p.gs ((ps.getD i []).map fun x => s.translate t x.1)
    let w := grantGroup 4 true at_ r.1 (if i < 7 then [] else (ps.getD (i - 7) []).map (·.2))
    { gs := w.1, cost := p.cost + ((r.2 ++ w.2).foldl max at_ - at_), reads := p.reads ++ r.2, writes := p.writes ++ w.2 })
    { gs := (s.tile t).grants }

/-- Copy a line of the tier, read in cycle `g` and written in cycle `w` (R109, R126, R127, R273, R275). -/
def copyLine (t : Nat) (x : Nat × Nat) (g w : Nat) : Tx := fun s =>
  let o := s.translate t x.1
  let l := (s.asOf t g).tierLine t o
  chain [takeBank t 1 o 3 g false, noteRead 1 t x.1 64 g, takeBank t 1 x.2 4 w true, tierWriteLine t x.2 l.data l.poison (w + 3)] s

/-- The cycle in which the path line of a commit that issues in cycle `c` is granted (R275). -/
def State.pathAt (s : State) (t path c : Nat) : Nat := s.grantAt t 0 (64 * path) 3 (c + 1) false

/-- The cycle in which a commit settles whose path line is granted in cycle `g` (R275). -/
def State.settleAt (s : State) (t : Nat) (xs : List (Nat × Nat)) (g : Nat) : Nat :=
  (s.planCopies t xs (g + 4)).writes.foldl (fun a w => max a (w + 3)) (g + 5)

/-- A notify record (R276). -/
def notifyBytes (len n nc fail : Nat) : List Byte :=
  padTo 64 (leBytes 4 len ++ leBytes 4 n ++ leBytes 4 nc ++ leBytes 4 (if fail = 2 then 1 else if fail = 3 then 2 else if fail = 1 then 4 else 0))

/-- A 64-byte record leaves tile `t` for `g` at cycle `c` as a transfer of stream 1 (R47–R51, R276). -/
def sendRecord (t c g wm : Nat) (sched : Bool) (bs : List Byte) : Tx := fun s =>
  let id := s.chip.nextId
  let away := gMod g != s.position
  let tag := if away then s.chip.freeTag 32768 s.chip.ttagNext else 0
  let near := s.nearby t g
  let x : Xfer := ⟨id, t, 1, gMod g, gTile g, tag, 64, if near then 0 else 1, if wm ≠ 0 ∧ !away then awaited (gOff g) 64 else [], away, 0, 1⟩
  chain [
    when away (chain [
      twUse R.FAB_JOB_PKEY,
      modChip fun c => { c with ttagNext := (tag + 1) % 65536 },
      when (!sched) (noteSent (gMod g) [c + 1])]),
    newXfer x,
    if near then arrive 0 t (gOff g) wm bs false ⟨id, s.position, 0, false⟩ (c + 6)
    else sendFlits t [s.flitTo t g sched { flit0 with
      id := id + 1, xid := id, wm := wm, len := 1, data := bs, ttag := tag, cyc := c + 2 }]] s

/-- What a commit records (R272–R274). -/
def noteCommit (a : KvArgs) (fail n : Nat) : Tx :=
  let k := R.KVC_STAGE a.tile a.desc
  let st := R.KVC_STAT a.tile
  chain [
    setF k F.KVC_STAGE_LAST_NCM1 a.ncm1, setF k F.KVC_STAGE_LAST_A n, setB k F.KVC_STAGE_LAST_FAIL (fail != 0),
    (match fail with
      | 0 => incF st F.KVC_STAT_COMMITS 1
      | 1 => setF st F.KVC_STAT_DESC_FAULT 1
      | 2 => setF st F.KVC_STAT_PATH_FAULT 1
      | _ => setF st F.KVC_STAT_FULL 1),
    incF st F.KVC_STAT_DISCARDED (a.ncm1 + 1 - n)]

/-- The commit that issued at cycle `c` with path line `bs`. -/
def commitTx (a : KvArgs) (c : Nat) (bs : List PByte) : Tx := fun s =>
  let t := a.tile
  let k := s.kvDesc t a.desc
  let fail := s.kvCheck a bs
  let path := if fail = 0 then (pathOf (pdata bs)).2 else []
  let xs := k.copies path
  let g := s.pathAt t a.path c
  let plan := s.planCopies t xs (g + 4)
  let settle := s.settleAt t xs g
  let len := k.len + path.length
  let id := s.chip.nextId
  chain [
    twCheck (R.KVC_DESC_0 t a.desc) (s.regAddr (R.KVC_DESC_0 t a.desc)),
    twCheck (R.KVC_DESC_1 t a.desc) (s.regAddr (R.KVC_DESC_1 t a.desc)),
    twCheck (R.KVC_DESC_2 t a.desc) (s.regAddr (R.KVC_DESC_2 t a.desc)),
    takeBank t 0 (64 * a.path) 3 (c + 1) false, noteRead 0 t (64 * a.path) 64 g, readDone t a.gm (64 * a.path) 64 (g + 4),
    forEach (xs.zip (plan.reads.zip plan.writes)) (fun x => copyLine t x.1 x.2.1 x.2.2),
    when (fail == 0) (setTw (R.KVC_DESC_2 t a.desc) len),
    noteCommit a fail path.length,
    modTile t fun ts => { ts with kvInflight := ts.kvInflight ++ [(a.desc, settle, id)] },
    modStream t 1 fun x => { x with engine := settle + 1 },
    busyUntil t settle,
    when (!a.ntf) (modChip fun ch => { ch with nextId := ch.nextId + 1 }),
    when a.ntf (sendRecord t settle a.g a.nwm a.nsched (notifyBytes len path.length (a.ncm1 + 1) fail))] s

/-- The copies that a commit with path line `bs` makes; none where a check fails. -/
def State.kvCopies (s : State) (a : KvArgs) (bs : List PByte) : List (Nat × Nat) :=
  if s.kvCheck a bs = 0 then (s.kvDesc a.tile a.desc).copies (pathOf (pdata bs)).2 else []

/-- KV_COMMIT. It waits for the refetch of any line it is to copy (R110, R121). -/
def kvCommitTx (a : KvArgs) : Tx :=
  issue (.tile a.tile 1) a.h (.kvCommit a) fun s c =>
    let off := 64 * a.path
    let cyc := max (max c (s.engineFree a.tile)) (if a.gm = 0 then 0 else s.availAt a.tile off 64)
    let bs := (s.asOf a.tile (s.pathAt a.tile a.path cyc)).rd 0 a.tile off 64
    let late := (s.kvCopies a bs).filter fun x => s.needsRefetch 1 a.tile x.1 64
    { words := 2, addrs := if a.ntf then [a.g] else [], cyc := cyc
      ready := s.readReady a.tile a.gm off 64 && late.isEmpty &&
        (!a.ntf || gMod a.g == s.position || s.outboundReady (gMod a.g) a.tile (gTile a.g) a.nsched)
      blocked := when (s.readReady a.tile a.gm off 64) (forEach late fun x => askRefetch 1 a.tile x.1 64)
      go := commitTx a cyc bs }

/-- KV_COMMIT. -/
def execKvCommit (a : KvArgs) (s : State) : Out := instruction (.kvCommit a) (.tile a.tile 1) (kvCommitTx a) s

/-- The writes held on descriptor `d` of tile `t` are applied in order (R269). -/
def applyHeld (t d : Nat) : Tx := fun s =>
  let ws := (s.tile t).kvHeld.filter (·.desc == d)
  chain [
    modTile t fun ts => { ts with
      kvInflight := ts.kvInflight.filter (·.1 != d), kvHeld := ts.kvHeld.filter (·.desc != d) },
    forEach ws fun w => writeReg w.key w.val] s

/-- KVC_DESC_APPLY: the commit in flight on descriptor `d` is complete; time moves on to that cycle. -/
def kvcDescApplyTx (t d : Nat) : Tx := fun s =>
  match (s.tile t).kvInflight.filter (·.1 == d) with
  | [] => []
  | es => chain [
      elapseTo (es.foldl (fun a e => max a e.2.1) 0),
      whenS (fun s' => es.all s'.kvComplete) (applyHeld t d)] s

/-- KVC_DESC_APPLY. -/
def execKvcDescApply (t d : Nat) (s : State) : Out := onTile t (kvcDescApplyTx t d) s

end Sys2Proof.Machine
end

