-- ==== Sys2Proof/Machine/Flags.lean ====
section
/-! DEFINITION. Flags that operations leave: the sticky status bits of the vector unit (R215, R240) and of the tree mask (R262). -/

namespace Sys2Proof.Machine

/-- An instruction or pass saturated at least one element (R215). -/
def noteSat (t : Nat) : Tx := chain [setF (R.VEC_STAT t) F.VEC_STAT_SAT 1, incF (R.VEC_STAT t) F.VEC_STAT_SAT_CNT 1]

/-- The sticky flags of a V instruction. -/
inductive VFlag where
  | rowEmpty | permRange | vlRange | sampleNan | sampleClamp | parentRange
deriving DecidableEq, Repr

/-- Set a sticky flag (Table: VEC_STAT; KVC_STAT.PARENT_RANGE). -/
def noteFlag (t : Nat) : VFlag → Tx
  | .rowEmpty => setF (R.VEC_STAT t) F.VEC_STAT_ROW_EMPTY 1
  | .permRange => setF (R.VEC_STAT t) F.VEC_STAT_PERM_RANGE 1
  | .vlRange => setF (R.VEC_STAT t) F.VEC_STAT_VL_RANGE 1
  | .sampleNan => setF (R.VEC_STAT t) F.VEC_STAT_SAMPLE_NAN 1
  | .sampleClamp => setF (R.VEC_STAT t) F.VEC_STAT_SAMPLE_CLAMP 1
  | .parentRange => setF (R.KVC_STAT t) F.KVC_STAT_PARENT_RANGE 1

end Sys2Proof.Machine
end

