-- ==== Sys2Proof/Machine/Matrix.lean ====
section
/-! DEFINITION. The matrix array (spec/06): MOUT, MMUL, MMULA, MSYNC, and what happens to a pass after it issued: its operands
are read, its results drained, checked against the border, written, replayed. -/

namespace Sys2Proof.Machine

/-! ### Accumulation (R164–R170) -/

/-- An FP32 accumulator's value. -/
def AccCell.val (c : AccCell) : Fx := f32 c.bits

/-- A cell after one beat of a float pass: the exact sum of the accumulator and the products, rounded once (R168). -/
def macFloat (c : AccCell) (ws xs : List Opd) : AccCell :=
  let ps := List.zipWith (fun w x => w.1.mul x.1) ws xs
  ⟨rne32 (.sum (c.val :: ps)), c.poison || ws.any (·.2) || xs.any (·.2)⟩

/-- The integer value of an operand. -/
def Fx.int : Fx → Int
  | .fin n m e => (if n then -(m : Int) else m) * (2 ^ e.toNat : Nat)
  | _ => 0

/-- A cell after one beat of an integer pass, modulo 2^32 (R169). -/
def macInt (c : AccCell) (ws xs : List Opd) : AccCell :=
  let v := signed 32 c.bits + (List.zipWith (fun w x => w.1.int * x.1.int) ws xs).foldl (· + ·) 0
  ⟨wrapInt 32 v, c.poison || ws.any (·.2) || xs.any (·.2)⟩

/-- Does the exact sum of that beat leave the INT32 range (R169)? -/
def macWraps (c : AccCell) (ws xs : List Opd) : Bool :=
  let v := signed 32 c.bits + (List.zipWith (fun w x => w.1.int * x.1.int) ws xs).foldl (· + ·) 0
  decide (v < -0x80000000) || decide (0x7FFFFFFF < v)

/-- The cells of a pass: 128 × 16 results in row order, the border column's 128 and the border row's 16, and whether an integer
accumulation of any of them wrapped (R164, R166, R169). -/
structure Cells where
  acc : List AccCell
  bcol : List AccCell
  brow : List AccCell
  wrap : Bool
deriving DecidableEq, Repr

/-- The cells at the start of a pass: −0 in a float pass, 0 in an integer pass (R165, R168, R169). -/
def Cells.start (int : Bool) : Cells :=
  let z : AccCell := ⟨if int then 0 else 0x80000000, false⟩
  ⟨List.replicate 2048 z, List.replicate 128 z, List.replicate 16 z, false⟩

/-- The beat sums a[k] over the active columns: rounded once to FP32 in a float pass, exact in an integer pass (spec/06 Border
checking). -/
def beatSums (int : Bool) (ncol : Nat) (xs : List (List Opd)) : List Opd :=
  let act := xs.take (ncol + 1)
  (List.range (match xs with | x :: _ => x.length | [] => 0)).map fun j =>
    let col := act.map fun x => x.getD j (.fin false 0 0, false)
    let v := Fx.sum (col.map (·.1))
    (if int then .ofInt (signed 32 (wrapInt 32 v.int)) else rnd v, col.any (·.2))

/-- One beat enters every cell; `border` holds the border image's entries of a checked pass. Without the check border cells stand still
(DESIGN CHOICE, log entry 67). -/
def Cells.beat (int chk : Bool) (ncol : Nat) (cs : Cells) (ws xs : List (List Opd)) (border : List Opd) : Cells :=
  let mac := if int then macInt else macFloat
  let a := beatSums int ncol xs
  let ops := ws.flatMap fun w => xs.map fun x => (w, x)
  let cops := if chk then ws.map fun w => (w, a) else []
  let rops := if chk then xs.map fun x => (border, x) else []
  let step (c : AccCell) (o : List Opd × List Opd) := mac c o.1 o.2
  let wraps (c : AccCell) (o : List Opd × List Opd) := macWraps c o.1 o.2
  { acc := List.zipWith step cs.acc ops
    bcol := if chk then List.zipWith step cs.bcol cops else cs.bcol
    brow := if chk then List.zipWith step cs.brow rops else cs.brow
    wrap := int && (List.zipWith wraps cs.acc ops ++ List.zipWith wraps cs.bcol cops ++ List.zipWith wraps cs.brow rops).any id }

/-- The formats of a pass make it an integer pass (R167). -/
def passInt (a : MArgs) : Bool := operandPair a.fmt a.afmt == some true

/-- The space of the border image: 0 scratchpad for BCHK 1, 1 tier for BCHK 2 (R183). -/
def borderSpace (a : MArgs) : Nat := if a.bchk = 2 then 1 else 0

/-- Byte offset of the u image: the first granule after the activation image (R193). -/
def PassS.uOff (p : PassS) : Nat := p.aOff + (aImageBytes p.args.afmt (8 * p.args.k8) + 255) / 256 * 256

/-- Beats of W. -/
def PassS.wBeats (p : PassS) : Nat := 8 * p.args.k8 / beatLen p.args.fmt

/-- Beats of a pass: W's, then B's (R193). -/
def PassS.beats (p : PassS) : Nat := p.wBeats + (match p.adp with | some d => d.rho / beatLen d.wfmt | none => 0)

/-- What beat `i` of a pass streams: weight format, weight image, activation image, border image, and its index in them. -/
structure BeatAt where
  fmt : Nat
  w : Nat
  a : Nat
  b : Nat
  i : Nat
deriving DecidableEq, Repr

/-- Beat `i` of a pass: W against the activations, then B against u (R193). -/
def PassS.beatAt (p : PassS) (i : Nat) : BeatAt :=
  match p.adp with
  | some d => if i < p.wBeats then ⟨p.args.fmt, p.wOff, p.aOff, p.bOff, i⟩ else ⟨d.wfmt, d.off, p.uOff, d.border, i - p.wBeats⟩
  | none => ⟨p.args.fmt, p.wOff, p.aOff, p.bOff, i⟩

/-- The cells before a beat: the pass's own, or those at the start of an attempt (R165). -/
def PassS.cells (p : PassS) : Cells := if p.next = 0 then Cells.start (passInt p.args) else ⟨p.acc, p.bcol, p.brow, false⟩

/-- The cells once beat `i` has entered; the adapter's results where the adapter is refused, whose values are open, and the +0
results of an MMULA without an adapter, stand for all beats (R192, log entry 8). -/
def State.beatCells (s : State) (p : PassS) (i : Nat) : Cells :=
  let a := p.args
  let x := p.beatAt i
  if p.refused then
    ⟨(List.range 2048).map fun j => ⟨(Config.freeValue (s.chip.freeCtr + j)).toNat % 0x100000000, true⟩,
      List.replicate 128 ⟨0, true⟩, List.replicate 16 ⟨0, true⟩, false⟩
  else if p.zero then ⟨List.replicate 2048 ⟨0, false⟩, List.replicate 128 ⟨0, false⟩, List.replicate 16 ⟨0, false⟩, false⟩
  else p.cells.beat (passInt a) p.chk a.ncol
    (s.weightBeat a.tile x.fmt x.w p.cbBank a.cb x.i)
    (s.actBeat a.tile a.afmt x.a a.ncol x.i)
    (if p.chk then s.borderBeat (borderSpace a) a.tile x.b x.fmt x.i else [])

/-! ### The weight path (R121, R122, R154) -/

/-- Whole units of `u` bytes that `n` bytes take, in bytes. -/
def roundUp (u n : Nat) : Nat := (n + u - 1) / u * u

/-- Scale lines of a group. -/
def scaleLines (fmt : Nat) : Nat := if mxFmt fmt then 2 else if fmt = 13 then 1 else 0

/-- Beats of a group; 1 without groups. -/
def groupBeats (fmt : Nat) : Nat := if mxFmt fmt then 4 else if fmt = 13 then 8 else 1

/-- Lines of W's image. -/
def PassS.wLines (p : PassS) : Nat := wImageBytes p.args.fmt (8 * p.args.k8) / 64

/-- The weight lines a pass reads: W's image, then its adapter's; none where its adapter was refused or its results are +0. -/
def PassS.allLines (p : PassS) : Nat :=
  if p.refused || p.zero then 0
  else p.wLines + (match p.adp with | some d => wImageBytes d.wfmt d.rho / 64 | none => 0)

/-- The tier offset of line `n` of a pass. -/
def PassS.lineOff (p : PassS) (n : Nat) : Nat :=
  match p.adp with
  | some d => if n < p.wLines then p.wOff + 64 * n else d.off + 64 * (n - p.wLines)
  | none => p.wOff + 64 * n

/-- The lines that beat `i` uses: its group's scale lines and its own. -/
def PassS.beatLines (p : PassS) (i : Nat) : List Nat :=
  if p.refused || p.zero then []
  else
    let x := p.beatAt i
    let base := if i < p.wBeats then 0 else p.wLines
    let o := wBeatOff x.fmt x.i / 64
    let sc := if scaleLines x.fmt = 0 then [] else (List.range (scaleLines x.fmt)).map fun j => wScaleOff x.fmt x.i / 64 + j
    (sc ++ (List.range ((wBeatBytes x.fmt + 63) / 64)).map (o + ·)).map (base + ·)

/-- The lines of a pass that beats yet to enter use; a line stays in the buffer until the last beat that uses it has entered. -/
def PassS.keeps (p : PassS) (n : Nat) : Bool :=
  match p.beatLines p.next with
  | [] => false
  | l => l.contains n || decide (l.foldl max 0 < n)

/-- Lines of the 64-line buffer that a pass holds. -/
def PassS.inBuf (p : PassS) : Nat := if p.done then 0 else ((List.range p.lines).filter p.keeps).length

/-- The pass whose beats enter next: one that is entering, then a replay, then the first that waits (R186). -/
def TileS.entering (ts : TileS) : Option Nat :=
  match ts.passes.findIdx? fun p => !p.done && decide (0 < p.next) with
  | some i => some i
  | none => match ts.passes.findIdx? fun p => !p.done && p.attempt == 1 with
    | some i => some i
    | none => ts.passes.findIdx? fun p => !p.done

/-- The passes in the order in which the weight path reads their images: the next pass follows once all lines are requested. -/
def TileS.readOrder (ts : TileS) : List Nat :=
  match ts.entering with
  | none => []
  | some i =>
    i :: ((List.range ts.passes.length).filter fun j => j != i && (ts.passes[j]?.elim false fun p => !p.done && p.attempt == 1)) ++
      ((List.range ts.passes.length).filter fun j => j != i && (ts.passes[j]?.elim false fun p => !p.done && p.attempt == 0))

/-- The pass that requests a line next while the buffer has room. -/
def TileS.requester (ts : TileS) : Option Nat :=
  if 64 ≤ (ts.passes.map PassS.inBuf).foldl (· + ·) 0 then none
  else match ts.readOrder.find? fun i => ts.passes[i]?.elim false fun p => decide (p.lines < p.allLines) with
    | some i => if ts.readOrder.takeWhile (· != i) |>.all fun j => ts.passes[j]?.elim true fun p => decide (p.allLines ≤ p.lines)
      then some i else none
    | none => none

/-- Replace the pass at index `i` of a tile. -/
def setPass (t i : Nat) (p : PassS) : Tx := modTile t fun ts => { ts with passes := ts.passes.set i p }

/-- What the weight path holds of a line granted in cycle `c`. -/
def State.weightLine (s : State) (t off c : Nat) : LineS :=
  let l := (s.asOf t c).tierLine t (s.translate t off)
  ⟨1, s.translate t off / 64 * 64, l.data, List.replicate 64 0, poisonCopies l.poison, c⟩

/-- The weight path asks for a line in cycle `c`: it comes into the pass's buffer, or awaits its refetch (R121). -/
def requestLine (t i n c : Nat) : Tx := fun s =>
  match (s.tile t).passes[i]? with
  | none => []
  | some p =>
    let off := p.lineOff n
    let bad := s.needsRefetch 1 t off 64
    let g := s.grantAt t 1 (s.translate t off) 1 c false
    chain [
      takeBank t 1 (s.translate t off) 1 c false,
      noteTierLine t (s.translate t off / 64 * 64) g,
      setPass t i { p with
        lines := max p.lines (n + 1)
        buf := if bad then p.buf else p.buf ++ [s.weightLine t off g] }] s

/-- The cycle of the weight path's next request, `lo` or later, at most 16 in a cycle. -/
def TileS.requestAt (ts : TileS) (lo : Nat) : Nat × Nat :=
  if ts.wcyc < lo then (lo, 1) else if ts.wcnt < 16 then (ts.wcyc, ts.wcnt + 1) else (ts.wcyc + 1, 1)

/-- Line `n` of a pass where its buffer holds it. -/
def PassS.line (s : State) (p : PassS) (n : Nat) : Option LineS :=
  p.buf.find? fun l => l.sp == 1 && l.off == s.translate p.args.tile (p.lineOff n) / 64 * 64

/-- Does the buffer hold line `n`? -/
def PassS.holds (p : PassS) (s : State) (n : Nat) : Bool := (p.line s n).isSome

/-- The lines of a pass that were requested and have not come. -/
def PassS.missing (s : State) (p : PassS) : List Nat :=
  (List.range p.lines).filter fun n => p.keeps n && !p.holds s n

/-- Lines whose refetch is done are granted again; one that found the refetch queue full is queued once there is room (R121, R122). -/
def regrant (t : Nat) : Tx := fun s =>
  forEach (List.range (s.tile t).passes.length) (fun i => fun s' => match (s'.tile t).passes[i]? with
    | none => []
    | some p => if p.done then [] else forEach (p.missing s') (fun n => fun s'' =>
        if s''.needsRefetch 1 t (p.lineOff n) 64 then askRefetch 1 t (p.lineOff n) 64 s''
        else requestLine t i n s''.chip.fcyc s'') s') s

/-- The weight path reads ahead while its buffer has room, at most `fuel` lines. -/
def readAhead (t : Nat) : Nat → Tx
  | 0 => skip
  | fuel + 1 => fun s =>
    match (s.tile t).requester with
    | none => []
    | some i => match (s.tile t).passes[i]? with
      | none => []
      | some p =>
        let x := (s.tile t).requestAt (max p.issued (if p.next = 0 then 0 else p.lastEntry - 9))
        chain [
          modTile t fun ts => { ts with wcyc := x.1, wcnt := x.2 },
          requestLine t i p.lines x.1, readAhead t fuel] s

/-! ### Entry of the beats (R173, R174, R181, R182) -/

/-- The bytes of an activation image that beat `i` of a pass reads: its elements, and with a group's first beat its scales in an MX format
(R171). -/
def PassS.actPart (p : PassS) (i : Nat) : List (Nat × Nat) :=
  let x := p.beatAt i
  let f := p.args.afmt
  (x.a + aBeatOff f x.i, if beatLen f = 2 then 64 else 128) :: (if mxFmt f && x.i % 4 == 0 then [(x.a + 576 * (x.i / 4), 16)] else [])

/-- The scale lines of the activations that the array holds until the group's last beat, as reads granted in cycle `c` see them. -/
def State.actScales (s : State) (p : PassS) (i c : Nat) : List LineS :=
  let t := p.args.tile
  ((p.actPart i).drop 1).flatMap fun a => (s.spanLines 0 t a.1 a.2).map fun o => (s.asOf t c).lineNow 0 t o 0

/-- Do some beats after `i` of the same group need its scale lines? -/
def PassS.midGroup (p : PassS) (i : Nat) : Bool := decide (i + 1 < p.beats) && (p.beatAt (i + 1)).i % 4 != 0

/-- The spans of the scratchpad that a pass reads with its granule mode: the beats of its activation image, and of u under an adapter;
beats beyond K are never read (R171). -/
def PassS.actSpans (p : PassS) : List (Nat × Nat) := (List.range p.beats).flatMap p.actPart

/-- Granules of some spans. -/
def spanGranules (xs : List (Nat × Nat)) : List Nat := (xs.flatMap fun x => granulesOf x.1 x.2).eraseDups

/-- The granules of beat `i`'s activations that no later beat reads. -/
def PassS.lastRead (p : PassS) (i : Nat) : List Nat :=
  let later := spanGranules (((List.range 4).filter fun j => decide (i + 1 + j < p.beats)).flatMap fun j => p.actPart (i + 1 + j))
  (spanGranules (p.actPart i)).filter fun g => !later.contains g

/-- The border entries of beat `i` that lie at the start of a line: that line is read with it. -/
def PassS.borderLine (p : PassS) (i : Nat) : Option Nat :=
  let x := p.beatAt i
  let o := x.b + 4 * beatLen x.fmt * x.i
  if p.chk && !p.refused && !p.zero && o % 64 == 0 then some o else none

/-- Element bytes of an output format. -/
def outBytes (f : Nat) : Nat := elemBits f / 8

/-- Bytes that a pass writes (R181). -/
def passQ (m : MoutS) (ncol : Nat) : Nat :=
  if m.olay = 0 then (ncol + 1) * 128 * outBytes m.ofmt
  else if mxFmt m.ofmt then 2304 else if outBytes m.ofmt = 2 then 4096 else 2048

/-- Cycles from a pass's last beat to its first output write. -/
def drainLead : Nat := 146

/-- A cycle that no frame reaches. -/
def never : Nat := 2 ^ 60

/-- Do two attempts hold places in the drain buffer in cycle `c` (R181)? -/
def placesFull (ps : List (Nat × Nat)) (c : Nat) : Bool :=
  decide (2 ≤ (ps.filter fun x => decide (x.1 ≤ c ∧ c < x.2)).length)

/-- The first cycle from `c` on in which a beat may enter. -/
def entryFrom (ps : List (Nat × Nat)) : Nat → Nat → Nat
  | 0, c => c
  | n + 1, c =>
    if placesFull ps c then
      entryFrom ps n ((ps.filter fun x => decide (x.1 ≤ c ∧ c < x.2)).foldl (fun a x => min a x.2) never)
    else c

/-- Cycles in which a pass writes its output (R181). -/
def PassS.w (p : PassS) : Nat := (passQ p.mout p.args.ncol + 511) / 512

/-- The places that attempts hold; one whose output has yet to be written holds its own (R181). -/
def TileS.allPlaces (ts : TileS) : List (Nat × Nat) :=
  ts.places ++ (ts.passes.filter (·.done)).map fun p => (p.lastEntry + 2, never)

/-- Is there a gap cycle after beat `i`: MX 8-bit formats deliver 32 beats in 33 cycles, an image's last ones included (R155, R174,
R193)? -/
def PassS.gapAfter (p : PassS) (i : Nat) : Nat :=
  let x := p.beatAt i
  let ends := i + 1 == p.wBeats || i + 1 == p.beats
  (mx8Fmt x.fmt && ((x.i + 1) % 32 == 0 || ends)).toNat

/-- Does every line that beat `i` uses stand in the buffer, and the bound that their grants set: the last one's + 10 (R121, R174)? -/
def State.weightsAt (s : State) (p : PassS) (i : Nat) : Option Nat :=
  let ls := (p.beatLines i).map (p.line s)
  if ls.all (·.isSome) then some (ls.foldl (fun a l => match l with | some l => max a (l.cyc + 10) | none => a) 0)
  else none

/-- The cycle, `c` or later, in which the banks are free for the activation reads of beat `i` (R114). -/
def State.actGrant (s : State) (p : PassS) (i c : Nat) : Nat :=
  ((p.actPart i).flatMap fun a => spanParts a.1 a.2).foldl (fun m l => max m (s.grantAt p.args.tile 0 l.1 1 c false)) c

/-- The entry cycle of the next beat of a pass: its place in the array's order, its weights, its activations (granted four cycles before),
and for the last beat the distance from the previous pass's (R113, R174, R181). None while something has not come. -/
def State.entryAt (s : State) (p : PassS) : Option Nat :=
  let ts := s.tile p.args.tile
  let ps := ts.allPlaces
  let lo := if p.next = 0 then max (p.issued + 10) ts.entryFree else p.lastEntry + 1 + p.gapAfter (p.next - 1)
  let lo := if p.next + 1 = p.beats ∧ ts.lastL ≠ 0 then max lo (ts.lastL + 16) else lo
  match s.weightsAt p p.next with
  | none => none
  | some w =>
    let lo := max lo w
    match (p.actPart p.next).foldl (fun (a : Option Nat) x => a.bind (s.readAt p.args.tile p.args.gm x.1 x.2)) (some (lo - 4)) with
    | none => none
    | some g =>
      let e := entryFrom ps (ps.length + 1) (max lo (s.actGrant p p.next g + 4))
      if e < never then some e else none

/-- May a beat enter in cycle `e`: every checked pass that has entered before it and is not checked yet is found to need a replay no
earlier (R186)? -/
def TileS.clearTill (ts : TileS) (e : Nat) : Bool :=
  ts.passes.all fun q => !q.done || !q.chk || q.verdict.isSome || decide (e ≤ q.lastEntry + 145)

/-- The next beat of the pass at index `i` enters in cycle `e` (R164–R174): its operands are read, its cells accumulate, granules that
an unchecked pass has read to the end become empty (R182). -/
def enterBeat (t i e : Nat) (p : PassS) : Tx := fun s =>
  let k := p.next
  let x := p.beatAt k
  let g := s.actGrant p k (e - 4)
  let sc := s.actScales p k g
  let v := (s.asOf t g).withLines t (p.buf ++ sc)
  let cs := v.beatCells p k
  let last := k + 1 == p.beats
  let q := { p with
    next := k + 1, done := last, acc := cs.acc, bcol := cs.bcol, brow := cs.brow
    firstEntry := if k = 0 then e else p.firstEntry, lastEntry := e
    bwait := p.bwait ++ ((p.borderLine k).toList.flatMap fun o =>
      if borderSpace p.args = 1 then (s.spanLines 1 t o 64).filter (s.lineStalls t) else []) }
  chain [
    forEach (p.actPart k) fun a => forEach (spanParts a.1 a.2) fun l => chain [
      takeBank t 0 l.1 1 (e - 4) false, noteSpdLine true t (wrapOff 0 l.1 / 64 * 64)],
    (match p.borderLine k with
      | none => skip
      | some o => if borderSpace p.args = 0 then chain [takeBank t 0 o 1 (e - 4) false, noteRead 0 t o 64 (e - 4)]
        else chain [takeBank t 1 (s.translate t o) 3 (e - 10) false, noteRead 1 t o 64 (e - 10)]),
    (fun s' => if p.refused || p.zero then [] else
      (noteExpand t x.fmt x.w p.cbBank p.args.cb x.i (s'.withLines t p.buf))),
    when (p.refused && last) (modChip fun c => { c with freeCtr := c.freeCtr + 2048 }),
    when cs.wrap (setF (R.MXA_STAT t) F.MXA_STAT_INT_WRAP 1),
    when (!p.chk && p.args.gm == 2) (forEach (p.lastRead k) fun g => emptyFrom t g e),
    modTile t fun ts => { ts with
      entryFree := if last then e + 1 + p.gapAfter k else ts.entryFree
      lastL := if last then e else ts.lastL
      passes := ts.passes.set i { q with
        buf := (p.buf ++ sc).filter fun l => if l.sp = 0 then p.midGroup k else
          (List.range p.lines).any fun n => q.keeps n && s.translate t (p.lineOff n) / 64 * 64 == l.off } }] s

/-- Beats enter while their operands are there, at most `fuel`; before each the weight path reads ahead (R154, R174). -/
def enterBeats (t : Nat) : Nat → Tx
  | 0 => skip
  | fuel + 1 => (readAhead t 64).seq fun s =>
    match (s.tile t).entering with
    | none => []
    | some i => match (s.tile t).passes[i]? with
      | none => []
      | some p => match s.entryAt p with
        | none => []
        | some e => if (s.tile t).clearTill e then chain [enterBeat t i e p, enterBeats t fuel] s else []

/-- The array takes in what it can. -/
def readPasses (t : Nat) : Tx := (regrant t).seq fun s =>
  enterBeats t (((s.tile t).passes.map fun p => p.beats - p.next).foldl (· + ·) 0 + 1) s

/-! ### Issue -/

/-- The state of a request's adapter at issue (R192): no adapter, refused, or the entry in use. -/
inductive AdpUse where
  | off
  | refused
  | use (wfmt rho aOff bOff aBorder bBorder : Nat)
deriving DecidableEq, Repr

/-- Read slot ASLOT and its entry (R190, R192). -/
def State.adapter (s : State) (a : MArgs) (isA : Bool) : AdpUse :=
  let sl := R.MXA_ADP_SLOT a.tile a.aslot
  let key := s.rf sl F.MXA_ADP_SLOT_PKEY
  if key = 0 then .off
  else
    let e := s.rf sl F.MXA_ADP_SLOT_ENTRY
    let e0 := R.MXA_ADP_TBL_0 a.tile e
    let e1 := R.MXA_ADP_TBL_1 a.tile e
    let w := s.rf e0 F.MXA_ADP_TBL_0_WFMT
    if !s.rb e0 F.MXA_ADP_TBL_0_VALID || s.rf e0 F.MXA_ADP_TBL_0_PKEY != key || (isA && a.fmt != w) ||
        (a.bchk == 2 && [3, 4, 11, 5, 6, 10].contains w) then .refused
    else .use w (8 * (s.rf e0 F.MXA_ADP_TBL_0_RANK + 1)) (1024 * s.rf e0 F.MXA_ADP_TBL_0_A_OFF) (1024 * s.rf e0 F.MXA_ADP_TBL_0_B_OFF)
      (64 * s.rf e1 F.MXA_ADP_TBL_1_A_BOFF) (64 * s.rf e1 F.MXA_ADP_TBL_1_B_BOFF)

/-- The tolerance exponent that TSEL names (R184). -/
def State.tol (s : State) (t tsel : Nat) : Nat :=
  s.rf (R.MXA_BORDER_TOL t) (match tsel with
    | 0 => F.MXA_BORDER_TOL_TOL0 | 1 => F.MXA_BORDER_TOL_TOL1 | 2 => F.MXA_BORDER_TOL_TOL2 | _ => F.MXA_BORDER_TOL_TOL3)

/-- The pass that an MMUL or MMULA issues, with every address stepped (R198) and the settings in force (R177). -/
def State.newPass (s : State) (a : MArgs) (isA : Bool) (cyc : Nat) : PassS :=
  let t := a.tile
  let k := 8 * a.k8
  let n := if a.step then s.cnt (.tile t 2) a.ctr else 0
  let m := (s.tile t).mout
  let ad := if isA || a.adp then s.adapter a isA else .off
  let use : Option AdpS := match ad with
    | .use w rho _ bo _ bb => if isA then none else
        some ⟨w, rho, bo + n * roundUp 1024 (wImageBytes w rho), bb + n * roundUp 64 (4 * rho)⟩
    | _ => none
  let u := match use with | some d => roundUp 256 (aImageBytes a.afmt d.rho) | none => 0
  let wbase := match isA, ad with
    | true, .use _ _ ao _ _ _ => ao
    | _, _ => a.woff * 1024
  let bbase := match isA, ad with
    | true, .use _ _ _ _ ab _ => ab
    | _, _ => a.boff * 64
  { args := a, mout := m
    wOff := wbase + n * roundUp 1024 (wImageBytes a.fmt k)
    aOff := a.ag * 256 + n * (roundUp 256 (aImageBytes a.afmt k) + u)
    oOff := a.og * 256 + n * roundUp 256 (passQ m a.ncol)
    bOff := bbase + n * roundUp 64 (4 * k)
    tol := s.tol t a.tsel
    chk := a.bchk != 0 && s.rb (R.MXA_CTL t) F.MXA_CTL_BCHK_EN
    cbBank := s.rf (R.WPA_CB_STAT t) F.WPA_CB_STAT_ACTIVE
    adp := use
    refused := ad == .refused
    zero := isA && ad == .off
    next := 0, done := false, acc := [], bcol := [], brow := [], attempt := 0
    issued := cyc, lines := 0, buf := [], firstEntry := 0, lastEntry := 0, held := false, verdict := none, bwait := [] }

/-- Passes that have not entered their last beat before cycle `c` (R173). One in replay counts again until its replay has (DESIGN CHOICE, log
entry 67). -/
def TileS.unentered (ts : TileS) (c : Nat) : Nat := (ts.passes.filter fun p => !p.done || decide (c ≤ p.lastEntry)).length

/-- Issue a pass (R173, R174, R190–R198). -/
def passTx (a : MArgs) (isA : Bool) : Tx :=
  issue (.tile a.tile 2) a.h (if isA then .mmula a else .mmul a) fun s c =>
    let t := a.tile
    let p := s.newPass a isA c
    { words := 2, cyc := c, ready := decide ((s.tile t).unentered c < 2)
      go := chain [
        setRegN (R.MXA_FMT t) (a.fmt + a.afmt * 2 ^ 5 + p.mout.ofmt * 2 ^ 10 + a.ncol * 2 ^ 15 + p.mout.olay * 2 ^ 19 + a.k8 * 2 ^ 20),
        when p.refused (chain [setF (R.MXA_STAT t) F.MXA_STAT_ADP_MISS 1, incF (R.MXA_STAT t) F.MXA_STAT_ADP_MISS_CNT 1]),
        modTile t fun ts => { ts with passes := ts.passes ++ [p] },
        readPasses t,
        whenS (fun s' => p.args.gm != 0 && (p.actPart 0).any fun x => !s'.readReady t p.args.gm x.1 x.2) (noteSig 0x06 t)] }

/-- MOUT (R177). -/
def moutTx (a : MoutArgs) : Tx :=
  issue (.tile a.tile 2) a.h (.mout a) fun _ c =>
    { cyc := c, go := modTile a.tile fun ts => { ts with mout := ⟨a.fmt, a.rnd, a.olay, a.wm, a.ostr⟩ } }

/-- MSYNC (R197): the stream waits until every earlier pass is complete. -/
def msyncTx (t : Nat) (h : Hdr) : Tx :=
  issue (.tile t 2) h (.msync t h) fun s c => { cyc := max c (s.tile t).m.xdone, ready := (s.tile t).passes.isEmpty, go := skip }

/-- A pass issues only with an output format that its accumulator allows (R178). -/
def State.outputAllowed (s : State) (a : MArgs) : Bool :=
  let m := (s.tile a.tile).mout
  outputFmt (passInt a) m.olay m.ofmt

/-- MMUL. -/
def execMmul (a : MArgs) (s : State) : Out :=
  if s.outputAllowed a then instruction (.mmul a) (.tile a.tile 2) (passTx a false) s else .refused .illFormed

/-- MMULA. -/
def execMmula (a : MArgs) (s : State) : Out :=
  if s.outputAllowed a then instruction (.mmula a) (.tile a.tile 2) (passTx a true) s else .refused .illFormed

/-- MOUT. -/
def execMout (a : MoutArgs) (s : State) : Out := instruction (.mout a) (.tile a.tile 2) (moutTx a) s

/-- MSYNC. -/
def execMsync (t : Nat) (h : Hdr) (s : State) : Out := instruction (.msync t h) (.tile t 2) (msyncTx t h) s

/-! ### Drain (R175–R182) -/

/-- The result cell of row `r` and column `c`. -/
def PassS.cell (p : PassS) (r c : Nat) : AccCell := p.acc.getD (16 * r + c) ⟨0, false⟩

/-- The value of an accumulator. -/
def PassS.value (p : PassS) (c : AccCell) : Fx := if passInt p.args then .ofInt (signed 32 c.bits) else f32 c.bits

/-- The rounding of MOUT (R178). -/
def MoutS.mode (m : MoutS) : Rnd := if m.rnd = 1 then .rtz else .rne

/-- A converted result: its code, whether it saturated, its poison. -/
def PassS.out (p : PassS) (r c : Nat) : Nat × Bool × Bool :=
  let x := p.cell r c
  if passInt p.args && p.mout.ofmt == 15 then (x.bits, false, x.poison)
  else
    let v := convertElem p.mout.ofmt p.mout.mode (p.value x)
    (v.1, v.2, x.poison)

/-- The bytes of a pass's column in column layout (R179): bytes with poison, and whether any element saturated. -/
def PassS.column (p : PassS) (c : Nat) : List PByte × Bool :=
  let es := (List.range 128).map fun r => p.out r c
  (es.flatMap fun e => (leBytes (outBytes p.mout.ofmt) e.1).map (·, e.2.2), es.any fun e => e.2.1)

/-- A result of the activation-image layout; inactive columns are +0 (R179). -/
def PassS.outAct (p : PassS) (r c : Nat) : Nat × Bool × Bool := if p.args.ncol < c then (0, false, false) else p.out r c

/-- A group of 32 rows of an MX output image: the scale line and four beats (R171, R179). -/
def PassS.mxGroup (p : PassS) (g : Nat) : List PByte × Bool :=
  let cols := (List.range 16).map fun c =>
    if p.args.ncol < c then (0, List.replicate 32 (0, false), false)
    else
      let cells := (List.range 32).map fun r => p.cell (32 * g + r) c
      let e := mxEncode p.mout.ofmt (cells.map fun x => (p.value x, p.mout.mode))
      (e.1, e.2, cells.any (·.poison))
  let scale : List PByte := cols.map (fun x => (BitVec.ofNat 8 x.1, x.2.2)) ++ List.replicate 48 (0, false)
  let beats := (List.range 4).flatMap fun i => cols.flatMap fun x =>
    ((x.2.1.drop (8 * i)).take 8).map fun e => (BitVec.ofNat 8 e.1, x.2.2)
  (scale ++ beats, cols.any fun x => x.2.1.any (·.2))

/-- The activation image that a pass writes (R171, R179). -/
def PassS.actImage (p : PassS) : List PByte × Bool :=
  if mxFmt p.mout.ofmt then
    let gs := (List.range 4).map p.mxGroup
    (gs.flatMap (·.1), gs.any (·.2))
  else
    let n := if outBytes p.mout.ofmt = 2 then 2 else 8
    let es := (List.range (128 / n)).flatMap fun i => (List.range 16).flatMap fun c =>
      (List.range n).map fun j => p.outAct (n * i + j) c
    (es.flatMap fun e => (leBytes (outBytes p.mout.ofmt) e.1).map (·, e.2.2), es.any fun e => e.2.1)

/-- The writes of a pass: (scratchpad offset, bytes), and whether any element saturated (R179). -/
def PassS.writes (p : PassS) : List (Nat × List PByte) × Bool :=
  if p.mout.olay = 0 then
    let cols := (List.range (p.args.ncol + 1)).map p.column
    (cols.zipIdx.map fun c => (p.oOff + c.2 * p.mout.ostr * 64, c.1.1), cols.any (·.2))
  else
    let im := p.actImage
    ([(p.oOff, im.1)], im.2)

/-! ### Border checks (R184–R187) -/

/-- The outcome of one comparison. -/
inductive Cmp1 where
  | ok | skipped | mismatch
deriving DecidableEq, Repr

/-- Compare a border result with the sum of its row or column (R184, R185). -/
def PassS.compare (p : PassS) (b : AccCell) (ys : List AccCell) : Cmp1 :=
  if passInt p.args then
    if (b :: ys).any (·.poison) then .skipped
    else if b.bits % 2 ^ 32 = wrapInt 32 ((ys.map fun y => signed 32 y.bits).foldl (· + ·) 0) then .ok else .mismatch
  else
    let vs := (b :: ys).map AccCell.val
    if (b :: ys).any (·.poison) || vs.any (fun v => !v.isFin) then .skipped
    else
      let d := (Fx.sum (b.val :: ys.map fun y => y.val.negate)).abs
      let m := Fx.sum (vs.map Fx.abs)
      if m.lt (d.scale p.tol) then .mismatch else .ok

/-- All comparisons of an attempt: active rows ascending, then active columns ascending, each (kind, index, outcome). -/
def PassS.checks (p : PassS) : List (Nat × Nat × Cmp1) :=
  let n := p.args.ncol + 1
  (List.range 128).map (fun r => (0, r, p.compare (p.bcol.getD r ⟨0, false⟩) ((List.range n).map fun c => p.cell r c))) ++
  (List.range n).map (fun c => (1, c, p.compare (p.brow.getD c ⟨0, false⟩) ((List.range 128).map fun r => p.cell r c)))

/-- The cycle in which the pass's last output byte is readable: a write that has waited begins at the clock's cycle, and none before the
writes of an earlier pass end (R175, R181). -/
def State.writtenAt (s : State) (p : PassS) : Nat :=
  let ends := ((s.tile p.args.tile).places.filter fun x => decide (x.1 < p.lastEntry + 2)).foldl (fun a x => max a x.2) 0
  max (max (p.lastEntry + drainLead) ends) (if p.held then s.chip.fcyc else 0) + p.w

/-- The cycle in which byte `b` of a pass's output becomes readable, written from cycle `c` on at 512 bytes a cycle (R175). -/
def outAt (c b : Nat) : Nat := c + 1 + b / 512

/-- Write a part of the output: `q` bytes of it came before, the first write of the pass is granted in cycle `c` (R175, R179, R182). The
drain ranks with the array's reads (log entry 56). -/
def writePart (t off q c wm : Nat) (bs : List PByte) : Tx := chain [
  forEach ((spanParts off bs.length).map fun l => (l.1, l.2, l.1 - off)) fun l => chain [
    takeBank t 0 l.1 1 (c + (q + l.2.2) / 512) true,
    wr 0 t l.1 ((bs.drop l.2.2).take l.2.1) (outAt c (q + l.2.2 + l.2.1 - 1))],
  writeDone t wm off bs.length,
  when (wm != 0) (forEach (granulesOf off bs.length).zipIdx fun g =>
    noteAvail t (256 * g.1) 256 (outAt c (q + min bs.length (256 * (g.2 + 1) - off % 256) - 1)))]

/-- The drain of an attempt gives its place up at cycle `until_`. -/
def keepPlace (t : Nat) (p : PassS) (until_ : Nat) : Tx := modTile t fun ts =>
  { ts with places := ts.places.filter (fun x => decide (ts.entryFree < x.2)) ++ [(p.lastEntry + 2, until_)] }

/-- Write the results of the pass at index `i` and retire it (R176, R178, R179, R182). -/
def writePass (t i : Nat) (p : PassS) (poison : Bool) : Tx := fun s =>
  let w := p.writes
  let at_ := s.writtenAt p
  (chain [
    keepPlace t p at_, busyUntil t at_,
    modStream t 2 fun x => { x with xdone := max x.xdone at_ },
    forEach w.1.zipIdx fun x =>
      writePart t x.1.1 (x.2 * x.1.2.length) (at_ - p.w) p.mout.wm
        (if poison || p.refused then x.1.2.map (fun b => (b.1, true)) else x.1.2),
    when w.2 (noteSat t),
    modTile t fun ts => { ts with passes := ts.passes.eraseIdx i }]) s

/-- May the drain write: no held granule of the output is full (R181)? -/
def State.drainReady (s : State) (p : PassS) : Bool := p.writes.1.all fun x => s.writeReady p.args.tile p.mout.wm x.1 x.2.length

/-- What a checked attempt records: CHECKED, SKIPPED, and the first mismatch (R185, R186). -/
def noteChecks (t : Nat) (cs : List (Nat × Nat × Cmp1)) : Tx := chain [
  incF (R.MXA_BORDER_STAT t) F.MXA_BORDER_STAT_CHECKED 1,
  incF (R.MXA_BORDER_STAT t) F.MXA_BORDER_STAT_SKIPPED (cs.filter fun c => c.2.2 == .skipped).length,
  match cs.find? (fun c => c.2.2 == .mismatch) with
  | none => skip
  | some c => chain [
      whenS (fun s => !s.rb (R.MXA_BORDER_STAT t) F.MXA_BORDER_STAT_MISMATCH)
        (chain [setF (R.MXA_BORDER_STAT t) F.MXA_BORDER_STAT_KIND c.1, setF (R.MXA_BORDER_STAT t) F.MXA_BORDER_STAT_INDEX c.2.1]),
      setF (R.MXA_BORDER_STAT t) F.MXA_BORDER_STAT_MISMATCH 1,
      noteSig 0x08 t]]

/-- The checks of an attempt, or none where the pass runs unchecked (R183). -/
def PassS.found (p : PassS) : List (Nat × Nat × Cmp1) := if p.chk then p.checks else []

/-- Does a comparison of the attempt mismatch? -/
def PassS.mismatch (p : PassS) : Bool := p.found.any fun c => c.2.2 == .mismatch

/-- The consume reads of a checked pass empty its granules at cycle L + 146, or once a check that waited is made (R182, R187). -/
def emptyChecked (t : Nat) (p : PassS) : Tx := fun s =>
  when (p.chk && p.args.gm == 2) (forEach (spanGranules p.actSpans) fun g =>
    emptyFrom t g (max (p.lastEntry + drainLead) (if p.held then s.chip.fcyc else 0))) s

/-- The passes of an attempt whose last beat has entered, oldest first. -/
def TileS.doneOf (ts : TileS) (attempt : Nat) : List (Nat × PassS) :=
  (ts.passes.zipIdx.filter fun x => x.1.attempt == attempt && x.1.done).map fun x => (x.2, x.1)

/-- Is the attempt checked, and its check still to be made? -/
def PassS.unjudged (p : PassS) : Bool := p.chk && p.verdict.isNone

/-- A write that could be granted now waits (R181): the stream stalls (signal 0x06). -/
def waitDrain (t i : Nat) (p : PassS) : Tx := fun s =>
  when (decide (p.lastEntry + drainLead ≤ s.chip.fcyc) && !p.held) (chain [noteSig 0x06 t, setPass t i { p with held := true }]) s

/-- A pass whose check is made, or that has none, writes its output once its held granules are empty. -/
def drainOut (t i : Nat) (p : PassS) : Tx := fun s =>
  if s.drainReady p then writePass t i p (p.verdict == some false) s else waitDrain t i p s

/-- The replay of a pass, called at cycle L + 145 (R186): it enters next, and reads all its operands again; lines read ahead for passes
that wait give way to it (log entry 56). -/
def callReplay (t i : Nat) (p : PassS) : Tx := chain [
  keepPlace t p (p.lastEntry + drainLead),
  modTile t fun ts => { ts with
    wcyc := max ts.wcyc (p.lastEntry + 145)
    passes := (ts.passes.map fun q => if !q.done && q.next == 0 then { q with lines := 0, buf := [] } else q).set i
      { p with attempt := 1, next := 0, done := false, issued := p.lastEntry + 145, lines := 0, buf := [], held := false, bwait := [] } }]

/-- The check of a first attempt at cycle L + 145 (R184–R186): one that passes goes on by `next`, a mismatch writes nothing and calls the
replay. -/
def judgeFirst (t i : Nat) (p : PassS) (next : PassS → Tx) : Tx :=
  if p.mismatch then
    chain [noteChecks t p.found, incF (R.MXA_REPLAY_CNT t) F.MXA_REPLAY_CNT_REPLAYS 1, callReplay t i p]
  else
    let q := { p with verdict := some true }
    chain [noteChecks t p.found, emptyChecked t p, setPass t i q, next q]

/-- The check of a replay (R187): where it mismatches too, BORDER_FAULT is reported and the tile is nominated. -/
def judgeReplay (t i : Nat) (p : PassS) (next : PassS → Tx) : Tx :=
  let q := { p with verdict := some (!p.mismatch) }
  chain [
    noteChecks t p.found, emptyChecked t p, setPass t i q,
    when p.mismatch (chain [
      incF (R.MXA_REPLAY_CNT t) F.MXA_REPLAY_CNT_FAULTS 1,
      raise (R.MXA_BORDER_STAT t) F.MXA_BORDER_STAT_FAULT 0x0803 t,
      whenS (fun s => s.rb (R.MXA_CTL t) F.MXA_CTL_NOMINATE) (nominate t 1)]),
    next q]

/-- A check, which waits for the refetch of the border lines that were read uncorrectable (R121, log entry 55). -/
def judge (t i : Nat) (p : PassS) (next : PassS → Tx) : Tx := fun s =>
  if p.bwait.any (s.lineStalls t) then chain [askLines t p.bwait, waitDrain t i p] s
  else if p.attempt = 0 then judgeFirst t i p next s else judgeReplay t i p next s

/-- The oldest pass of an attempt is checked and written; while its write waits, the check of the next one that has none yet is made at its
own cycle (R181, R184). -/
def drainStep (t attempt : Nat) : Tx := whenS State.released <| (readPasses t).seq fun s =>
  match (s.tile t).doneOf attempt with
  | [] => []
  | (i, p) :: rest =>
    if p.unjudged then judge t i p (drainOut t i) s
    else if s.drainReady p then drainOut t i p s
    else chain [
      drainOut t i p,
      match rest.find? (·.2.unjudged) with
      | some x => judge t x.1 x.2 fun _ => skip
      | none => skip] s

/-- PASS_DRAIN (R175–R186): a first attempt is checked; one that passes, or is not checked, is written. -/
def passDrainTx (t : Nat) : Tx := drainStep t 0

/-- PASS_REPLAY (R186, R187): the replay reads its operands again under the settings the pass issued with; where it mismatches too, its output
is written poisoned. -/
def passReplayTx (t : Nat) : Tx := drainStep t 1

/-- PASS_DRAIN. -/
def execPassDrain (t : Nat) (s : State) : Out := onTile t (passDrainTx t) s

/-- PASS_REPLAY. -/
def execPassReplay (t : Nat) (s : State) : Out := onTile t (passReplayTx t) s

end Sys2Proof.Machine
end

