-- ==== Sys2Proof/Machine/Telemetry.lean ====
section
/-! DEFINITION. Telemetry, breaks and test commands (R370, R450–R454): TEL_READ, DBG_BREAK_SET, TEST_RUN. -/

namespace Sys2Proof.Machine

/-! ### TEL_READ -/

/-- The 2,064 bytes of SET 0: the frame and length of the last slack window and every tile's minimum slack over it (R59, R370). -/
def State.slackTelemetry (s : State) : List Byte :=
  leBytes 8 s.chip.winFrame ++
    leBytes 4 (if s.chip.winLen = 0 then 2 ^ s.rf R.FRM_CTL F.FRM_CTL_SLACK_WIN else s.chip.winLen) ++ leBytes 4 0 ++
    (List.range 512).flatMap fun t =>
      leBytes 4 (if t < s.numTiles then fromSigned 32 ((s.tile t).lastMin.getD 0) else 0)

/-- SET 1: chip registers from an offset, each word as a host read returns it, side effects included. -/
def copyRegs (a : Nat) : Nat → Nat → Tx
  | 0, _ => skip
  | n + 1, off => chain [fun s => hostWrite a (leBytes 8 (s.readReg off).toNat) s, readEffect off, copyRegs (a + 8) n (off + 8)]

/-- Is the command within TEL_READ's own bounds? -/
def telOk (c : Cmd) : Bool :=
  let set := c.w2.toNat % 256
  let len := c.w4.toNat
  let off := c.w5.toNat
  if set = 0 then decide (2064 ≤ len)
  else set == 1 && off % 8 == 0 && len % 8 == 0 && decide (0 < len) && decide (off + len ≤ 0x100000)

/-- TEL_READ. -/
def telReadTx (c : Cmd) : Tx := fun s =>
  if !telOk c then postReply c 0x0103 0 0 s
  else if c.w2.toNat % 256 = 0 then chain [hostWrite c.w3.toNat s.slackTelemetry, postReply c 0 0 0] s
  else chain [copyRegs c.w3.toNat (c.w4.toNat / 8) c.w5.toNat, postReply c 0 0 0] s

/-- TEL_READ. -/
def execTelRead (c : Cmd) (s : State) : Out := commit (onStart c (telReadTx c)) s

/-! ### DBG_BREAK_SET -/

/-- DBG_BREAK_SET: the break register that KIND names, armed unless CLEAR, and BRK_DOMAIN. -/
def dbgBreakSetTx (c : Cmd) : Tx :=
  let w := c.w2.toNat
  let t := w % 512
  let k := w / 512 % 4
  let en := !w.testBit 13
  chain [
    if w.testBit 11 then chain [
      setF (R.STR_BRK_TAG t k) F.STR_BRK_TAG_TAG (c.w3.toNat % 64),
      setF (R.STR_BRK_TAG t k) F.STR_BRK_TAG_AFTER (c.w3.toNat / 65536 % 65536),
      setB (R.STR_BRK_TAG t k) F.STR_BRK_TAG_EN en,
      modStream t k fun x => { x with tagSeen := 0 }]
    else chain [
      setF (R.STR_BRK_COUNT t k) F.STR_BRK_COUNT_COUNT c.w3.toNat,
      setB (R.STR_BRK_COUNT t k) F.STR_BRK_COUNT_EN en],
    setB (R.STR_CTL t) F.STR_CTL_BRK_DOMAIN (w.testBit 12),
    postReply c 0 0 0]

/-- DBG_BREAK_SET. -/
def execDbgBreakSet (c : Cmd) (s : State) : Out := commit (onStart c (dbgBreakSetTx c)) s

/-! ### TEST_RUN (R451, R453) -/

/-- The slice that a test request is held against: that of the frame, or with no job the one the registers give (R30). -/
def State.sliceNow (s : State) : Nat :=
  if s.running then s.slice else s.frmLen * s.rf R.FRM_MAINT_SLICE F.FRM_MAINT_SLICE_FRAC / 256

/-- A test starts. -/
def startTest (c : Cmd) (test tile : Nat) (full : Bool) : Tx := chain [
  rouse 2, setF R.DBG_TEST_STAT F.DBG_TEST_STAT_TEST test, setF R.DBG_TEST_STAT F.DBG_TEST_STAT_TILE tile,
  modChip fun ch => { ch with test := some ⟨c, test, full, tile, 0, 0, false, 0, false, none⟩ }]

/-- Must a FULL = 1 test wait for a drained module (R453)? -/
def State.needsDrain (s : State) : Bool :=
  s.running || s.descState 0 == 1 || s.descState 1 == 1 || s.chip.slots.any Slot.open

/-- TEST_RUN. -/
def testRunTx (c : Cmd) : Tx := fun s =>
  let test := c.w2.toNat % 256
  let full := c.w2.toNat.testBit 8
  let tile := c.w2.toNat / 65536 % 512
  if full then
    if tile ≠ 0 then postReply c 0x0103 (2 + 256 * 16) 0 s
    else if s.needsDrain then postReply c 0x0602 0 0 s
    else match s.chip.test with
      | some x => chain [endTest x false, startTest c test 0 true] s
      | none => startTest c test 0 true s
  else if s.numTiles ≤ tile then postReply c 0x0103 (2 + 256 * 16) 0 s
  else if s.sliceNow < testLen test then postReply c 0x0601 1 0 s
  else if s.chip.test.isSome then postReply c 0x0601 2 0 s
  else startTest c test tile false s

/-- TEST_RUN. While a FULL = 1 test runs the command waits (DESIGN CHOICE, log entry 61). -/
def execTestRun (c : Cmd) (s : State) : Out :=
  commit (whenS (fun s => s.chip.test.all fun x => !x.full) (onStart c (testRunTx c))) s

end Sys2Proof.Machine
end

