-- ==== Sys2Proof/Machine/Operands.lean ====
section
/-! DEFINITION. Operands of the V stream (spec/07, R200–R210): their lines after stepping, the bytes they read and write, their
elements, and what they cost per beat. -/

namespace Sys2Proof.Machine

/-- Bytes of an element of a lane format. -/
def laneBytes (f : Nat) : Nat := elemBits f / 8

/-- Beats of `n` elements (R201). -/
def beatsOf (n : Nat) : Nat := (n + 127) / 128

/-- Bytes of `n` elements packed at `w` bits. -/
def packedBytes (w n : Nat) : Nat := (w * n + 7) / 8

/-- A span that an instruction reads or writes: space, byte offset, bytes, granule mode (read: 0 plain, 1 keep, 2 consume;
write: 0 plain, 1 fill, 2 held). -/
structure VSpan where
  sp : Nat
  off : Nat
  n : Nat
  md : Nat
deriving DecidableEq, Repr

/-- Elements per operand: VL, or what TMASK writes (R263, R264). -/
def VOp.count (o : VOp) : Nat := if o.kind == .tmask then (if o.a.xf % 4 = 0 then 256 else 16) else o.vl

/-- Is it a row operation that writes one record (R209)? -/
def VOp.record (o : VOp) : Option Nat :=
  match o.kind with
  | .red => some 4
  | .smx1 => some 8
  | .rowstat => some 8
  | .sample => some 16
  | _ => none

/-- Byte length of operand A. -/
def VOp.aLen (o : VOp) : Nat :=
  match o.kind with
  | .tmask | .grain => 0
  | _ => packedBytes (elemBits o.a.fmt) o.vl

/-- Byte length of operand B: the indexes of VPERM, the pair of SMX2, the parameters of SAMPLE, the parent vector of TMASK, one
element under BB (its step too, R208: DESIGN CHOICE, log entry 67), else VL elements; 0 where the instruction has no B. -/
def VOp.bLen (o : VOp) : Nat :=
  let n := if o.a.bb then 1 else o.vl
  match o.kind with
  | .add | .sub | .mul | .fma | .max | .min | .cmp | .sel | .and | .or | .xor | .shl | .shr => n * laneBytes o.a.fmt
  | .shuf => if o.a.xf = 0 then n * laneBytes o.a.fmt else 0
  | .perm => n * 4
  | .smx2 => 8
  | .sample => 16
  | .tmask => 16
  | _ => 0

/-- Byte length of operand C: elements of VFMA and VSEL, scales of the packed formats. -/
def VOp.cLen (o : VOp) : Nat :=
  match o.kind with
  | .fma | .sel => o.vl * laneBytes o.a.fmt
  | .unpack => if mxFmt o.a.fmt then (o.vl + 31) / 32 else 0
  | .pack => if o.a.xf = 0 && mxFmt o.a.dfmt then (o.vl + 31) / 32 else 0
  | _ => 0

/-- Byte length of the destination. -/
def VOp.dLen (o : VOp) : Nat :=
  match o.record with
  | some n => n
  | none => match o.kind with
    | .pack => if o.a.xf = 0 then packedBytes (elemBits o.a.dfmt) o.vl else aImageBytes o.a.dfmt (o.vl / 16)
    | _ => o.count * laneBytes o.a.dfmt

/-- The byte offset of an operand's line after stepping: its byte length rounded up to whole lines, times CNT[CTR] (R208). -/
def VOp.at (o : VOp) (line len : Nat) : Nat := line * 64 + (if o.a.step then o.cnt * ((len + 63) / 64 * 64) else 0)

def VOp.aOff (o : VOp) : Nat := o.at o.a.srca o.aLen
def VOp.bOff (o : VOp) : Nat := o.at o.a.srcb o.bLen
def VOp.cOff (o : VOp) : Nat := o.at o.a.srcc o.cLen
def VOp.dOff (o : VOp) : Nat := o.at o.a.dst o.dLen

/-- The space of operand A. -/
def VOp.aSp (o : VOp) : Nat := if o.a.ta then 1 else 0

/-- Column coordinate of element `i` (R208). -/
def VOp.col (o : VOp) (i : Nat) : Nat := (if o.a.step then o.cnt * o.vl else 0) + i

/-- VPATCH: pixels side, channels, row pitch (R219). -/
def patchGeom (w cm1 pm1 : Nat) : Nat × Nat × Nat := (pm1 + 1, cm1 + 1, w * (cm1 + 1))

/-- The source element of VPATCH's output element `n` (R219). -/
def patchSrc (w cm1 pm1 n : Nat) : Nat :=
  let p := pm1 + 1
  let c := cm1 + 1
  let q := n / (p * p * c)
  let r := n % (p * p * c)
  (r / (p * c) * w + q * p + r / c % p) * c + r % c

/-- The granule mode of operand A: tier sources always read plain (R204). -/
def VOp.aMode (o : VOp) : Nat := if o.a.ta then 0 else o.a.gm

/-- The operands that an instruction reads beat by beat, with their bytes per beat (R200, R203): A but for VPATCH, B where it is a
vector, C. -/
def VOp.vectors (o : VOp) : List (VSpan × Nat) :=
  let b : List (VSpan × Nat) := if o.bLen = 0 || o.a.bb then [] else match o.kind with
    | .smx2 | .sample | .tmask => []
    | .perm => [(⟨0, o.bOff, o.bLen, o.a.gm⟩, 512)]
    | _ => [(⟨0, o.bOff, o.bLen, o.a.gm⟩, 128 * laneBytes o.a.fmt)]
  let c : List (VSpan × Nat) := if o.cLen = 0 then [] else match o.kind with
    | .unpack => [(⟨0, o.cOff, o.cLen, o.a.gm⟩, 4)]
    | .pack => []
    | _ => [(⟨0, o.cOff, o.cLen, o.a.gm⟩, 128 * laneBytes o.a.fmt)]
  (match o.kind with
    | .patch _ _ _ => []
    | .pack => if o.a.xf ≠ 0 then [] else [(⟨o.aSp, o.aOff, o.aLen, o.aMode⟩, 16 * elemBits o.a.fmt)]
    | _ => if o.aLen = 0 then [] else [(⟨o.aSp, o.aOff, o.aLen, o.aMode⟩, 16 * elemBits o.a.fmt)]) ++ b ++ c

/-- The operands that it reads once, with its first beat: a broadcast element, the pair of SMX2, SAMPLE's parameters, TMASK's parents
(R203, R209). -/
def VOp.once (o : VOp) : List VSpan :=
  if o.bLen = 0 then [] else match o.kind with
    | .smx2 | .sample | .tmask => [⟨0, o.bOff, o.bLen, o.a.gm⟩]
    | _ => if o.a.bb then [⟨0, o.bOff, o.bLen, o.a.gm⟩] else []

/-- The source elements of VPATCH's output elements from `n` on, up to `m` (R219). -/
def VOp.patchReads (o : VOp) (n m : Nat) : List VSpan :=
  match o.kind with
  | .patch w c p => (List.range (m - n)).map fun j =>
      ⟨o.aSp, o.aOff + patchSrc w c p (n + j) * laneBytes o.a.fmt, laneBytes o.a.fmt, o.aMode⟩
  | _ => []

/-- The source elements of VPACK with LAY 1 from beat `i` on, `n` positions of each of the 16 columns: a beat takes 8 (R171, R220). -/
def VOp.packReads (o : VOp) (i n : Nat) : List VSpan :=
  let b := laneBytes o.a.fmt
  if o.kind == .pack && o.a.xf != 0 then
    (List.range 16).map fun c => ⟨o.aSp, o.aOff + (c * (o.vl / 16) + 8 * i) * b, n * b, o.aMode⟩
  else []

/-- Beats of the instruction (R201). -/
def VOp.beats (o : VOp) : Nat := if o.kind == .tmask then 1 else max 1 (beatsOf o.vl)

/-- What beat `i` reads. -/
def VOp.parts (o : VOp) (i : Nat) : List VSpan :=
  (o.vectors.filterMap fun x => if x.1.n ≤ x.2 * i then none
    else some { x.1 with off := x.1.off + x.2 * i, n := min x.2 (x.1.n - x.2 * i) }) ++
  (if i = 0 then o.once else []) ++ o.patchReads (128 * i) (min o.vl (128 * (i + 1))) ++ o.packReads i 8

/-- What the beats from `i` on read. -/
def VOp.rest (o : VOp) (i : Nat) : List VSpan :=
  (o.vectors.filterMap fun x => if x.1.n ≤ x.2 * i then none
    else some { x.1 with off := x.1.off + x.2 * i, n := x.1.n - x.2 * i }) ++
  (if i = 0 then o.once else []) ++ o.patchReads (128 * i) o.vl ++ o.packReads i (o.vl / 16 - 8 * i)

/-- The pair stored at DST that SMX1 with ACC = 1 reads six cycles before its last result (R231). -/
def VOp.accRead (o : VOp) : List VSpan := if o.kind == .smx1 && o.a.xf % 2 == 1 then [⟨0, o.dOff, 8, 0⟩] else []

/-- All spans that an instruction reads (R203, R204, R231). -/
def VOp.reads (o : VOp) : List VSpan := o.rest 0 ++ o.accRead

/-- The granules that some reads consume. -/
def consumedOf (xs : List VSpan) : List Nat :=
  ((xs.filter fun x => x.sp == 0 && x.md == 2).flatMap fun x => granulesOf x.off x.n).eraseDups

/-- The granules that the instruction's consume reads empty. -/
def VOp.consumed (o : VOp) : List Nat := consumedOf (o.rest 0)

/-- Is the result written beat by beat; else at the end (R209, R210)? -/
def VOp.beatwise (o : VOp) : Bool :=
  match o.kind with
  | .perm | .shuf | .patch _ _ _ | .red | .smx1 | .rowstat | .sample | .tmask => false
  | _ => true

/-- Bytes of the destination that a beat writes. -/
def VOp.dBeat (o : VOp) : Nat :=
  match o.kind with
  | .pack => 16 * elemBits o.a.dfmt
  | _ => 128 * laneBytes o.a.dfmt

/-- Where in a destination of `n` bytes beat `i` writes, and how many bytes. A group of an MX activation image is written with its last
beat, on which its scales depend (R171, R220). -/
def VOp.cut (o : VOp) (i n : Nat) : Nat × Nat :=
  if !o.beatwise then (if i + 1 = o.beats then (0, n) else (0, 0))
  else if o.kind == .pack && o.a.xf != 0 && mxFmt o.a.dfmt then (if i % 4 = 3 then (576 * (i / 4), 576) else (0, 0))
  else (o.dBeat * i, min o.dBeat (n - o.dBeat * i))

/-- The scales of VPACK with LAY 0 that beat `i` writes: one a block of 32 elements (R220). -/
def VOp.scaleCut (i n : Nat) : Nat × Nat := (4 * i, min 4 (n - 4 * i))

/-- The spans that beat `i` writes (offset, bytes): its part of the destination, and its scales. -/
def VOp.dParts (o : VOp) (i : Nat) : List (Nat × Nat) :=
  let d := o.cut i o.dLen
  let c := VOp.scaleCut i o.cLen
  (o.dOff + d.1, d.2) :: (if o.kind == .pack && decide (0 < c.2) then [(o.cOff + c.1, c.2)] else [])

/-! ### Elements -/

/-- A result element: its code, whether it saturated, its poison. -/
structure VEl where
  code : Nat
  sat : Bool
  poison : Bool
deriving DecidableEq, Repr

/-- `n` elements of a lane format from a span's start: codes with poison. -/
def State.velems (s : State) (sp t off f n : Nat) : List (Nat × Bool) :=
  (pieces (laneBytes f) (s.rd sp t off (n * laneBytes f))).map fun c => (pNat c, ppoison c)

/-- The elements of operand A. -/
def State.va (s : State) (o : VOp) : List (Nat × Bool) := s.velems o.aSp o.a.tile o.aOff o.a.fmt o.vl

/-- The elements of operand B in a format; under BB its element 0 for every element (R203). -/
def State.vb (s : State) (o : VOp) (f : Nat) : List (Nat × Bool) :=
  if o.a.bb then List.replicate o.vl ((s.velems 0 o.a.tile o.bOff f 1).headD (0, false)) else s.velems 0 o.a.tile o.bOff f o.vl

/-- The elements of operand C. -/
def State.vc (s : State) (o : VOp) : List (Nat × Bool) := s.velems 0 o.a.tile o.cOff o.a.fmt o.vl

/-- `n` elements packed at `w` bits in the order of R151: nibbles low first, 6-bit elements in 48-bit groups. -/
def unpackSpan (w n : Nat) (bs : List PByte) : List (Nat × Bool) :=
  let g := if w = 6 then 6 else if w = 4 then 1 else w / 8
  ((pieces g bs).flatMap fun c =>
    let v := pNat c
    (List.range (8 * g / w)).map fun j => (v >>> (w * j) % 2 ^ w, ppoison (((c.drop (w * j / 8)).take ((w * j % 8 + w + 7) / 8))))).take n

/-- Elements packed at `w` bits, the unused bits of the last byte 0 (R151, R201). -/
def packSpan (w : Nat) (es : List VEl) : List PByte :=
  let g := if w = 6 then 8 else if w = 4 then 2 else 1
  (pieces g es).flatMap fun c =>
    let v := (c.zipIdx.map fun x => x.1.code % 2 ^ w * 2 ^ (w * x.2)).foldl (· + ·) 0
    (leBytes (packedBytes w c.length) v).zipIdx.map fun b =>
      (b.1, (c.zipIdx.any fun x => x.1.poison && decide (w * x.2 < 8 * b.2 + 8) && decide (8 * b.2 < w * x.2 + w)))

/-- Result elements as bytes of a lane format. -/
def velBytes (f : Nat) (es : List VEl) : List PByte := es.flatMap fun e => (leBytes (laneBytes f) e.code).map (·, e.poison)

/-! ### Cost (R209) -/

/-- Element size in units of 1/32 byte, an MX scale included. -/
def size32 (f : Nat) : Nat := 4 * elemBits f + (if mxFmt f then 1 else 0)

/-- Cycles per beat (R209). -/
def VOp.beatCycles (o : VOp) (degraded : Bool) : Nat :=
  let q := match o.kind with
    | .tmask => 0
    | .grain => size32 15
    | _ => (if o.a.ta then 0 else size32 o.a.fmt) +
        (match o.kind with
          | .smx2 | .sample => 0
          | .perm => if o.a.bb then 0 else size32 15
          | _ => if o.a.bb || o.bLen == 0 then 0 else size32 o.a.fmt) +
        (match o.kind with
          | .fma | .sel => size32 o.a.fmt
          | _ => 0) +
        (if o.record.isSome then 0 else size32 o.a.dfmt)
  let k := max 1 ((q + 255) / 256)
  match o.kind with
  | .perm => max k 8
  | .patch _ cm1 pm1 => max k ((8 + (pm1 + 1) * (cm1 + 1) - 1) / ((pm1 + 1) * (cm1 + 1)))
  | .sfu | .smx1 | .smx2 | .sample => if degraded then max k 16 else k
  | _ => k

/-- The distance from a beat's read grant to its result, and the cycles for which an instruction holds the lanes after its last beat
(Table: Vector timing, R210, R255, R266), for beats of k cycles. `kk` is K′ of SAMPLE, `keyed` whether it draws grain in element-keyed
mode. -/
def VOp.timing (o : VOp) (k kk : Nat) (degraded keyed : Bool) : Nat × Nat :=
  let tr := (if o.a.ta then 3 else 0) + (if keyed && o.kind != .sample then 1 else 0)
  match o.kind with
  | .tmask => (13, 0)
  | .sfu => (15 + tr, 0)
  | .red => (37 + tr, 0)
  | .rowstat => (51 + tr, 0)
  | .smx1 => (15 + 56 * (if degraded then 4 else 1) + tr, 0)
  | .smx2 => let x := if degraded then 32 else 16
    (x + 15 + tr, x)
  | .sample =>
    let x := beatsOf o.vl * k + (if degraded then 128 else 64) + 16 * ((kk + 127) / 128)
    (k + x + 9 + tr, x)
  | _ => (9 + tr, 0)

/-! ### When a beat's reads are granted (R204, R209, R210) -/

/-- The lines of some reads, translated in the tier: (space, offset). -/
def State.vlines (s : State) (t : Nat) (xs : List VSpan) : List (Nat × Nat) :=
  (xs.flatMap fun x => (s.spanLines x.sp t x.off x.n).map fun l => (x.sp, l)).eraseDups

/-- The bank accesses of a beat: its reads spread over its `k` cycles, its writes, at most 16 a cycle, up to the cycle before their result;
of SMX1 the pair that it reads six cycles before its last result (R231). -/
def State.beatGrants (s : State) (o : VOp) (i k lead : Nat) : List Grant :=
  let rs := s.vlines o.a.tile (o.parts i)
  let ws := ((o.dParts i).flatMap fun d => s.spanLines 0 o.a.tile d.1 d.2).eraseDups
  rs.zipIdx.map (fun x => ⟨x.2 * k / rs.length, x.1.1, x.1.2, 2, false, false⟩) ++
    (if i + 1 = o.beats then (s.vlines o.a.tile o.accRead).map fun l => ⟨lead - 6, l.1, l.2, 2, false, false⟩ else []) ++
    ws.zipIdx.map fun l => ⟨lead - 1 - (ws.length - 1 - l.2) / 16, 0, l.1, 2, true, false⟩

/-- A request `c` cycles later. -/
def Grant.after (g : Grant) (c : Nat) : Grant := { g with cyc := g.cyc + c }

/-- The first cycle from `c` on in which no access of a beat meets a higher-ranked one, and the accesses that were delayed (R114). -/
def freeBeat (gs rs : List Grant) : Nat → Nat → List Grant → Nat × List Grant
  | 0, c, ds => (c, ds)
  | n + 1, c, ds =>
    match rs.filter fun r => gs.any (·.blocks (r.after c)) with
    | [] => (c, ds)
    | bs => freeBeat gs rs n (c + 1) (ds ++ bs.filter fun b => !ds.contains b)

/-- The cycle from which the granules of some spans are empty, for a held write; none while one is full that the instruction's own reads
do not empty (R53, R204). -/
def State.emptyBy (s : State) (o : VOp) (ds : List (Nat × Nat)) : Option Nat :=
  if o.a.wm != 2 then some 0
  else
    let gs := (ds.flatMap fun d => granulesOf d.1 d.2).filter fun g => !o.consumed.contains g
    if gs.any (s.isFull o.a.tile) then none else some (gs.foldl (fun a g => max a (s.fullTill o.a.tile g)) 0)

/-- Does a tier read of beat `i` await a refetch (R121)? -/
def State.beatStalled (s : State) (o : VOp) (i : Nat) : Bool := (o.parts i).any fun x => s.needsRefetch x.sp o.a.tile x.off x.n

/-- The grant of beat `i`'s reads, cycle `lo` or later, and the accesses that were delayed; none while a granule it reads is empty, one
of a held write full, or a line awaits its refetch. -/
def State.beatAt (s : State) (o : VOp) (i k lead lo : Nat) : Option (Nat × List Grant) :=
  if s.beatStalled o i then none
  else match (o.parts i).foldl (fun (a : Option Nat) x => if x.sp = 0 then a.bind (s.readAt o.a.tile x.md x.off x.n) else a) (some lo),
      s.emptyBy o ((o.dParts i).take 1) with
    | some c, some e =>
      let gs := (s.tile o.a.tile).grants
      some (freeBeat gs (s.beatGrants o i k lead) (gs.length + 1) (max c (e + 1 - lead)) [])
    | _, _ => none

/-- The grants of the beats from `i` on, at most `n`, as long as each has what it waits for. -/
def State.beatsAt (s : State) (o : VOp) (k lead : Nat) : Nat → Nat → Nat → List (Nat × List Grant)
  | 0, _, _ => []
  | n + 1, i, lo =>
    match s.beatAt o i k lead lo with
    | none => []
    | some g => g :: s.beatsAt o k lead n (i + 1) (g.1 + k)

end Sys2Proof.Machine
end

