-- ==== Sys2Proof/Machine/Sfu.lean ====
section
/-! DEFINITION. Special functions (spec/07, R223–R230): table and ROM coefficients, segment evaluation, the functions. -/

namespace Sys2Proof.Machine

/-! ### The ROM of compatible mode (R229)

Its coefficients are the exact values rounded once to FP32. The irrational ones are computed to 200 fractional bits and carry a
last bit that says that more follows, so that one rounding of the approximation is the rounding of the value. -/

/-- Fractional bits of the fixed-point work. -/
def romBits : Nat := 200

/-- Integer square root by bits. -/
def isqrtFrom (n : Nat) : Nat → Nat → Nat
  | 0, r => r
  | b + 1, r => isqrtFrom n b (if (r + 2 ^ b) * (r + 2 ^ b) ≤ n then r + 2 ^ b else r)

/-- floor(√n) for n below 2^1024. -/
def isqrt (n : Nat) : Nat := isqrtFrom n 512 0

/-- A positive value known as floor(v × 2^200), inexact beyond. -/
def romFx (neg exact : Bool) (n : Nat) : Fx := if exact then .fin neg n (-(romBits : Int)) else .fin neg (2 * n + 1) (-(romBits : Int) - 1)

/-- ln 2 × 2^200: the sum of 1 / (k 2^k). -/
def ln2Fix : Nat := ((List.range 230).map fun k => 2 ^ romBits / ((k + 1) * 2 ^ (k + 1))).foldl (· + ·) 0

/-- e^x × 2^200 for x given × 2^200, x < 1: the Taylor sum. -/
def expFix (x : Nat) : Nat :=
  ((List.range 70).foldl (fun (a : Nat × Nat) k => (a.1 + a.2, a.2 * x / 2 ^ romBits / (k + 1))) (0, 2 ^ romBits)).1

/-- ln((128 + i)/128) × 2^200: 2 artanh(i / (256 + i)). -/
def lnFix (i : Nat) : Nat :=
  let z := i * 2 ^ romBits / (256 + i)
  let z2 := z * z / 2 ^ romBits
  2 * ((List.range 75).foldl (fun (a : Nat × Nat) k => (a.1 + a.2 / (2 * k + 1), a.2 * z2 / 2 ^ romBits)) (0, z)).1

/-- √(p/q) × 2^200, floor, and whether it is exact. -/
def sqrtFix (p q : Nat) : Nat × Bool :=
  let n := p * 2 ^ (2 * romBits) / q
  let r := isqrt n
  (r, r * r == n && p * 2 ^ (2 * romBits) % q == 0)

/-- The ROM coefficients c0, c1, c2 of table T at segment i, before rounding (R229). -/
def romExact (T i : Nat) : Fx × Fx × Fx :=
  let one := 2 ^ romBits
  match T with
  | 0 =>
    let g := expFix (ln2Fix * i / 128)
    (romFx false (i == 0) (if i = 0 then one else g), romFx false false (g * ln2Fix / one), romFx false false (g * ln2Fix / one * ln2Fix / one / 2))
  | 1 =>
    let b := 128 + i
    (.div (.fin false 128 0) (.fin false b 0), .div (.fin true (128 * 128) 0) (.fin false (b * b) 0),
      .div (.fin false (128 * 128 * 128) 0) (.fin false (b * b * b) 0))
  | 2 =>
    let b := 128 + i
    let r := sqrtFix 128 b
    let r3 := sqrtFix (128 ^ 3) (b ^ 3)
    let r5 := sqrtFix (9 * 128 ^ 5) (b ^ 5)
    (romFx false r.2 r.1, (romFx true r3.2 r3.1).scale (-1), (romFx false r5.2 r5.1).scale (-3))
  | 3 =>
    let b := 2 * (128 + i)
    let r := sqrtFix 128 b
    let r3 := sqrtFix (128 ^ 3) (b ^ 3)
    let r5 := sqrtFix (9 * 128 ^ 5) (b ^ 5)
    (romFx false r.2 r.1, romFx true r3.2 r3.1, (romFx false r5.2 r5.1).scale (-1))
  | _ =>
    let b := 128 + i
    (romFx false (i == 0) (lnFix i * one / ln2Fix), romFx false false (128 * one * one / (b * ln2Fix)),
      (romFx true false (128 * 128 * one * one / (b * b * ln2Fix))).scale (-1))

/-- A ROM coefficient triple, each rounded once to FP32 (R229). -/
def romCoef (T i : Nat) : Fx × Fx × Fx :=
  let c := romExact T i
  (rnd c.1, rnd c.2.1, rnd c.2.2)

/-! ### Segment evaluation (R224, R229) -/

/-- A result with the corrected and uncorrectable table lookups it used (R230). -/
structure Ev where
  v : Fx
  ce : Nat
  ue : Nat
deriving DecidableEq, Repr

/-- Use a result in a further evaluation. -/
def Ev.bind (a : Ev) (f : Fx → Ev) : Ev :=
  let b := f a.v
  ⟨b.v, a.ce + b.ce, a.ue + b.ue⟩

/-- A result without lookups. -/
def Ev.of (x : Fx) : Ev := ⟨x, 0, 0⟩

/-- Where an SFU evaluation takes its coefficients from: the ROM, or a table bank of a tile. -/
structure SfuEnv where
  compat : Bool
  coef : Nat → Nat → (Fx × Fx × Fx) × Nat × Nat

/-- An 8-byte word of an SFU table bank, decoded (R230). -/
def State.sfuWord (s : State) (t bank T i w : Nat) : Decoded :=
  let k := memKey 5 t (0x40000 + bank * 0x8000 + T * 0x1000 + 16 * i + 8 * w)
  secDecode (List.zipWith (· ^^^ ·) (s.bytes k 8) (s.errBytes k 8)) (leNat (s.errBytes k 8))

/-- The coefficients of the bank that is active on tile `t` when an instruction issues (R230). -/
def State.tableEnv (s : State) (t : Nat) : SfuEnv :=
  let bank := s.rf (R.SFU_STAT t) F.SFU_STAT_ACTIVE
  ⟨false, fun T i =>
    let a := s.sfuWord t bank T i 0
    let b := s.sfuWord t bank T i 1
    ((f32 (leNat (a.data.take 4)), f32 (leNat (a.data.drop 4)), f32 (leNat (b.data.take 4))),
      a.fixed + b.fixed, a.ue.toNat + b.ue.toNat)⟩

/-- The coefficients of an instruction on tile `t`: the active bank's, or in compatible mode the ROM's (R229, R230). -/
def State.sfuEnv (s : State) (t : Nat) : SfuEnv :=
  if s.rb (R.SFU_CTL t) F.SFU_CTL_COMPAT then ⟨true, fun T i => (romCoef T i, 0, 0)⟩ else s.tableEnv t

/-- P_T at segment `i` and offset `d` (R224). -/
def SfuEnv.poly (e : SfuEnv) (T i : Nat) (d : Fx) : Ev :=
  let c := e.coef T i
  ⟨fma (fma c.1.2.2 d c.1.2.1) d c.1.1, c.2.1, c.2.2⟩

/-- P_0 at f in [0, 1), given as m × 2^x (R224, R229). -/
def SfuEnv.poly0 (e : SfuEnv) (f : Fx) : Ev :=
  let n := if e.compat then 7 else 8
  let i := (roundInt .rtz (-(n : Int)) f).toNat
  e.poly 0 i (f.sub (.fin false i (-(n : Int))))

/-- P_T at r = 1.frac (23 fraction bits) in [1, 2) (R224, R229). -/
def SfuEnv.poly1 (e : SfuEnv) (T frac : Nat) : Ev :=
  let n := if e.compat then 16 else 15
  e.poly T (frac / 2 ^ n) (.fin false (frac % 2 ^ n) (-23))

/-! ### The functions (R223, R225) -/

/-- An FP32 argument with a subnormal magnitude counts as zero of its sign (R223). -/
def flush (x : Fx) : Fx :=
  match x with
  | .fin n m e => if m = 0 ∨ (ilog2 m : Int) + e < -126 then .fin n 0 0 else x
  | y => y

/-- 1. -/
def fone : Fx := .fin false 1 0

/-- Exponent and 23 fraction bits of a normal FP32 magnitude: |x| = 2^e × 1.frac. -/
def expFrac : Fx → Int × Nat
  | .fin _ m e =>
    let k := ilog2 m
    ((k : Int) + e, (if k ≤ 23 then m * 2 ^ (23 - k) else m / 2 ^ (k - 23)) % 2 ^ 23)
  | _ => (0, 0)

/-- EXP (R225). Scaling beyond 2^±1000 gives the same results as at that bound. -/
def SfuEnv.exp (e : SfuEnv) (x : Fx) : Ev :=
  match flush x with
  | .nan => .of .nan
  | .inf n => .of (if n then .fin false 0 0 else .inf false)
  | .fin n m k =>
    if m = 0 then .of fone
    else
      let t := Fx.mul (.fin n m k) (.fin false 0xB8AA3B295C17F0BC (-63))
      let u := min t.unit 0
      let ti := t.toInt u
      let fl := ti.fdiv (2 ^ (-u).toNat : Nat)
      let frac : Fx := .fin false (ti.fmod (2 ^ (-u).toNat : Nat)).toNat u
      let f := f32 (fp32.convert .rtz frac).1
      (e.poly0 f).bind fun p => .of (rnd (p.scale (max (-1000) (min 1000 fl))))

/-- RCP (R225). -/
def SfuEnv.rcp (e : SfuEnv) (x : Fx) : Ev :=
  match flush x with
  | .nan => .of .nan
  | .inf n => .of (.fin n 0 0)
  | .fin n m k =>
    if m = 0 then .of (.inf n)
    else
      let ef := expFrac (.fin n m k)
      (e.poly1 1 ef.2).bind fun p =>
        let r := rnd (p.scale (-ef.1))
        .of (if n then r.negate else r)

/-- RSQRT (R225). -/
def SfuEnv.rsqrt (e : SfuEnv) (x : Fx) : Ev :=
  match flush x with
  | .nan => .of .nan
  | .inf n => .of (if n then .nan else .fin false 0 0)
  | .fin n m k =>
    if m = 0 then .of (.inf n)
    else if n then .of .nan
    else
      let ef := expFrac (.fin n m k)
      if ef.1 % 2 = 0 then (e.poly1 2 ef.2).bind fun p => .of (rnd (p.scale (-(ef.1 / 2))))
      else (e.poly1 3 ef.2).bind fun p => .of (rnd (p.scale (-((ef.1 - 1) / 2))))

/-- LOG2 (R225). -/
def SfuEnv.log2 (e : SfuEnv) (x : Fx) : Ev :=
  match flush x with
  | .nan => .of .nan
  | .inf n => .of (if n then .nan else .inf false)
  | .fin n m k =>
    if m = 0 then .of (.inf true)
    else if n then .of .nan
    else
      let ef := expFrac (.fin n m k)
      (e.poly1 4 ef.2).bind fun p => .of (rnd (.sum [.ofInt ef.1, p]))

/-- TANH (R225). -/
def SfuEnv.tanh (e : SfuEnv) (x : Fx) : Ev :=
  match flush x with
  | .nan => .of .nan
  | .inf n => .of (if n then fone.negate else fone)
  | .fin n m k =>
    let y : Fx := .fin n m k
    if m = 0 then .of y
    else if y.abs.lt (.fin false 1 (-12)) then .of y
    else
      (e.exp (rnd (.fin true (2 * m) k))).bind fun ex =>
        (e.rcp (rnd (fone.add ex))).bind fun q =>
          let r := rnd ((rnd (fone.sub ex)).mul q)
          .of (if n then r.negate else r)

/-- SILU (R225). -/
def SfuEnv.silu (e : SfuEnv) (x : Fx) : Ev :=
  match flush x with
  | .nan => .of .nan
  | .inf n => .of (if n then .fin true 0 0 else .inf false)
  | .fin n m k =>
    let y : Fx := .fin n m k
    if m = 0 then .of y
    else (e.exp y.negate).bind fun ex => (e.rcp (rnd (fone.add ex))).bind fun q => .of (rnd (y.mul q))

/-- GELU (R225). -/
def SfuEnv.gelu (e : SfuEnv) (x : Fx) : Ev :=
  match flush x with
  | .nan => .of .nan
  | .inf n => .of (if n then .fin true 0 0 else .inf false)
  | .fin n m k =>
    let y : Fx := .fin n m k
    if m = 0 then .of y
    else
      let z := rnd ((f32 0x3F4C422A).mul (rnd (y.mul (fma (f32 0x3D372713) (rnd (y.mul y)) fone))))
      (e.tanh z).bind fun t => .of (rnd ((rnd ((Fx.fin false 1 (-1)).mul y)).mul (rnd (fone.add t))))

/-- VSFU's FN (R223). -/
def SfuEnv.fn (e : SfuEnv) (f : Nat) (x : Fx) : Ev :=
  match f with
  | 0 => e.exp x
  | 1 => e.rcp x
  | 2 => e.rsqrt x
  | 3 => e.tanh x
  | 4 => e.silu x
  | _ => e.gelu x

/-- c(x, m): the contribution of x under a maximum m (R231). -/
def SfuEnv.contrib (e : SfuEnv) (x m : Fx) : Ev :=
  if x == .inf true then .of (.fin false 0 0)
  else if x.eqv m then .of fone
  else e.exp (rnd (x.sub m))

/-- LN(v) := rnd(LOG2(v) × 0x3F31_7218) (R238). -/
def SfuEnv.ln (e : SfuEnv) (v : Fx) : Ev := (e.log2 v).bind fun l => .of (rnd (l.mul (f32 0x3F317218)))

/-- What table lookups record (R230). -/
def noteSfu (t ce ue : Nat) : Tx := chain [
  when (decide (0 < ce)) (setF (R.SFU_STAT t) F.SFU_STAT_CE 1),
  when (decide (0 < ue)) (chain [setF (R.SFU_STAT t) F.SFU_STAT_UE 1, incF (R.SFU_STAT t) F.SFU_STAT_UE_COUNT ue])]

end Sys2Proof.Machine
end

