-- ==== Sys2Proof/Machine/VElem.lean ====
section
/-! DEFINITION. Results of the element-wise V instructions and of the rearrangements (spec/07, R211–R220, R232, R233; spec/08,
R257; spec/09, R261–R264). -/

namespace Sys2Proof.Machine

/-- What an instruction produces: writes (offset, bytes, write mode), whether any element saturated, flags, the grain words and
table lookups it used. -/
structure VRes where
  writes : List (Nat × List PByte × Nat) := []
  sat : Bool := false
  flags : List VFlag := []
  draws : List Draw := []
  ce : Nat := 0
  ue : Nat := 0
deriving DecidableEq, Repr

/-- Does the instruction draw a grain word for each element: stochastic rounding where a conversion rounds (R148, R208)? -/
def VOp.draws (o : VOp) : Bool :=
  match o.kind with
  | .grain => true
  | .pack | .unpack => o.a.rnd == 2
  | _ => o.a.rnd == 2 && !(floatFmt o.a.fmt && o.a.dfmt == 0) && !(intFmt o.a.fmt && intFmt o.a.dfmt)

/-- The grain word of each of `n` elements. -/
def State.vdraws (s : State) (o : VOp) (n : Nat) : List Draw :=
  (List.range n).map fun i => s.grainOf o.a.tile o.mode o.a.tid o.beat (o.col i) i

/-- The rounding mode of each of `n` elements and the poison of its grain word (R148, R248). -/
def VOp.rnds (o : VOp) (ds : List Draw) (n : Nat) : List (Rnd × Bool) :=
  if o.a.rnd = 2 then
    if ds.isEmpty then List.replicate n (.rne, false) else ds.map fun d => (.sr d.w, decide (0 < d.ue))
  else List.replicate n (if o.a.rnd = 1 then .rtz else .rne, false)

/-- A value converted to an element (R148–R150): a poisoned grain word poisons it where it uses bits of it (R248). -/
def convertEl (df : Nat) (r : Rnd × Bool) (x : Fx) (poison : Bool) : VEl :=
  let c := convertElem df r.1 x
  ⟨c.1, c.2, poison || (r.2 && cutsBits df x)⟩

/-- A float result as an element of DFMT: one of FP32 is not converted again (R211). One that VUNPACK reads above FP32's largest is
rounded to nearest even, to infinity, whatever RND (DESIGN CHOICE, log entry 67). -/
def fpResult (df : Nat) (r : Rnd × Bool) (x : Fx) (poison : Bool) : VEl :=
  if df = 0 then ⟨rne32 x, false, poison⟩ else convertEl df r x poison

/-- An exact integer result as an element of DFMT: wrapped, saturated, or converted (R212). -/
def intResult (df : Nat) (sat : Bool) (r : Rnd × Bool) (v : Int) (poison : Bool) : VEl :=
  if intFmt df then
    if sat then let c := toIntCode (elemBits df) 0 .rtz (.ofInt v); ⟨c.1, c.2, poison⟩
    else ⟨wrapInt (elemBits df) v, false, poison⟩
  else convertEl df r (.ofInt v) poison

/-- The larger of two floats: NaN if either is, −0 below +0 (R211). -/
def fmax (a b : Fx) : Fx :=
  if a.isNan || b.isNan then .nan
  else if a.lt b then b else if b.lt a then a else if a.neg? then b else a

/-- The smaller of two floats. -/
def fmin (a b : Fx) : Fx :=
  if a.isNan || b.isNan then .nan
  else if a.lt b then a else if b.lt a then b else if a.neg? then a else b

/-- A relation of VCMP on floats; NaN is unordered (R214). -/
def fcmp (rel : Nat) (a b : Fx) : Bool :=
  match rel % 4 with
  | 0 => a.eqv b
  | 1 => !a.eqv b
  | 2 => a.lt b
  | _ => !a.isNan && !b.isNan && !a.lt b

/-- A relation of VCMP on integers. -/
def icmp (rel : Nat) (a b : Int) : Bool :=
  match rel % 4 with
  | 0 => a == b
  | 1 => a != b
  | 2 => decide (a < b)
  | _ => decide (b ≤ a)

/-- The float operation on widened sources, an FP32 value with one RNE rounding (R211, R214). -/
def fop (k : VKind) (xf : Nat) (a b c : Fx) : Fx :=
  match k with
  | .add => rnd (a.add b)
  | .sub => rnd (a.sub b)
  | .mul => rnd (a.mul b)
  | .fma => fma a b c
  | .max => rnd (fmax a b)
  | .min => rnd (fmin a b)
  | .cmp => rnd (if fcmp xf a b then fone else .fin false 0 0)
  | .sel => rnd (if c.isZero then b else a)
  | _ => rnd a

/-- The exact integer operation (R212, R214). -/
def iop (k : VKind) (xf : Nat) (a b c : Int) : Int :=
  match k with
  | .add => a + b
  | .sub => a - b
  | .mul => a * b
  | .fma => a * b + c
  | .max => max a b
  | .min => min a b
  | .cmp => if icmp xf a b then 1 else 0
  | .sel => if c = 0 then b else a
  | _ => a

/-- A bitwise operation (R213). -/
def bop (k : VKind) (a b : Nat) : Nat :=
  match k with
  | .and => a &&& b
  | .or => a ||| b
  | _ => a ^^^ b

/-- A shift of an integer element of `w` bits by the low 6 bits of b (R213). -/
def shiftResult (k : VKind) (w xf : Nat) (sat : Bool) (a b : Nat) (poison : Bool) : VEl :=
  let n := b % 64
  match k with
  | .shl =>
    let v := signed w a * (2 ^ n : Nat)
    if sat then let c := toIntCode w 0 .rtz (.ofInt v); ⟨c.1, c.2, poison⟩ else ⟨wrapInt w v, false, poison⟩
  | _ => ⟨if xf % 2 = 1 then wrapInt w (signed w a / (2 ^ n : Nat)) else a % 2 ^ w / 2 ^ n, false, poison⟩

/-- One element of an arithmetic instruction. -/
def arithEl (o : VOp) (r : Rnd × Bool) (a b c : Nat × Bool) (poison : Bool) : VEl :=
  let f := o.a.fmt
  if floatFmt f then
    fpResult o.a.dfmt r (fop o.kind o.a.xf (decodeElem f a.1) (decodeElem f b.1) (decodeElem f c.1)) poison
  else
    let w := elemBits f
    intResult o.a.dfmt o.a.sat r (iop o.kind o.a.xf (signed w a.1) (signed w b.1) (signed w c.1)) poison

/-- One element of VCVT (R216): converted under R148 to R150, saturating. -/
def cvtEl (o : VOp) (r : Rnd × Bool) (a : Nat × Bool) : VEl :=
  convertEl o.a.dfmt r (decodeElem o.a.fmt a.1) a.2

/-- The three operands' elements side by side; missing operands are zeros. -/
def zip3 (a b c : List (Nat × Bool)) : List ((Nat × Bool) × (Nat × Bool) × (Nat × Bool)) :=
  a.zipIdx.map fun x => (x.1, b.getD x.2 (0, false), c.getD x.2 (0, false))

/-- Result elements written to DST. -/
def VOp.emit (o : VOp) (es : List VEl) (ds : List Draw) : VRes :=
  { writes := [(o.dOff, velBytes o.a.dfmt es, o.a.wm)], sat := es.any (·.sat), draws := ds }

/-- VADD to VSEL, VCVT: element by element (R211, R212, R214, R216). -/
def State.arithRes (s : State) (o : VOp) : VRes :=
  let ds := if o.draws then s.vdraws o o.vl else []
  let rs := o.rnds ds o.vl
  let a := s.va o
  if o.kind == .cvt then o.emit (List.zipWith (fun r x => cvtEl o r x) rs a) ds
  else
    let b := s.vb o o.a.fmt
    let c := if o.cLen = 0 then [] else s.vc o
    o.emit (List.zipWith (fun r x => arithEl o r x.1 x.2.1 x.2.2 (x.1.2 || x.2.1.2 || x.2.2.2)) rs (zip3 a b c)) ds

/-- VAND, VOR, VXOR, VSHL, VSHR (R213). -/
def State.bitRes (s : State) (o : VOp) : VRes :=
  let w := elemBits o.a.fmt
  o.emit (List.zipWith (fun a b => match o.kind with
    | .shl | .shr => shiftResult o.kind w o.a.xf o.a.sat a.1 b.1 (a.2 || b.2)
    | _ => ⟨bop o.kind a.1 b.1, false, a.2 || b.2⟩) (s.va o) (s.vb o o.a.fmt)) []

/-! ### Rearrangement -/

/-- An element copied as bits. -/
def copyEl (x : Nat × Bool) : VEl := ⟨x.1, false, x.2⟩

/-- VPERM (R217): an element computed from a poisoned index is poisoned (R127). -/
def State.permRes (s : State) (o : VOp) : VRes :=
  let a := s.va o
  let ix := s.vb o 15
  let out := ix.map fun i => match a[i.1]? with
    | some x => (⟨x.1, false, x.2 || i.2⟩ : VEl)
    | none => ⟨0, false, i.2⟩
  { o.emit out [] with flags := if ix.any (fun i => decide (o.vl ≤ i.1)) then [.permRange] else [] }

/-- The source of VSHUF's output element `n`: operand B?, element (R218). -/
def shufSrc (pat vl n : Nat) : Bool × Nat :=
  match pat with
  | 0 => (n % 2 == 1, n / 2)
  | 1 => let h := (vl + 1) / 2
    (false, if n < h then 2 * n else 2 * (n - h) + 1)
  | 2 => if n / 128 * 128 + 128 ≤ vl then (false, n / 128 * 128 + 16 * (n % 8) + n % 128 / 8) else (false, n)
  | _ => (false, vl - 1 - n)

/-- VSHUF (R218). -/
def State.shufRes (s : State) (o : VOp) : VRes :=
  let a := s.va o
  let b := if o.a.xf = 0 then s.vb o o.a.fmt else []
  o.emit ((List.range o.vl).map fun n =>
    let x := shufSrc o.a.xf o.vl n
    copyEl ((if x.1 then b else a).getD x.2 (0, false))) []

/-- VPATCH (R219). -/
def State.patchRes (s : State) (o : VOp) (w cm1 pm1 : Nat) : VRes :=
  let b := laneBytes o.a.fmt
  o.emit ((List.range o.vl).map fun n =>
    copyEl ((s.velems o.aSp o.a.tile (o.aOff + patchSrc w cm1 pm1 n * b) o.a.fmt 1).headD (0, false))) []

/-! ### Packing (R220) -/

/-- A block of at most 32 elements as MX elements and their scale. A poisoned source element poisons the scale and what it scales, a
poisoned grain word its own element where it uses bits of it (R127, R144, R220, R248). -/
def packBlock (f : Nat) (xs : List ((Nat × Bool) × Rnd × Bool)) (src : Nat) : VEl × List VEl :=
  let p := xs.any (·.1.2)
  let e := mxEncode f (xs.map fun x => (decodeElem src x.1.1, x.2.1))
  (⟨e.1, false, p⟩, List.zipWith (fun c x =>
    ⟨c.1, c.2, p || (x.2.2 && e.1 != 255 && cutsBits f ((decodeElem src x.1.1).scale (127 - (e.1 : Int))))⟩) e.2 xs)

/-- VPACK with LAY 0. -/
def State.packRes0 (s : State) (o : VOp) : VRes :=
  let ds := if o.draws then s.vdraws o o.vl else []
  let xs := (s.va o).zip (o.rnds ds o.vl)
  let w := elemBits o.a.dfmt
  if mxFmt o.a.dfmt then
    let bl := (pieces 32 xs).map fun b => packBlock o.a.dfmt b o.a.fmt
    let es := bl.flatMap (·.2)
    { writes := [(o.dOff, packSpan w es, o.a.wm), (o.cOff, bl.map fun b => (BitVec.ofNat 8 b.1.code, b.1.poison), 0)]
      sat := es.any (·.sat), draws := ds }
  else
    let es := xs.map fun x => convertEl o.a.dfmt x.2 (decodeElem o.a.fmt x.1.1) x.1.2
    { writes := [(o.dOff, packSpan w es, o.a.wm)], sat := es.any (·.sat), draws := ds }

/-- A group of 32 positions of 16 columns as the scale line and four beats of an MX activation image (R171, R220). -/
def packGroup (f src : Nat) (cols : List (List ((Nat × Bool) × Rnd × Bool))) : List PByte × Bool :=
  let bl := cols.map fun c => packBlock f c src
  (bl.map (fun b => (BitVec.ofNat 8 b.1.code, b.1.poison)) ++ List.replicate 48 (0, false) ++
    (List.range 4).flatMap (fun i => bl.flatMap fun b => ((b.2.drop (8 * i)).take 8).map fun e => (BitVec.ofNat 8 e.code, e.poison)),
    bl.any fun b => b.2.any (·.sat))

/-- VPACK with LAY 1: 16 columns of VL / 16 elements as an activation image. -/
def State.packRes1 (s : State) (o : VOp) : VRes :=
  let df := o.a.dfmt
  let m := if mxFmt df then 512 else 128
  if o.vl % m != 0 then { flags := [.vlRange] }
  else
    let ds := if o.draws then s.vdraws o o.vl else []
    let k := o.vl / 16
    let cols := pieces k ((s.va o).zip (o.rnds ds o.vl))
    if mxFmt df then
      let gs := (List.range (k / 32)).map fun g => packGroup df o.a.fmt (cols.map fun c => (c.drop (32 * g)).take 32)
      { writes := [(o.dOff, gs.flatMap (·.1), o.a.wm)], sat := gs.any (·.2), draws := ds }
    else
      let n := beatLen df
      let es := (List.range (k / n)).flatMap fun i => cols.flatMap fun c => ((c.drop (n * i)).take n).map fun x =>
        convertEl df x.2 (decodeElem o.a.fmt x.1.1) x.1.2
      o.emit es ds

/-- VUNPACK (R220). -/
def State.unpackRes (s : State) (o : VOp) : VRes :=
  let ds := if o.draws && o.a.dfmt != 0 then s.vdraws o o.vl else []
  let f := o.a.fmt
  let es := unpackSpan (elemBits f) o.vl (s.rd o.aSp o.a.tile o.aOff o.aLen)
  let sc := if mxFmt f then s.rd 0 o.a.tile o.cOff o.cLen else []
  o.emit (List.zipWith (fun r (x : (Nat × Bool) × Nat) =>
    if mxFmt f then
      let e := sc.getD (x.2 / 32) (0, false)
      fpResult o.a.dfmt r (mxValue f e.1.toNat x.1.1) (x.1.2 || e.2)
    else fpResult o.a.dfmt r (decodeElem f x.1.1) x.1.2) (o.rnds ds o.vl) es.zipIdx) ds

/-! ### Special functions, SMX2, VGRAIN, TMASK -/

/-- Are all evaluator banks of the tile held out (R228)? -/
def State.allHeld (s : State) (t : Nat) : Bool := s.rf (R.SFU_STAT t) F.SFU_STAT_HELD == 0xFFFF

/-- An SFU result, an FP32 value, as an element (R223). -/
def evEl (o : VOp) (held : Bool) (r : Rnd × Bool) (e : Ev) (poison : Bool) : VEl :=
  fpResult o.a.dfmt r (rnd e.v) (poison || held || decide (0 < e.ue))

/-- Total lookups of a list of results. -/
def evCe (es : List Ev) : Nat := es.foldl (fun a e => a + e.ce) 0
def evUe (es : List Ev) : Nat := es.foldl (fun a e => a + e.ue) 0

/-- VSFU (R223). -/
def State.sfuRes (s : State) (o : VOp) : VRes :=
  let ds := if o.draws then s.vdraws o o.vl else []
  let env := s.sfuEnv o.a.tile
  let a := s.va o
  let ev := a.map fun x => env.fn o.a.xf (decodeElem o.a.fmt x.1)
  { o.emit (List.zipWith (fun r (x : (Nat × Bool) × Ev) => evEl o (s.allHeld o.a.tile) r x.2 x.1.2) (o.rnds ds o.vl) (a.zip ev)) ds with
    ce := evCe ev, ue := evUe ev }

/-- SMX2 (R232, R233); compatible mode changes its EXP but not its RCP (R229). A poisoned element of the row, or a poisoned pair, poisons the whole output (R127). -/
def State.smx2Res (s : State) (o : VOp) : VRes :=
  let ds := if o.draws then s.vdraws o o.vl else []
  let env := s.sfuEnv o.a.tile
  let pr := s.rd 0 o.a.tile o.bOff 8
  let m := f32 (pNat (pr.take 4))
  let sm := f32 (pNat (pr.drop 4))
  let a := s.va o
  let pois := ppoison pr || a.any (·.2)
  let nan := m.isNan || sm.isNan
  let empty := !nan && m == .inf true
  let rho := if nan || empty then Ev.of .nan else (s.tableEnv o.a.tile).rcp sm
  let ev := a.map fun x =>
    if nan then Ev.of .nan
    else if empty then Ev.of (.fin false 0 0)
    else (env.contrib (decodeElem o.a.fmt x.1) m).bind fun c => Ev.of (rnd (c.mul rho.v))
  let ue := evUe ev + rho.ue
  let bad := pois || decide (0 < rho.ue)
  { o.emit (List.zipWith (fun r x => evEl o (s.allHeld o.a.tile) r x bad) (o.rnds ds o.vl) ev) ds with
    ce := evCe ev + rho.ce, ue := ue, flags := if empty then [.rowEmpty] else [] }

/-- VGRAIN (R257). -/
def State.grainRes (s : State) (o : VOp) : VRes :=
  let ds := s.vdraws o o.vl
  o.emit (ds.map fun d => ⟨d.w, false, decide (0 < d.ue)⟩) ds

/-- The parent vector after R262: for each candidate its parent, and whether an entry was out of range. -/
def parents (nc : Nat) (bs : List Byte) : List (Option Nat) × Bool :=
  let es := (bs.take nc).zipIdx.map fun b =>
    if b.1 = 0xFF then (none, false) else if b.1.toNat < b.2 then (some b.1.toNat, false) else (none, true)
  (es.map (·.1), es.any (·.2))

/-- The chain of a candidate: itself and its ancestors (R263). -/
def ancestry (ps : List (Option Nat)) : Nat → Nat → List Nat
  | 0, i => [i]
  | n + 1, i => match ps.getD i none with
    | some p => i :: ancestry ps n p
    | none => [i]

/-- TMASK (R261–R266). -/
def State.tmaskRes (s : State) (o : VOp) : VRes :=
  let nc := o.a.xf / 4 % 16 + 1
  let bs := s.rd 0 o.a.tile o.bOff 16
  let ps := parents nc (pdata bs)
  let pois := ppoison bs
  let el (i j : Nat) : VEl :=
    let vis := decide (i < nc) && decide (j < nc) && (ancestry ps.1 16 i).contains j
    if floatFmt o.a.dfmt then ⟨(convertElem o.a.dfmt .rne (if vis then .fin false 0 0 else .inf true)).1, false, pois⟩
    else ⟨vis.toNat, false, pois⟩
  let es := if o.a.xf % 4 = 0 then (List.range 256).map fun n => el (n / 16) (n % 16)
    else (List.range 16).map fun i => ⟨if i < nc then (ancestry ps.1 16 i).length - 1 else 0, false, pois⟩
  { o.emit es [] with flags := if ps.2 then [.parentRange] else [] }

end Sys2Proof.Machine
end

