-- ==== Sys2Proof/Machine/VRows.lean ====
section
/-! DEFINITION. Results of the row operations of the V stream: VRED, SMX1, ROWSTAT, SAMPLE (spec/07, R221–R239). -/

namespace Sys2Proof.Machine

/-- Lane `l`'s elements of a row, ascending (R200, R221). -/
def laneOf {α : Type} (beats : List (List α)) (l : Nat) : List α := beats.filterMap fun b => b[l]?

/-- One level of the merge tree: neighbours merge, the lower side first (R221). -/
def mergeLevel {α : Type} (m : α → α → α) : List α → List α
  | a :: b :: xs => m a b :: mergeLevel m xs
  | xs => xs

/-- The tree of seven levels over 128 lanes (R221). -/
def mergeTree {α : Type} (m : α → α → α) (lanes : List α) : List α := (List.range 7).foldl (fun l _ => mergeLevel m l) lanes

/-- Merge sides of which either may be empty (R222). -/
def mergeOpt {α : Type} (m : α → α → α) : Option α → Option α → Option α
  | some a, some b => some (m a b)
  | some a, none => some a
  | none, b => b

/-- Reduce a row: each lane starts from its first element, then the tree (R221, R222). -/
def reduceRow {α : Type} (f : α → α → α) (xs : List α) : Option α :=
  let beats := pieces 128 xs
  let lanes := (List.range 128).map fun l => match laneOf beats l with
    | [] => none
    | y :: ys => some (ys.foldl f y)
  match mergeTree (mergeOpt f) lanes with
  | r :: _ => r
  | [] => none

/-- The record of a row operation at DST. -/
def VOp.recordRes (o : VOp) (bytes : List Byte) (poison : Bool) : VRes :=
  { writes := [(o.dOff, bytes.map (·, poison), o.a.wm)] }

/-! ### VRED (R222) -/

/-- Does element `b` replace `a` as the largest: NaN above every number, −0 below +0 (R222)? -/
def argGt (a b : Fx) : Bool :=
  if a.isNan then false
  else if b.isNan then true
  else a.lt b || (a.isZero && b.isZero && a.neg? && !b.neg?)

/-- The index of the largest element, the lowest index winning a tie. -/
def argMerge (a b : Fx × Nat) : Fx × Nat :=
  if argGt a.1 b.1 then b else if argGt b.1 a.1 then a else if a.2 ≤ b.2 then a else b

/-- VRED. -/
def State.redRes (s : State) (o : VOp) : VRes :=
  let a := s.va o
  let f := o.a.fmt
  let pois := a.any (·.2)
  let rop := o.a.xf % 4
  if rop = 3 then
    match reduceRow argMerge ((a.map fun x => decodeElem f x.1).zipIdx) with
    | some r => o.recordRes (leBytes 4 r.2) pois
    | none => {}
  else if floatFmt f then
    let op := if rop = 0 then (fun a b => rnd (Fx.add a b)) else if rop = 1 then fmax else fmin
    match reduceRow op (a.map fun x => decodeElem f x.1) with
    | some r => o.recordRes (leBytes 4 (rne32 r)) pois
    | none => {}
  else
    let op : Int → Int → Int := if rop = 0 then (· + ·) else if rop = 1 then max else min
    match reduceRow op (a.map fun x => signed (elemBits f) x.1) with
    | some v =>
      let e := intResult 15 o.a.sat (.rne, false) v pois
      { o.recordRes (leBytes 4 e.code) pois with sat := e.sat }
    | none => {}

/-! ### SMX1 (R231) -/

/-- A soft-maximum pair, whether a NaN was met, and the table lookups so far. -/
structure SmxS where
  m : Fx
  s : Fx
  nan : Bool
  ce : Nat
  ue : Nat
deriving DecidableEq, Repr

/-- An empty lane. -/
def smx0 : SmxS := ⟨.inf true, .fin false 0 0, false, 0, 0⟩

/-- One element of a lane. -/
def smxStep (env : SfuEnv) (l : SmxS) (x : Fx) : SmxS :=
  if x.isNan then { l with nan := true }
  else if l.m.lt x then
    let c := env.contrib l.m x
    { l with m := x, s := fma l.s c.v fone, ce := l.ce + c.ce, ue := l.ue + c.ue }
  else
    let c := env.contrib x l.m
    { l with s := rnd (l.s.add c.v), ce := l.ce + c.ce, ue := l.ue + c.ue }

/-- Merge two pairs, the first from the lower side. -/
def smxMerge (env : SfuEnv) (a b : SmxS) : SmxS :=
  if a.nan || b.nan || a.m.isNan || a.s.isNan || b.m.isNan || b.s.isNan then
    ⟨.nan, .nan, true, a.ce + b.ce, a.ue + b.ue⟩
  else if a.m.lt b.m then
    let c := env.contrib a.m b.m
    ⟨b.m, fma a.s c.v b.s, false, a.ce + b.ce + c.ce, a.ue + b.ue + c.ue⟩
  else
    let c := env.contrib b.m a.m
    ⟨a.m, fma b.s c.v a.s, false, a.ce + b.ce + c.ce, a.ue + b.ue + c.ue⟩

/-- SMX1, with ACC the pair stored at DST as the lower side. -/
def State.smx1Res (s : State) (o : VOp) : VRes :=
  let env := s.sfuEnv o.a.tile
  let a := s.va o
  let beats := pieces 128 (a.map fun x => decodeElem o.a.fmt x.1)
  let lanes := (List.range 128).map fun l => (laneOf beats l).foldl (smxStep env) smx0
  let row := (mergeTree (smxMerge env) lanes).headD smx0
  let pr := s.rd 0 o.a.tile o.dOff 8
  let r := if o.a.xf % 2 = 1 then smxMerge env ⟨f32 (pNat (pr.take 4)), f32 (pNat (pr.drop 4)), false, 0, 0⟩ row else row
  let pois := a.any (·.2) || (o.a.xf % 2 == 1 && ppoison pr) || decide (0 < r.ue) || s.allHeld o.a.tile
  { o.recordRes (leBytes 4 (if r.nan then nan32 else rne32 r.m) ++ leBytes 4 (if r.nan then nan32 else rne32 r.s)) pois with
    ce := r.ce, ue := r.ue }

/-! ### ROWSTAT (R234–R236) -/

/-- A lane's or side's count, mean and sum of squared differences. -/
structure StatS where
  n : Nat
  mu : Fx
  q : Fx
deriving DecidableEq, Repr

def stat0 : StatS := ⟨0, .fin false 0 0, .fin false 0 0⟩

/-- A natural number as a value. -/
def Fx.ofNat (n : Nat) : Fx := .fin false n 0

/-- One element of a lane (R234). -/
def statStep (l : StatS) (x : Fx) : StatS :=
  let n := l.n + 1
  let d := rnd24 (x.sub l.mu)
  let mu := rnd24 (l.mu.add (rnd24 (d.div (.ofNat n))))
  let d2 := rnd24 (x.sub mu)
  ⟨n, mu, rnd24 (l.q.add (rnd24 (d.abs.mul d2.abs)))⟩

/-- Merge two sides, the first the lower (R234). -/
def statMerge (a b : StatS) : StatS :=
  if a.n = 0 then b
  else if b.n = 0 then a
  else
    let n := a.n + b.n
    let d := rnd24 (b.mu.sub a.mu)
    let mu := rnd24 (a.mu.add (rnd24 (d.mul (rnd24 ((Fx.ofNat b.n).div (.ofNat n))))))
    let w := rnd24 ((rnd24 (.ofNat (a.n * b.n))).div (.ofNat n))
    let t := rnd24 ((rnd24 (d.abs.mul d.abs)).mul w)
    ⟨n, mu, rnd24 ((rnd24 (a.q.add b.q)).add t)⟩

/-- ROWSTAT. -/
def State.rowstatRes (s : State) (o : VOp) : VRes :=
  let a := s.va o
  let xs := a.map fun x => decodeElem o.a.fmt x.1
  let pois := a.any (·.2)
  if xs.any (fun x => !x.isFin) then o.recordRes (leBytes 4 nan32 ++ leBytes 4 nan32) pois
  else
    let beats := pieces 128 xs
    let lanes := (List.range 128).map fun l => (laneOf beats l).foldl statStep stat0
    let r := (mergeTree statMerge lanes).headD stat0
    let v := rnd24 (r.q.div (.ofNat r.n))
    o.recordRes (leBytes 4 (rne32 r.mu) ++ leBytes 4 (rne32 (if v.isZero then .fin false 0 0 else v))) pois

/-! ### SAMPLE (R237–R239) -/

/-- Insert a candidate in descending order, ties lowest index first. -/
def candInsert (x : Fx × Nat) : List (Fx × Nat) → List (Fx × Nat)
  | [] => [x]
  | y :: ys => if y.1.lt x.1 then x :: y :: ys else y :: candInsert x ys

/-- K′ (R238). -/
def sampleK (topk vl : Nat) (topp : Fx) : Nat :=
  if topk = 0 then (if !topp.isNan && !topp.lt fone then vl else min 1024 vl) else min topk (min 1024 vl)

/-- Number of candidates kept under TOPP: the shortest prefix whose running sum reaches the target; all if none does. -/
def keptPrefix (target : Fx) : Nat → Fx → List Fx → Nat
  | n, _, [] => n
  | n, acc, p :: ps =>
    let sm := if n = 0 then p else rnd (acc.add p)
    if target.lt sm || target.eqv sm then n + 1 else keptPrefix target (n + 1) sm ps

/-- Gumbel noise of a grain word (R238). -/
def gumbel (env : SfuEnv) (w : Nat) : Ev :=
  (env.ln (.fin false (2 * (w / 512) + 1) (-24))).bind fun l => (env.ln l.negate).bind fun g => Ev.of g.negate

/-- The record of SAMPLE: INDEX, element, CAND, FLAGS (R237). -/
def sampleRecord (idx elem cand flags : Nat) : List Byte := leBytes 4 idx ++ leBytes 4 elem ++ leBytes 4 cand ++ leBytes 4 flags

/-- The parameter block at SRCB: TAU, TOPP, TOPK, ROWID (R237). -/
def State.sampleParams (s : State) (o : VOp) : Fx × Fx × Nat × Nat :=
  let b := pdata (s.rd 0 o.a.tile o.bOff 16)
  (f32 (leNat (b.take 4)), f32 (leNat ((b.drop 4).take 4)), leNat ((b.drop 8).take 4), leNat ((b.drop 12).take 4))

/-- The larger key, ties lowest index. -/
def keyMax (a b : Fx × Nat) : Fx × Nat := if a.1.lt b.1 then b else if b.1.lt a.1 then a else if a.2 ≤ b.2 then a else b

/-- SAMPLE. -/
def State.sampleRes (s : State) (o : VOp) : VRes :=
  let t := o.a.tile
  let env := s.sfuEnv t
  let p := s.sampleParams o
  let a := s.va o
  let xs := a.map fun x => decodeElem o.a.fmt x.1
  let pois := a.any (·.2) || ppoison (s.rd 0 t o.bOff 16) || s.allHeld t
  let nanRec := sampleRecord 0xFFFFFFFF nan32 0 2
  if xs.any Fx.isNan then { o.recordRes nanRec pois with flags := [.sampleNan] }
  else
    let k := sampleK p.2.2.1 o.vl p.2.1
    let clamp : List VFlag :=
      if decide (1024 < p.2.2.1) || (p.2.2.1 == 0 && p.2.1.lt fone && decide (1024 < o.vl)) then [.sampleClamp] else []
    let cands := (xs.zipIdx.foldl (fun l x => candInsert x l) []).take k
    let first := cands.headD (.nan, 0)
    let elem (i : Nat) := rne32 (xs.getD i .nan)
    if cands.all (fun c => c.1 == .inf true) then
      let i := cands.foldl (fun m c => min m c.2) o.vl
      { o.recordRes (sampleRecord i (elem i) k 4) pois with flags := .rowEmpty :: clamp }
    else if !(Fx.lt (.fin false 0 0) p.1) then { o.recordRes (sampleRecord first.2 (elem first.2) k 1) pois with flags := clamp }
    else
      let zs := cands.map fun c => (rnd (c.1.div p.1), c.2)
      if zs.any (fun z => z.1.isNan) then { o.recordRes nanRec pois with flags := .sampleNan :: clamp }
      else
        let z0 := (zs.headD (.nan, 0)).1
        let ps := if p.2.1.lt fone then zs.map fun z => env.contrib z.1 z0 else []
        let kept := if p.2.1.lt fone then
            let sm := (ps.map (·.v)).foldl (fun (acc : Option Fx) q => some (match acc with | none => q | some b => rnd (b.add q))) none
            zs.take (keptPrefix (rnd (p.2.1.mul (sm.getD (.fin false 0 0)))) 0 (.fin false 0 0) (ps.map (·.v)))
          else zs
        let ds := kept.map fun z => let q := elemKeys o.a.tid p.2.2.2 z.2; s.grain t q.1 q.2
        let gs := ds.map fun d => gumbel env d.w
        let keys := List.zipWith (fun (z : Fx × Nat) g => (rnd (z.1.add g.v), z.2)) kept gs
        let best := match keys with | [] => first | q :: qs => qs.foldl keyMax q
        let ue := evUe ps + evUe gs
        let dirty := pois || decide (0 < ue) || ds.any (fun d => decide (0 < d.ue))
        { o.recordRes (sampleRecord best.2 (elem best.2) kept.length 0) dirty with
          flags := clamp, draws := ds, ce := evCe ps + evCe gs, ue := ue }

end Sys2Proof.Machine
end

