-- ==== Sys2Proof/Machine/Vector.lean ====
section
/-! DEFINITION. The V stream (spec/07): issue of its instructions, and what runs once their granules are there. -/

namespace Sys2Proof.Machine

/-- The results of an instruction from its operands as they stand. -/
def State.vres (s : State) (o : VOp) : VRes :=
  match o.kind with
  | .add | .sub | .mul | .fma | .max | .min | .cmp | .sel | .cvt => s.arithRes o
  | .and | .or | .xor | .shl | .shr => s.bitRes o
  | .pack => if o.a.xf = 0 then s.packRes0 o else s.packRes1 o
  | .unpack => s.unpackRes o
  | .perm => s.permRes o
  | .shuf => s.shufRes o
  | .patch w c p => s.patchRes o w c p
  | .red => s.redRes o
  | .sfu => s.sfuRes o
  | .smx1 => s.smx1Res o
  | .smx2 => s.smx2Res o
  | .rowstat => s.rowstatRes o
  | .sample => s.sampleRes o
  | .tmask => s.tmaskRes o
  | .grain => s.grainRes o

/-- Is the tile's SFU in degraded service (R228)? -/
def State.degraded (s : State) (t : Nat) : Bool := s.rb (R.SFU_STAT t) F.SFU_STAT_DEGRADED

/-- K′ of a SAMPLE, for its occupancy. -/
def State.vkk (s : State) (o : VOp) : Nat :=
  if o.kind == .sample then let p := s.sampleParams o; sampleK p.2.2.1 o.vl p.2.1 else 0

/-- Does a V instruction draw grain in element-keyed mode (R255)? -/
def VOp.keyed (o : VOp) : Bool := o.draws && o.mode == 1 && !(o.kind == .unpack && o.a.dfmt == 0)

/-- Cycles per beat, the distance to a beat's result, and the cycles the lanes stay held, at the service level that the tile has as the
command that grants the beats acts (DESIGN CHOICE, log entry 67). -/
def State.vpace (s : State) (o : VOp) : Nat × Nat × Nat :=
  let dg := s.degraded o.a.tile
  let k := o.beatCycles dg
  (k, o.timing k (s.vkk o) dg o.keyed)

/-- The grants of the beats that can run now (R204, R210). -/
def State.vgrants (s : State) (o : VOp) : List (Nat × List Grant) :=
  let p := s.vpace o
  let lo := if o.next = 0 then max (o.cyc + 1) (s.tile o.a.tile).v.engine else o.last + p.1
  s.beatsAt o p.1 p.2.1 (o.beats - o.next) o.next lo

/-- The lines that the beats granted from beat `o.next` on read, each as its first such read sees it (R205); where all have been
granted, only those that differ from the memory now. -/
def State.vseen (s : State) (o : VOp) (gs : List (Nat × List Grant)) : List LineS :=
  let t := o.a.tile
  let olds := (s.tile t).olds
  let all := decide (o.next + gs.length = o.beats)
  (gs.zipIdx.flatMap fun g => (s.vlines t (o.parts (o.next + g.2))).filterMap fun l =>
    match olds.find? fun x => x.sp == l.1 && x.off == l.2 && decide (g.1.1 < x.cyc) with
    | some x => some x
    | none => if all then none else some (s.lineNow l.1 t l.2 0)) ++
  (if !all then [] else
    let last := (gs.getLast?.elim o.last (·.1)) + (s.vpace o).2.1
    (s.vlines t o.accRead).filterMap fun l => olds.find? fun x => x.sp == l.1 && x.off == l.2 && decide (last < x.cyc + 6))

/-- What the reads of beat `i`, granted in cycle `g`, bring about: bank grants, decoded lines, granules read for the last time become
empty four cycles later (R114, R117, R204). -/
def beatReads (o : VOp) (i k lead : Nat) (g : Nat × List Grant) : Tx := fun s =>
  let t := o.a.tile
  let before := if i = 0 then [] else s.vlines t (o.parts (i - 1))
  let later := consumedOf (o.rest (i + 1))
  chain [
    noteWaits t g.2,
    forEach (s.beatGrants o i k lead) (fun r => takeGrant t (r.after g.1)),
    forEach ((s.vlines t (o.parts i)).filter fun l => !before.contains l) (fun l =>
      if l.1 = 1 then noteTierLine t l.2 g.1 else noteSpdLine true t l.2),
    forEach ((consumedOf (o.parts i)).filter fun x => !later.contains x) fun x => emptyFrom t x (g.1 + 4)] s

/-- Beat `i` writes its results, readable in cycle `c`; a granule becomes full with its last byte (R55, R204, R210). -/
def beatWrites (o : VOp) (i c : Nat) (ws : List (Nat × List PByte × Nat)) : Tx :=
  forEach ws.zipIdx fun w =>
    let x := if w.2 = 0 then o.cut i w.1.2.1.length else VOp.scaleCut i w.1.2.1.length
    let off := w.1.1 + x.1
    let later := granulesOf (off + x.2) (w.1.2.1.length - x.1 - x.2)
    chain [
      wr 0 o.a.tile off ((w.1.2.1.drop x.1).take x.2) c,
      when (w.1.2.2 != 0) (forEach ((granulesOf off x.2).filter fun g => !later.contains g) fun g =>
        chain [setFull o.a.tile g true, noteAvail o.a.tile (256 * g) 256 c])]

/-- The beats of the tile's first waiting instruction that have their granules run: their reads, their results; with the last beat the
instruction is over (R203–R205, R210, R215). -/
def runVop (o : VOp) (rest : List VOp) (gs : List (Nat × List Grant)) : Tx := fun s =>
  let t := o.a.tile
  let p := s.vpace o
  let got := o.got ++ s.vseen o gs
  let r := (s.withLines t got).vres o
  let last := gs.getLast?.elim o.last (·.1)
  let all := decide (o.next + gs.length = o.beats)
  chain [
    forEach gs.zipIdx fun g => beatReads o (o.next + g.2) p.1 p.2.1 g.1,
    forEach gs.zipIdx fun g => beatWrites o (o.next + g.2) (g.1.1 + p.2.1) r.writes,
    if all then chain [
      forEach (s.vlines t o.accRead) fun l => noteSpdLine true t l.2,
      when r.sat (noteSat t),
      forEach r.flags fun f => noteFlag t f,
      noteDraws t r.draws,
      noteSfu t r.ce r.ue,
      modStream t 3 fun x => { x with engine := last + p.1 + p.2.2, xdone := max x.xdone (last + p.2.1) },
      busyUntil t (last + p.2.1),
      modTile t fun ts => { ts with vops := rest }]
    else modTile t fun ts => { ts with vops := { o with next := o.next + gs.length, last := last, got := got } :: rest }] s

/-- Ask for the refetches that the tier reads of the next beat wait for (R121, R122). -/
def askVop (o : VOp) : Tx := forEach (o.parts o.next) fun x => askRefetch x.sp o.a.tile x.off x.n

/-- Run issued instructions in order while their granules are there (R204, R210). -/
def runVopsN (t : Nat) : Nat → Tx
  | 0 => skip
  | n + 1 => fun s =>
    match (s.tile t).vops with
    | [] => []
    | o :: rest =>
      let gs := s.vgrants o
      if gs.isEmpty then askVop o s
      else if o.next + gs.length = o.beats then chain [runVop o rest gs, runVopsN t n] s
      else chain [runVop o rest gs, look fun s' => match (s'.tile t).vops with | o' :: _ => askVop o' | [] => skip] s

/-- Run every issued V instruction of the tile that can run. -/
def runVops (t : Nat) : Tx := fun s => runVopsN t (s.tile t).vops.length s

/-- Issue a V instruction (R201, R208, R254): VL, the counter, GRN_BEAT and GRN_MODE are read; GRN_BEAT moves on by N. -/
def vTx (i : Instr) (k : VKind) (a : VArgs) : Tx :=
  issue (.tile a.tile 3) a.h i fun s c =>
    let t := a.tile
    let vl := s.rf (R.VEC_VL t) F.VEC_VL_VL
    let beat := s.rf (R.GRN_BEAT t) F.GRN_BEAT_BEAT
    let o : VOp := { kind := k, a := a, vl := vl, cnt := s.cnt (.tile t 3) a.ctr, beat := beat, mode := s.rf (R.GRN_MODE t) F.GRN_MODE_MODE, cyc := c }
    { words := 2, cyc := c
      go := chain [
        when (k != .tmask) (setF (R.GRN_BEAT t) F.GRN_BEAT_BEAT (beat + beatsOf vl)),
        modTile t fun ts => { ts with vops := ts.vops ++ [o] },
        runVops t,
        whenS (fun s' => (s'.tile t).vops.contains o) (noteSig 0x06 t)] }

/-- Set VL, or refuse the value (R202, R240). -/
def setVl (t v : Nat) : Tx :=
  if 1 ≤ v ∧ v ≤ 16777216 then setF (R.VEC_VL t) F.VEC_VL_VL v else noteFlag t .vlRange

/-- VSETVL (R202). -/
def vsetvlTx (t : Nat) (h : Hdr) (gm : Nat) (mode : Bool) (vlm1 line : Nat) : Tx :=
  issue (.tile t 3) h (.vsetvl t h gm mode vlm1 line) fun s c =>
    if mode then
      let off := line * 64
      let i := if gm = 0 then c else max c (s.availAt t off 4)
      let g := s.grantAt t 0 off 2 i false
      { cyc := i, ready := s.readReady t gm off 4
        go := chain [takeBank t 0 off 2 i false, noteRead 0 t off 4 g, readDone t gm off 4 (g + 4),
          setVl t (leNat (pdata ((s.asOf t g).rd 0 t off 4))), setFree (.tile t 3) (g + 5), busyUntil t (g + 4)] }
    else { cyc := c, go := setVl t (vlm1 + 1) }

/-- VSYNC (R207): the stream waits until every earlier V instruction is complete. -/
def vsyncTx (t : Nat) (h : Hdr) : Tx :=
  issue (.tile t 3) h (.vsync t h) fun s c => { cyc := max c (s.tile t).v.xdone, ready := (s.tile t).vops.isEmpty, go := skip }

/-- VSETVL. -/
def execVsetvl (t : Nat) (h : Hdr) (gm : Nat) (mode : Bool) (vlm1 line : Nat) (s : State) : Out :=
  instruction (.vsetvl t h gm mode vlm1 line) (.tile t 3) (vsetvlTx t h gm mode vlm1 line) s

/-- VSYNC. -/
def execVsync (t : Nat) (h : Hdr) (s : State) : Out := instruction (.vsync t h) (.tile t 3) (vsyncTx t h) s

/-- A V instruction of the long form. -/
def vInstr (i : Instr) (k : VKind) (a : VArgs) (s : State) : Out := instruction i (.tile a.tile 3) (vTx i k a) s

/-- VADD. -/
def execVadd (a : VArgs) (s : State) : Out := vInstr (.vadd a) .add a s

/-- VSUB. -/
def execVsub (a : VArgs) (s : State) : Out := vInstr (.vsub a) .sub a s

/-- VMUL. -/
def execVmul (a : VArgs) (s : State) : Out := vInstr (.vmul a) .mul a s

/-- VFMA. -/
def execVfma (a : VArgs) (s : State) : Out := vInstr (.vfma a) .fma a s

/-- VMAX. -/
def execVmax (a : VArgs) (s : State) : Out := vInstr (.vmax a) .max a s

/-- VMIN. -/
def execVmin (a : VArgs) (s : State) : Out := vInstr (.vmin a) .min a s

/-- VCMP. -/
def execVcmp (a : VArgs) (s : State) : Out := vInstr (.vcmp a) .cmp a s

/-- VSEL. -/
def execVsel (a : VArgs) (s : State) : Out := vInstr (.vsel a) .sel a s

/-- VAND. -/
def execVand (a : VArgs) (s : State) : Out := vInstr (.vand a) .and a s

/-- VOR. -/
def execVor (a : VArgs) (s : State) : Out := vInstr (.vor a) .or a s

/-- VXOR. -/
def execVxor (a : VArgs) (s : State) : Out := vInstr (.vxor a) .xor a s

/-- VSHL. -/
def execVshl (a : VArgs) (s : State) : Out := vInstr (.vshl a) .shl a s

/-- VSHR. -/
def execVshr (a : VArgs) (s : State) : Out := vInstr (.vshr a) .shr a s

/-- VCVT. -/
def execVcvt (a : VArgs) (s : State) : Out := vInstr (.vcvt a) .cvt a s

/-- VPACK. -/
def execVpack (a : VArgs) (s : State) : Out := vInstr (.vpack a) .pack a s

/-- VUNPACK. -/
def execVunpack (a : VArgs) (s : State) : Out := vInstr (.vunpack a) .unpack a s

/-- VPERM. -/
def execVperm (a : VArgs) (s : State) : Out := vInstr (.vperm a) .perm a s

/-- VSHUF. -/
def execVshuf (a : VArgs) (s : State) : Out := vInstr (.vshuf a) .shuf a s

/-- VPATCH. -/
def execVpatch (a : VArgs) (w cm1 pm1 : Nat) (s : State) : Out := vInstr (.vpatch a w cm1 pm1) (.patch w cm1 pm1) a s

/-- VRED. -/
def execVred (a : VArgs) (s : State) : Out := vInstr (.vred a) .red a s

/-- VSFU. -/
def execVsfu (a : VArgs) (s : State) : Out := vInstr (.vsfu a) .sfu a s

/-- SMX1. -/
def execSmx1 (a : VArgs) (s : State) : Out := vInstr (.smx1 a) .smx1 a s

/-- SMX2. -/
def execSmx2 (a : VArgs) (s : State) : Out := vInstr (.smx2 a) .smx2 a s

/-- ROWSTAT. -/
def execRowstat (a : VArgs) (s : State) : Out := vInstr (.rowstat a) .rowstat a s

/-- SAMPLE. -/
def execSample (a : VArgs) (s : State) : Out := vInstr (.sample a) .sample a s

/-- TMASK. -/
def execTmask (a : VArgs) (s : State) : Out := vInstr (.tmask a) .tmask a s

/-- VGRAIN. -/
def execVgrain (a : VArgs) (s : State) : Out := vInstr (.vgrain a) .grain a s

end Sys2Proof.Machine
end

