-- ==== Sys2Proof/Machine/Frames.lean ====
section
/-! DEFINITION. Frames (spec/02): FRAME_END, STARVED, the tick and its sequence, stretch, overrun, lag, the slack window, the end of a
job at a tick, and the calls of a realign. -/

namespace Sys2Proof.Machine

/-! ### FRAME_END (R25, R26, R71, R72) -/

/-- Is every operation of the tile complete but for the passing of time (R25)? -/
def State.tileDone (s : State) (t : Nat) : Bool :=
  (s.tile t).passes.isEmpty && (s.tile t).vops.isEmpty &&
    s.chip.xfers.all fun x => x.tile != t || (!x.own s.position && x.inRouter == 0)

/-- FRAME_END_RETIRE: at the later of its streams' last issue cycles and the end of its operations (R25, R72). -/
def frameEndRetireTx (t : Nat) : Tx := fun s =>
  let on := [0, 1, 2, 3].filter (s.enabled t)
  let ts := s.tile t
  if !s.released || ts.retired.isSome || !(on.all fun k => (ts.stream k).eof) || !s.tileDone t then []
  else
    let at_ := on.foldl (fun a k => max a (ts.stream k).last) (max 16 ts.doneAt)
    modTile t (fun ts => { ts with retired := some at_, retiredNs := some (s.nsAfter (at_ - s.chip.fcyc)) }) s

/-- FRAME_END_RETIRE. -/
def execFrameEndRetire (t : Nat) (s : State) : Out := onTile t (frameEndRetireTx t) s

/-! ### STARVED (R29) -/

/-- The scratchpad spans that a C, D or V instruction held at issue reads in keep or consume mode. -/
def State.issueSpans (s : State) : Instr → List (Nat × Nat)
  | .cwaitg _ _ _ g => [(256 * g, 256)]
  | .dcpy a =>
    let n := 256 * a.len
    if a.gm = 0 then [] else [(256 * a.src + (if a.step then n * s.cnt (.tile a.tile 1) a.ctr else 0), n)]
  | .dmov a =>
    let n := 64 * a.len
    let k := if a.step then n * s.cnt (.tile a.tile 1) a.ctr else 0
    let g := gAdd a.g k
    if a.gm = 0 then []
    else if !a.dir then [(64 * a.loc + k, n)]
    else if s.nearby a.tile g && gSpace g == 0 then [(gOff g, n)]
    else []
  | .kvCommit a => if a.gm = 0 then [] else [(64 * a.path, 64)]
  | .vsetvl _ _ gm mode _ line => if mode && gm != 0 then [(64 * line, 4)] else []
  | _ => []

/-- The granules of some spans of tile `t` that are empty or not readable now, as global addresses (R29, R55). -/
def State.emptyIn (s : State) (t : Nat) (spans : List (Nat × Nat)) : List Nat :=
  ((spans.flatMap fun x => granulesOf (wrapOff 0 x.1) x.2).filter fun g =>
    !s.fullNow t g || decide (s.chip.fcyc < s.availAt t (256 * g) 256)).map fun g => gaddr s.position t 0 (256 * g)

/-- The empty granules on which stream `k` of tile `t` waits, at issue or by an operation it has issued. -/
def State.waitsOn (s : State) (t k : Nat) : List Nat :=
  let ts := s.tile t
  s.emptyIn t (((ts.stream k).waitq.take 1).flatMap s.issueSpans) ++
    match k with
    | 1 => s.tiles.flatMap fun u => (u.2.reads.filter fun r =>
        r.retMod == s.position && r.retTile == t && r.gm != 0 && r.space == 0).flatMap fun r => s.emptyIn u.1 [(r.off, 64 * r.len)]
    | 2 => match ts.entering.bind fun i => ts.passes[i]? with
      | some p => if p.args.gm = 0 then [] else s.emptyIn t (p.actPart p.next)
      | none => []
    | 3 => match ts.vops with
      | o :: _ => s.emptyIn t (((o.parts o.next).filter fun x => x.sp == 0 && x.md != 0).map fun x => (x.off, x.n))
      | [] => []
    | _ => []

/-- A bit of FRM_FAULT is raised; its event is posted where the alert bit of FRM_CTL asks for it (R369). -/
def frameFault (f alert : Fld) (status detail : Nat) : Tx := fun s =>
  if s.rb R.FRM_CTL alert then raise R.FRM_FAULT f status detail s else setF R.FRM_FAULT f 1 s

/-- The lowest of some addresses. -/
def lowest : List Nat → Option Nat
  | [] => none
  | a :: as => some (as.foldl min a)

/-- The granule that STARVED records: lowest tile, lowest stream, lowest granule. -/
def State.starvedAt (s : State) : Option Nat :=
  (s.tileList.flatMap fun t => [0, 1, 2, 3].map fun k => (t, k)).findSome? fun x => lowest (s.waitsOn x.1 x.2)

/-- Does a pending freeze stop the chip before frame cycle `a` (R101)? -/
def State.freezesBefore (s : State) (a : Nat) : Bool := match s.chip.freezeAt with | some f => decide (f < a) | none => false

/-- The cycle of a tick that a stopping job fires though work is left (R370). -/
def State.stopAt (s : State) : Option Nat :=
  match s.tickAt with
  | some a => some a
  | none => if s.chip.halting then some (max s.chip.fcyc s.frmLen) else none

/-- Does the frame's tick fire at or before frame cycle FRM_LEN? -/
def State.endsOnTime (s : State) : Bool := match s.stopAt with | some a => decide (a ≤ s.frmLen) | none => false

/-- STARVED: the check at frame cycle FRM_LEN. -/
def starvedTx : Tx := fun s =>
  if !s.released || s.chip.starvedDone || s.endsOnTime || s.freezesBefore (s.frmLen + 1) then []
  else chain [
    elapseTo s.frmLen,
    modChip fun c => { c with starvedDone := true },
    look fun s' => match s'.starvedAt with
      | none => skip
      | some a => chain [
          when (!s'.rb R.FRM_FAULT F.FRM_FAULT_STARVED) (setRegN R.FRM_STARVED_ADDR a),
          frameFault F.FRM_FAULT_STARVED F.FRM_CTL_STARVED_ALERT 0x0805
            ((if s'.rb R.FRM_FAULT F.FRM_FAULT_STARVED then (s'.reg R.FRM_STARVED_ADDR).toNat else a) % 0x100000000)]] s

/-- STARVED. -/
def execStarved (s : State) : Out := commit starvedTx s

/-! ### The end of a frame (R27, R28, R33, R59, R60) -/

/-- FRAME_OVERRUN, once a frame (R28); it makes the manager call a realign (R62). -/
def overrun (stretch : Nat) : Tx := fun s =>
  if s.chip.overrunDone || decide (stretch ≤ s.rf R.FRM_STRETCH_MAX F.FRM_STRETCH_MAX_CYCLES) then []
  else chain [
    frameFault F.FRM_FAULT_OVERRUN F.FRM_CTL_OVERRUN_ALERT 0x0804 (stretch % 0x100000000),
    incF R.FRM_STRETCH_CNT F.FRM_STRETCH_CNT_OVERRUNS 1,
    modChip fun c => { c with overrunDone := true, overrunCall := true }] s

/-- Did the tile lose cycles of the slice: did its FRAME_END retire after the last cycle before it (R33)? -/
def State.lostSlice (s : State) (t : Nat) : Bool :=
  decide (0 < s.slice) && match s.retiredAt t with | some e => decide (s.frmLen < e + s.slice + 1) | none => true

/-- The tile's slack enters its minimum of the window (R59). -/
def noteSlack (t : Nat) : Tx := fun s =>
  match s.retiredAt t with
  | none => []
  | some e =>
    let k : Int := (s.frmLen : Int) - e
    modTile t (fun ts => { ts with winMin := some (match ts.winMin with | some m => min m k | none => k) }) s

/-- What the end of a frame whose tick fires at cycle `a` records. FRM_LAG, FRM_STRETCH_CNT and FRM_MAINT_SHORT_CNT saturate (DESIGN
CHOICE, log entry 63: R66 does not say what they do past their width). -/
def endFrame (a : Nat) : Tx := fun s =>
  let str := a - s.frmLen
  chain [
    when (decide (0 < str)) (chain [
      incF R.FRM_LAG F.FRM_LAG_VALUE str, incF R.FRM_STRETCH_CNT F.FRM_STRETCH_CNT_STRETCHED 1]),
    overrun str,
    when (s.tileList.any s.lostSlice) (incF R.FRM_MAINT_SHORT_CNT F.FRM_MAINT_SHORT_CNT_VALUE 1),
    forEach s.tileList noteSlack] s

/-- A stream at the tick `n` cycles on: it may issue at issue release again (R70, R71). -/
def StreamS.rebase (n : Nat) (x : StreamS) : StreamS :=
  { x with eof := false, free := max 16 (x.free - n), last := 0, engine := x.engine - n, dgset := x.dgset - n, xdone := x.xdone - n }

/-- A tile at the tick. -/
def TileS.rebase (n : Nat) (ts : TileS) : TileS :=
  { ts with
    c := ts.c.rebase n, d := ts.d.rebase n, m := ts.m.rebase n, v := ts.v.rebase n
    reads := ts.reads.map fun r => { r with cyc := r.cyc - n }
    avail := (ts.avail.filter fun x => decide (n < x.2)).map fun x => (x.1, x.2 - n)
    empties := (ts.empties.filter fun x => decide (n < x.2)).map fun x => (x.1, x.2 - n)
    grants := (ts.grants.filter fun g => decide (n ≤ g.cyc)).map fun g => { g with cyc := g.cyc - n }
    olds := (ts.olds.filter fun l => decide (n < l.cyc)).map fun l => { l with cyc := l.cyc - n }
    roomAt := ts.roomAt - n
    retired := none, doneAt := 0, entryFree := 0, lastL := 0, wcyc := 0, wcnt := 0, places := [], sliceUsed := 0, kvInflight := [] }

/-- The chip's cycles counted from the tick. -/
def Chip.rebase (n : Nat) (c : Chip) : Chip :=
  { c with
    fcyc := c.fcyc - n
    starvedDone := false, overrunDone := false, tickHold := 0
    flits := c.flits.map fun f => { f with cyc := f.cyc - n }
    taken := (c.taken.filter fun x => decide (n ≤ x.2)).map fun x => (x.1, x.2 - n)
    credAt := (c.credAt.filter fun x => decide (n < x.2)).map fun x => (x.1, x.2 - n)
    sent := (c.sent.filter fun x => decide (n ≤ 1024 * x.2.1)).map fun x => (x.1, x.2.1 - n / 1024, x.2.2)
    xfers := c.xfers.map fun x => { x with seen := x.seen - n }
    lastTick := n
    freezeAt := c.freezeAt.map fun f => max 16 (f - n)
    ports := mapStore {} (fun x => { x with
      booked := (x.booked.filter fun y => decide ((n : Int) < y.2.1 + 1024)).map fun y => (y.1 - n, y.2.1 - n, y.2.2)
      freeU := x.freeU - n, asm := x.asm.map fun y => (y.1 - n, y.2)
      late := (x.late.filter fun e => decide (n ≤ e.1)).map fun e => (e.1 - n, e.2) }) c.ports
    cues := mapStore {} (fun x => { x with free := x.free - n }) c.cues }

/-- The writes that waited behind commits are applied; every commit of the frame is complete (R25, R269). -/
def applyAllHeld : Tx := fun s =>
  forEach s.tiles (fun x => forEach (x.2.kvHeld.map (·.desc)).eraseDups fun d => applyHeld x.1 d) s

/-- The frame cycle counter starts again: `n` cycles of it are past. -/
def rebase (n : Nat) : Tx := chain [
  look fun s => when (!s.meshHeld) (settleHops (64 * s.chip.flits.length) n []),
  applyAllHeld, lateStretch n,
  modChip (Chip.rebase n),
  look fun s => forEach (s.tiles.map (·.1)) fun t => modTile t (TileS.rebase n)]

/-! ### The tick sequence (R36) -/

/-- GRN_BEAT is 0 at frame cycle 0 (R254). -/
def resetBeats : Tx := fun _ => [.dropRegs fun k => isTileKey k && k == R.GRN_BEAT (tileOf k)]

/-- The lowest slack of the window and the lowest tile that reached it. -/
def State.windowMin (s : State) : Option (Int × Nat) :=
  s.tileList.foldl (fun a t => match (s.tile t).winMin, a with
    | none, a => a
    | some m, none => some (m, t)
    | some m, some b => if m < b.1 then some (m, t) else some b) none

/-- A slack window ends (R59). -/
def latchSlack : Tx := fun s => chain [
  (match s.windowMin with
    | some m => chain [
        setF R.FRM_SLACK_MIN F.FRM_SLACK_MIN_SLACK (fromSigned 32 m.1), setF R.FRM_SLACK_MIN F.FRM_SLACK_MIN_TILE m.2]
    | none => skip),
  forEach s.tileList fun t => modTile t fun ts => { ts with lastMin := ts.winMin, winMin := none },
  modChip fun c => { c with winFrame := s.frame, winLen := 2 ^ c.slackWin }] s

/-- Window bookkeeping of a tick; the first tick of a run ends no window. A new SLACK_WIN counts from the next tick on. -/
def slackWindow (first : Bool) : Tx := fun s => chain [
  when (!first && s.frame % 2 ^ s.chip.slackWin == 0) latchSlack,
  modChip fun c => { c with slackWin := s.rf R.FRM_CTL F.FRM_CTL_SLACK_WIN }] s

/-- The replay ends with PARAM_RANGE and the job stops (R403). -/
def failReplay (seq : Nat) : Tx := fun s => chain [
  (match s.chip.replayCmd with | some c => postReply c 0x0103 seq 0 | none => skip),
  modChip fun c => { c with replayCmd := none, halting := true }] s

/-- A replayed ROLL switches to the ARMED roll of its root (R403). -/
def replayRoll (e : RepEntry) : Tx := fun s =>
  match [0, 1].find? fun x => s.descState x == 3 && s.descRoot x == e.body.take 32 with
  | some x => chain [modChip fun c => { c with armedRoll := some x }, setRegN R.ROL_SWITCH_FRAME s.frame] s
  | none => failReplay e.seq s

/-- Frame cycle 1: the roll switch (R352), recorded as ROLL (R401). -/
def tickRollSwitch : Tx := chain [
  look fun s => when s.replaying (forEach (s.entriesAt s.frame (· == 6)) replayRoll),
  look fun s => match s.chip.armedRoll with
    | some x => when ((s.reg R.ROL_SWITCH_FRAME).toNat == s.frame) (recordEntry ⟨6, 0x200, s.frame, 0, 0, 0, 0, s.descRoot x⟩)
    | none => skip,
  tickRoll, tickServing]

/-- A selector: its register, its status register with ACTIVE and PENDING. -/
structure Selector where
  sel : Nat
  stat : Nat
  act : Fld
  pend : Fld

/-- The selectors of cycles 3 and 4: the sprocket bank, then every tile's table banks. -/
def State.selectors (s : State) : List Selector :=
  ⟨R.SPK_SEL, R.SPK_STAT, F.SPK_STAT_ACTIVE, F.SPK_STAT_PENDING⟩ :: s.tileList.flatMap fun t => [
    ⟨R.SFU_TBL_SEL t, R.SFU_STAT t, F.SFU_STAT_ACTIVE, F.SFU_STAT_PENDING⟩,
    ⟨R.WPA_CB_SEL t, R.WPA_CB_STAT t, F.WPA_CB_STAT_ACTIVE, F.WPA_CB_STAT_PENDING⟩,
    ⟨R.GRN_TBL_SEL t, R.GRN_STAT t, F.GRN_STAT_ACTIVE, F.GRN_STAT_PENDING⟩]

/-- The bank becomes active. -/
def Selector.activate (x : Selector) (b : Nat) : Tx := chain [setF x.stat x.act b, setF x.stat x.pend 0]

/-- A replayed SELECT takes the recorded outcome (R403), and is an input of a recording (R398). -/
def replaySelect (e : RepEntry) : Tx := fun s => chain [
  (match s.selectors.find? (·.sel == gKey e.addr) with
    | none =>
      if inArr (gKey e.addr) (R.MSH_ROWMAP 0) 8 16 then
        if e.val.testBit 63 then incF R.MSH_STAT F.MSH_STAT_WR_REJECT 1 else setTw (gKey e.addr) (e.val % 0x100000000)
      else skip
    | some x =>
      if e.val.testBit 63 then when (isTileKey x.sel) (incF x.stat F.GRN_STAT_SEL_REJECT 1)
      else chain [setTw x.sel (e.val % 0x100000000), x.activate (e.val % 2)]),
  recordEntry { e with frame := s.frame }] s

/-- Frame cycles 3 and 4: the bank switches (R36, R249), recorded as SELECT (R401). -/
def tickSelects : Tx := chain [
  look fun s => modChip fun c => { c with spkPrev := s.spkActive },
  look fun s => when s.replaying (forEach (s.entriesAt s.frame (· == 7)) replaySelect),
  fun s => forEach s.selectors (fun x => whenS (fun s' => s'.rb x.stat x.pend) <| chain [
    x.activate (s.tw x.sel % 2),
    recordEntry ⟨7, (s.chip.selBy.find? (·.1 == x.sel)).elim 0x200 (·.2), s.frame, 0, s.regAddr x.sel, s.tw x.sel, 0, []⟩]) s]

/-- Frame cycle 5: S is fixed (R30, R34, R36). -/
def tickSlice : Tx := fun s =>
  modChip (fun c => { c with sliceLen := s.frmLen * s.rf R.FRM_MAINT_SLICE F.FRM_MAINT_SLICE_FRAC / 256 }) s

/-- Frame cycles 6 to 15: the selectors of the sequence are checked (R10, R36). -/
def tickChecks : Tx := fun s =>
  forEach (R.FRM_LEN :: R.ROL_ACTIVE :: (List.range 16).map R.MSH_ROWMAP ++ s.selectors.map (·.sel)) (fun k => twCheck k (s.regAddr k)) s

/-- Units that wait on a tile: kind in FRM_FAULT, length (R35). Of several kinds in one frame the record keeps the last of this order,
on the highest tile (log entry 57). -/
def State.waitingUnits (s : State) (t : Nat) : List (Nat × Nat) :=
  (if s.scrubDue t then [(0, 48)] else []) ++ (s.fillUnit t).toList.map (1, ·) ++ (s.cbUnit t).toList.map (2, ·) ++
    (s.retireUnit t).toList.map (fun n => (if n = 128 then 3 else 4, n)) ++ ((s.testWaits t).toList ++ (s.autoUnitLen t).toList).map (5, ·)

/-- Units longer than the slice wait, and are recorded (R35). -/
def tickUnits : Tx := fun s =>
  forEach ((s.tileList.flatMap s.waitingUnits).filter fun u => decide (s.slice < u.2)) (fun u => sliceSmall u.1) s

/-- A fill in units goes on at the full rate (R245). -/
def fillAtOnce (t : Nat) : Tx := fun s =>
  match (s.tile t).fill with
  | some f => if f.endNs.isSome then [] else
      modTile t (fun ts => { ts with fill := some { f with endNs := some (s.nsAfter (8 * (129 - f.done))) } }) s
  | none => []

/-- A roll switch that was armed, and serving rolls that were to follow, need no frame any more. -/
def settleRolls : Tx := chain [
  look fun s => match s.chip.armedRoll with
    | some x => when (s.reg R.ROL_SWITCH_FRAME != 0) <| chain [
        makeLive x, forEach s.tileList fun t => serve t x (s.rb (descKey x 0) F.ROL_DESC_A_0_CB_SWITCH)]
    | none => skip,
  look fun s => forEach s.tiles fun u => match u.2.servNext with
    | some n => serve u.1 n.2 (s.rb (descKey n.2 0) F.ROL_DESC_A_0_CB_SWITCH)
    | none => skip]

/-- The replay is over. -/
def endReplay (status : Nat) : Tx := fun s => chain [
  (match s.chip.replayCmd with | some c => postReply c status 0 0 | none => skip),
  modChip fun c => { c with replayCmd := none, replay := [] },
  setF R.AUD_REPLAY_CTL F.AUD_REPLAY_CTL_REPLAYING 0] s

/-- The job stops (R370, R375, R245): RUN is 0, every open request ends, nothing of it stays at work. -/
def stopJob : Tx := chain [
  look fun s => recordEntry ⟨8, s.chip.haltBy.getD 0x200, s.frame, 0, 0, 0, 0, []⟩,
  look fun s => match s.chip.capture with
    | some ⟨_, _, some c⟩ => postReply c 0x0103 0 0
    | _ => skip,
  setF R.AUD_STAT F.AUD_STAT_SAVING 0,
  setF R.FRM_CTL F.FRM_CTL_RUN 0, setF R.FRM_CTL F.FRM_CTL_FROZEN 0,
  endAllRequests, abandonRetirement, applyAllHeld,
  look fun s => forEach (s.tiles.map (·.1)) fun t => chain [modTile t TileS.idle, fillAtOnce t],
  whenS State.changeArmed applyStep, settleRolls,
  modChip fun c => { c with
    halting := false, haltBy := none, hold := none, refHold := !c.refBack, freezeAt := none, freezeHits := [], freezeDomain := false, clap := none, before := none, capture := none
    nextStep := none, overrunCall := false, tickHold := 0, parked := false, stepDue := false
    flits := [], xfers := [], inbound := [], taken := [], served := [], credAt := [], sent := []
    ports := mapStore {} (fun x => { x with rx := [], asm := [], late := [], booked := [], freeU := 0 }) c.ports },
  noteTrackers, setRegN R.FRM_REALIGN_FRAME 0,
  jobUnvotes, endReplay 0, finishCodebooks,
  look fun s => forEach s.chip.haltCmds fun c => postReply c 0 0 0,
  modChip fun c => { c with haltCmds := [] }]

/-- Frame cycle 16 of a replay: the frame's entries apply in order, and its HALT entry stops the job (R403). -/
def tickReplay : Tx := whenS State.replaying <| chain [
  look fun s => forEach (s.entriesAt s.frame fun k => decide (2 ≤ k ∧ k ≤ 5)) replayEntry,
  look fun s => match (s.entriesAt s.frame (· == 8)).head? with
    | some e => modChip fun c => { c with halting := true, haltBy := some e.src }
    | none => skip]

/-- A replay without a HALT entry ends after its last entry, once every request is complete or ended; the job then stops (R403). -/
def replayDone : Tx := fun s =>
  if s.replaying && !s.chip.replay.any (fun e => e.kind == 8 || decide (s.frame < e.frame)) && s.unfinished.isEmpty then chain [
    (match s.chip.replayCmd with | some c => postReply c 0 0 0 | none => skip),
    modChip fun c => { c with replayCmd := none, halting := true }] s
  else []

/-- The sequence of a tick up to issue release; a job that is to stop ends before it. `first`: a clapped start or restore fires
it. -/
def tickSequence (first : Bool) (n : Nat) : Tx := chain [
  noteSig 0x00 0, setRegN R.FRM_COUNT n, tickStep, resetBeats, slackWindow first, tickDeadlines,
  tickRollSwitch, whenS (fun s => !s.chip.halting) rowMapSwitch, tickSelects, tickLate, tickSlice, tickChecks,
  elapseTo 16, tickUnits, tickReference, tickReplay,
  whenS (fun s => s.chip.halting) stopJob,
  replayDone]

/-- The tick that ends the running frame at cycle `a`. -/
def nextFrame (a : Nat) : Tx := fun s => chain [endFrame a, rebase a, tickSequence false (s.frame + 1)] s

/-- Is the coming tick that of a realign (R62)? -/
def State.realignNext (s : State) : Bool :=
  (s.reg R.FRM_REALIGN_FRAME).toNat == s.frame + 1 && !s.chip.halting

/-- A realign's tick is reached: the manager calls its clap, and the module is ready for it (R387, R388). -/
def realignReady : Tx := chain [
  whenS (fun s => s.isManager && s.chip.clap.isNone) (callClap 2 0 none),
  whenS (fun s => match s.chip.clap with | some c => c.sub == 2 | none => false) selfReady]

/-- FRAME_TICK. While work is left, only the overrun is noticed. -/
def frameTickTx : Tx := fun s =>
  if !s.released then []
  else match s.stopAt with
    | none => overrun (s.chip.fcyc - s.frmLen) s
    | some a =>
      if s.freezesBefore a then []
      else if s.realignNext then chain [elapseTo a, realignReady] s
      else chain [elapseTo a, nextFrame a] s

/-- FRAME_TICK. -/
def execFrameTick (s : State) : Out := commit frameTickTx s

/-- SLACK_WINDOW_END: the tick, where its FRM_COUNT ends a window (R59). -/
def slackWindowEndTx : Tx := whenS (fun s => (s.frame + 1) % 2 ^ s.chip.slackWin == 0) frameTickTx

/-- SLACK_WINDOW_END. -/
def execSlackWindowEnd (s : State) : Out := commit slackWindowEndTx s

/-- ROLL_SWITCH_APPLY: the tick of the armed switch (R352). -/
def rollSwitchApplyTx : Tx :=
  whenS (fun s => s.chip.armedRoll.isSome && (s.reg R.ROL_SWITCH_FRAME).toNat == s.frame + 1) frameTickTx

/-- ROLL_SWITCH_APPLY. -/
def execRollSwitchApply (s : State) : Out := commit rollSwitchApplyTx s

/-- SERVING_ROLL_CHANGE: the tick at which tile `t`'s serving roll changes (R352). -/
def servingRollChangeTx (t : Nat) : Tx := fun s =>
  match (s.tile t).servNext with
  | some n => when (decide (n.1 ≤ s.frame + 1)) frameTickTx s
  | none => []

/-- SERVING_ROLL_CHANGE. -/
def execServingRollChange (t : Nat) (s : State) : Out := onTile t (servingRollChangeTx t) s

/-- CLOCK_STEP_APPLY: the tick of the armed step; while a synthesiser is not locked the tick is held (R421). -/
def clockStepApplyTx (locked : Bool) : Tx := whenS (fun s => s.changeArmed && s.changeFrame == s.frame + 1) <| fun s =>
  if locked then frameTickTx s
  else match s.tickAt with
    | none => []
    | some a =>
      if !s.released || s.freezesBefore a then []
      else chain [
        setF R.CLK_STAT F.CLK_STAT_LOCK_LATE 1, elapseTo a,
        modChip fun c => { c with tickHold := c.fcyc + 1 }] s

/-- CLOCK_STEP_APPLY. -/
def execClockStepApply (locked : Bool) (s : State) : Out := commit (clockStepApplyTx locked) s

/-! ### REALIGN_CALL (R62) -/

/-- REALIGN_CALL: the spread of the domain's FRM_LAG, its largest less its smallest, and whether another chip has raised FRAME_OVERRUN; a call is merged into a
pending realign. -/
def realignCallTx (spread : Nat) (raised : Bool) : Tx := fun s =>
  if !s.isManager || !s.running then []
  else if decide (spread ≤ s.rf R.FRM_REALIGN_THRESH F.FRM_REALIGN_THRESH_CYCLES) && !s.chip.overrunCall && !raised then []
  else if s.reg R.FRM_REALIGN_FRAME != 0 then modChip (fun c => { c with overrunCall := false }) s
  else
    let f := s.announceFrame (s.frame + 4)
    chain [
      twUse R.FRM_LEN, modChip fun c => { c with overrunCall := false },
      setRegN R.FRM_REALIGN_FRAME f, announce 0 f] s

/-- REALIGN_CALL. -/
def execRealignCall (spread : Nat) (raised : Bool) (s : State) : Out := commit (realignCallTx spread raised) s

end Sys2Proof.Machine
end

