-- ==== Sys2Proof/Machine/Claps.lean ====
section
/-! DEFINITION. The freeze (R101), the clapped events (R24, R384, R387, R388), a clap that fails (R387) and the hold of a capture
(R404, R434). -/

namespace Sys2Proof.Machine

/-- CHIP_FREEZE: at the freeze cycle the chip stops, and a break of BRK_DOMAIN sends its FREEZE (R101, R102). -/
def chipFreezeTx : Tx := fun s =>
  match s.chip.freezeAt with
  | none => []
  | some f =>
    if !s.running || s.frozen || s.chip.hold.isSome || s.tickBefore f then []
    else chain [
      elapseTo f,
      setF R.FRM_CTL F.FRM_CTL_FROZEN 1, noteSig 0x0C 0,
      forEach s.chip.freezeHits.eraseDups fun t =>
        setF (R.STR_STAT t) F.STR_STAT_FREEZE_CYC (min (max f s.chip.fcyc) 0xFFFFFF),
      when s.chip.freezeDomain (chain [
        sendToken 4 0 0, modChip fun c => { c with freezeSeen := c.freezeSeen ++ [s.chip.clapSeq] }]),
      modChip fun c => { c with freezeAt := none, freezeDomain := false, freezeHits := [] }] s

/-- CHIP_FREEZE. -/
def execChipFreeze (s : State) : Out := commit chipFreezeTx s

/-- The command that a clap makes wait is answered. -/
def clapReply (c : ClapS) (status detail detail2 : Nat) : Tx :=
  match c.cmd with | some d => postReply d status detail detail2 | none => skip

/-- Frame `n` begins with a tick sequence that a clap fires (R24, R387): frame 0 of a start, F_C of a restore. -/
def firstFrame (c : ClapS) (n : Nat) : Tx := chain [
  setF R.FRM_CTL F.FRM_CTL_RUN 1,
  setF R.AUD_STAT F.AUD_STAT_RESTORING 0,
  modChip fun ch => { ch with clap := none, before := none, fcyc := 0 },
  recordStart n, drainWrites,
  tickSequence true n,
  clapReply c 0 0 0]

/-- What was held goes on from where it stands; no tick fires (R104, R387). -/
def resumeEvent : Tx := fun s => chain [
  setF R.FRM_CTL F.FRM_CTL_FROZEN 0,
  modChip fun c => { c with
    clap := none, hold := none, parked := false
    capture := if s.chip.hold == some .capture then none else c.capture }] s

/-- The tick of FRM_REALIGN_FRAME fires, FRM_LAG is cleared, and the hold counts as neither stretch nor slack (R62, R388). An overrun of
the frame it ends is merged into it. -/
def realignEvent : Tx := fun s =>
  match s.tickAt with
  | none => []
  | some a => chain [
      modChip fun c => { c with clap := none },
      endFrame a, modChip fun c => { c with overrunCall := false },
      setRegN R.FRM_LAG 0, setRegN R.FRM_REALIGN_FRAME 0,
      rebase s.chip.fcyc, tickSequence false (s.frame + 1)] s

/-- The core cycles from now to the one in which a countdown of `rem` sixteenths of a cycle ends (R384): in units of 1/80 cycle, of which a
nanosecond holds `perUnit`. -/
def State.remCycles (s : State) (c : ClapS) (rem : Nat) : Nat :=
  (c.callNs * s.perUnit + s.chip.clapSub + 5 * rem - (s.chip.ns * s.perUnit + s.chip.nsSub) + 79) / 80

/-- CLAP_EVENT: REM reaches 0 (R384). -/
def clapEventTx : Tx := fun s =>
  match s.chip.clap with
  | none => []
  | some c => match c.rem with
    | none => []
    | some rem => chain [
        elapse (s.remCycles c rem),
        noteSig 0x0B 0,
        match c.sub with
        | 0 => firstFrame c 0
        | 1 => resumeEvent
        | 2 => realignEvent
        | _ => firstFrame c (match s.chip.restored with | some f => f | none => c.frame),
        callWaiting] s

/-- CLAP_EVENT. -/
def execClapEvent (s : State) : Out := commit clapEventTx s

/-- The lowest position from which no READY arrived. -/
def State.missing (s : State) (c : ClapS) : Nat := ((List.range s.chip.part.modules).find? fun p => !c.ready.contains p).getD 0

/-- The job that was to start does not: the module is as before the call. -/
def undoStart (c : ClapS) (missing : Nat) : Tx := fun s => chain [
  clapReply c 0x0103 0xFFFF0001 missing,
  (match s.chip.replayCmd with | some d => postReply d 0x0103 0xFFFF0001 missing | none => skip),
  forEach s.chip.haltCmds fun d => postReply d 0 0 0,
  modChip fun ch => { ch with replayCmd := none, replay := [], haltCmds := [], halting := false }] s

/-- CLAP_TIMEOUT: CLAP_TIMEOUT ms after the call a READY is missing (R387, R388). -/
def clapTimeoutTx : Tx := fun s =>
  match s.chip.clap with
  | none => []
  | some c =>
    if !s.isManager || c.rem.isSome then []
    else chain [
      elapseToNs (c.callNs + 1000000 * s.rf R.AUD_CTL F.AUD_CTL_CLAP_TIMEOUT),
      setF R.AUD_CLAP_STAT F.AUD_CLAP_STAT_TIMEOUT 1, setF R.AUD_CLAP_STAT F.AUD_CLAP_STAT_MISSING (s.missing c),
      announce 5 0,
      leaveClap,
      if c.sub = 1 ∨ c.sub = 2 then chain [callClap c.sub 0 c.cmd, selfReady] else undoStart c (s.missing c),
      callWaiting] s

/-- CLAP_TIMEOUT. -/
def execClapTimeout (s : State) : Out := commit clapTimeoutTx s

/-- CAPTURE_HOLD: at frame cycle 16 of the capture frame the chip holds, its slots open to both classes and every buffered packet
released at once (R404). A park withdraws the job votes and is answered (R434); a step
change armed before it is due at the first tick after the resume (R436). -/
def captureHoldTx : Tx := fun s =>
  match s.chip.capture with
  | none => []
  | some c =>
    if !s.running || s.frozen || s.chip.hold.isSome || s.chip.clap.isSome || s.frame != c.frame then []
    else chain [
      elapseTo 16,
      modChip fun ch => { ch with hold := some .capture },
      when c.park (chain [
        modChip fun ch => { ch with parked := true, stepDue := s.changeArmed, capture := some { c with cmd := none } },
        jobUnvotes,
        match c.cmd with | some d => postReply d 0 0 0 | none => skip])] s

/-- CAPTURE_HOLD. -/
def execCaptureHold (s : State) : Out := commit captureHoldTx s

end Sys2Proof.Machine
end

