-- ==== Sys2Proof/Machine/Vpc.lean ====
section
/-! DEFINITION. Vuthanar Portable Code (R79–R99, R194–R196, R206, R207, R219, R257, R265, R270): the words of every stream
instruction, reading an instruction from its words, and the translation of a stream's program. -/

namespace Sys2Proof.Machine

/-! ### Words of an instruction -/

/-- Virtual word 0 (Table: Virtual word 0); `opnd` has its fields at their places in the word. -/
def vpcWord (op fmt lg gm : Nat) (h : Hdr) (opnd : Nat) : Nat :=
  op * 2 ^ 54 + fmt * 2 ^ 49 + lg * 2 ^ 48 + gm * 2 ^ 45 + h.eof.toNat * 2 ^ 44 + opnd + h.tag

/-- Opcode of a common-group instruction (R83); a cue stream's code is C-stream code (R90). -/
def commonOp (st : StreamId) (low : Nat) : Nat := (match st with | .tile _ s => s | .cue _ => 0) * 256 + low

/-- The words of a common-group instruction, or one of the C stream, the cue streams or short form without FMT. -/
def shortWords (op gm : Nat) (h : Hdr) (opnd : Nat) : List Nat := [vpcWord op 0 0 gm h opnd]

/-- The words of MMUL and MMULA (R194, R195). -/
def mWords (op : Nat) (a : MArgs) : List Nat := [
  vpcWord op a.fmt 1 a.gm a.h (a.k8 * 2 ^ 30 + a.afmt * 2 ^ 25 + a.ncol * 2 ^ 21 + a.cb * 2 ^ 19 + a.adp.toNat * 2 ^ 18 +
    a.aslot * 2 ^ 14 + a.bchk * 2 ^ 12 + a.tsel * 2 ^ 10 + a.ctr * 2 ^ 7 + a.step.toNat * 2 ^ 6),
  a.woff + a.ag * 2 ^ 14 + a.og * 2 ^ 27 + a.boff * 2 ^ 40]

/-- Operand bits of the V layout above the last two fields (Table: V-stream operand layout). -/
def vHigh (a : VArgs) : Nat :=
  a.dfmt * 2 ^ 39 + a.rnd * 2 ^ 37 + a.wm * 2 ^ 35 + a.sat.toNat * 2 ^ 34 + a.bb.toNat * 2 ^ 33 + a.ta.toNat * 2 ^ 32 + a.ctr * 2 ^ 29 +
    a.step.toNat * 2 ^ 28

/-- Extension word of the V layout. -/
def vExt (a : VArgs) : Nat := a.srca + a.srcb * 2 ^ 18 + a.srcc * 2 ^ 33 + a.dst * 2 ^ 48

/-- The words of a long-form V instruction. -/
def vWords (op : Nat) (a : VArgs) : List Nat :=
  [vpcWord op a.fmt 1 a.gm a.h (vHigh a + a.tid * 2 ^ 12 + a.xf * 2 ^ 6), vExt a]

/-- The words of VPATCH, its geometry in place of TID and XF (R219). -/
def patchWords (a : VArgs) (w cm1 pm1 : Nat) : List Nat :=
  [vpcWord 0x336 a.fmt 1 a.gm a.h (vHigh a + w * 2 ^ 15 + cm1 * 2 ^ 13 + pm1 * 2 ^ 8), vExt a]

/-- The virtual words of a stream instruction; a command that is none has no words. -/
def vpcWords : Instr → List Nat
  | .idle st h cyc => shortWords (commonOp st 0) 0 h (cyc * 2 ^ 28)
  | .cset st h c v => shortWords (commonOp st 1) 0 h (c * 2 ^ 41 + v * 2 ^ 9)
  | .loop st h c tg l => shortWords (commonOp st 2) 0 h (c * 2 ^ 41 + tg * 2 ^ 29 + l * 2 ^ 6)
  | .jump st h tg => shortWords (commonOp st 3) 0 h (tg * 2 ^ 32)
  | .cmpset st h c src rel v => shortWords (commonOp st 4) 0 h (c * 2 ^ 42 + src * 2 ^ 38 + rel * 2 ^ 35 + v * 2 ^ 6)
  | .br st h c sense tg => shortWords (commonOp st 5) 0 h (c * 2 ^ 42 + sense.toNat * 2 ^ 41 + tg * 2 ^ 29)
  | .waitc st h c sense => shortWords (commonOp st 6) 0 h (c * 2 ^ 42 + sense.toNat * 2 ^ 41)
  | .frameEnd _ h => shortWords 0x020 0 h 0
  | .cwaitg _ h gm g => shortWords 0x021 gm h (g * 2 ^ 31)
  | .cueNext _ h => shortWords 0x0C0 0 h 0
  | .cueWr _ h aw vw => shortWords 0x0C1 0 h (aw * 2 ^ 41 + vw * 2 ^ 38)
  | .cueInject _ h aw wm => shortWords 0x0C2 0 h (aw * 2 ^ 41 + wm * 2 ^ 39)
  | .cueAdmit _ h => shortWords 0x0C3 0 h 0
  | .cueReply _ h st => shortWords 0x0C4 0 h (st * 2 ^ 28)
  | .cueRun _ h => shortWords 0x0C5 0 h 0
  | .cueHalt _ h => shortWords 0x0C6 0 h 0
  | .dcpy a => shortWords 0x120 a.gm a.h
      (a.len * 2 ^ 38 + a.src * 2 ^ 25 + a.dst * 2 ^ 12 + a.wm * 2 ^ 10 + a.step.toNat * 2 ^ 9 + a.ctr * 2 ^ 6)
  | .dmov a => [vpcWord 0x121 0 1 a.gm a.h (a.len * 2 ^ 29 + a.loc * 2 ^ 14 + a.dir.toNat * 2 ^ 13 + a.ctr * 2 ^ 10 +
      a.step.toNat * 2 ^ 9 + a.wm * 2 ^ 7 + a.sched.toNat * 2 ^ 6), a.g]
  | .dgset _ h f c v => shortWords 0x122 0 h (f * 2 ^ 31 + c * 2 ^ 18 + v.toNat * 2 ^ 17)
  | .dfence _ h => shortWords 0x123 0 h 0
  | .kvCommit a => [vpcWord 0x124 0 1 a.gm a.h (a.desc * 2 ^ 38 + a.path * 2 ^ 23 + a.ncm1 * 2 ^ 19 + a.ntf.toNat * 2 ^ 18 +
      a.nwm * 2 ^ 16 + a.nsched.toNat * 2 ^ 15), a.g]
  | .mmul a => mWords 0x220 a
  | .mmula a => mWords 0x221 a
  | .mout a => [vpcWord 0x222 a.fmt 0 0 a.h (a.rnd * 2 ^ 43 + a.olay * 2 ^ 42 + a.wm * 2 ^ 40 + a.ostr * 2 ^ 28)]
  | .msync _ h => shortWords 0x223 0 h 0
  | .vsetvl _ h gm mode vlm1 line => shortWords 0x320 gm h (mode.toNat * 2 ^ 43 + (vlm1 + line) * 2 ^ 19)
  | .vsync _ h => shortWords 0x321 0 h 0
  | .vadd a => vWords 0x322 a
  | .vsub a => vWords 0x323 a
  | .vmul a => vWords 0x324 a
  | .vfma a => vWords 0x325 a
  | .vmax a => vWords 0x326 a
  | .vmin a => vWords 0x327 a
  | .vcmp a => vWords 0x328 a
  | .vsel a => vWords 0x329 a
  | .vand a => vWords 0x32A a
  | .vor a => vWords 0x32B a
  | .vxor a => vWords 0x32C a
  | .vshl a => vWords 0x32D a
  | .vshr a => vWords 0x32E a
  | .vcvt a => vWords 0x330 a
  | .vpack a => vWords 0x331 a
  | .vunpack a => vWords 0x332 a
  | .vperm a => vWords 0x334 a
  | .vshuf a => vWords 0x335 a
  | .vpatch a w cm1 pm1 => patchWords a w cm1 pm1
  | .vred a => vWords 0x338 a
  | .vsfu a => vWords 0x339 a
  | .smx1 a => vWords 0x33A a
  | .smx2 a => vWords 0x33B a
  | .rowstat a => vWords 0x33C a
  | .sample a => vWords 0x33D a
  | .vgrain a => vWords 0x33E a
  | .tmask a => vWords 0x340 a
  | _ => []

/-! ### Reading an instruction -/

/-- Bits [hi:lo] of a word. -/
def bitsOf (w hi lo : Nat) : Nat := w / 2 ^ lo % 2 ^ (hi + 1 - lo)

/-- Tag and marker of word 0. -/
def hdrOf (w : Nat) : Hdr := ⟨bitsOf w 5 0, w.testBit 44⟩

/-- The V operands of a word pair. -/
def vArgsOf (t w x : Nat) (geom : Bool) : VArgs :=
  { tile := t, h := hdrOf w, fmt := bitsOf w 53 49, gm := bitsOf w 47 45, dfmt := bitsOf w 43 39, rnd := bitsOf w 38 37
    wm := bitsOf w 36 35, sat := w.testBit 34, bb := w.testBit 33, ta := w.testBit 32, ctr := bitsOf w 31 29, step := w.testBit 28
    tid := if geom then 0 else bitsOf w 27 12, xf := if geom then 0 else bitsOf w 11 6
    srca := bitsOf x 17 0, srcb := bitsOf x 32 18, srcc := bitsOf x 47 33, dst := bitsOf x 62 48 }

/-- The operands of a pass. -/
def mArgsOf (t w x : Nat) : MArgs :=
  { tile := t, h := hdrOf w, fmt := bitsOf w 53 49, gm := bitsOf w 47 45, k8 := bitsOf w 43 30, afmt := bitsOf w 29 25
    ncol := bitsOf w 24 21, cb := bitsOf w 20 19, adp := w.testBit 18, aslot := bitsOf w 17 14, bchk := bitsOf w 13 12
    tsel := bitsOf w 11 10, ctr := bitsOf w 9 7, step := w.testBit 6
    woff := bitsOf x 13 0, ag := bitsOf x 26 14, og := bitsOf x 39 27, boff := bitsOf x 63 40 }

/-- A common-group instruction by its low byte. -/
def commonOf (st : StreamId) (w : Nat) : Option Instr :=
  let h := hdrOf w
  match bitsOf w 61 54 with
  | 0 => some (.idle st h (bitsOf w 43 28))
  | 1 => some (.cset st h (bitsOf w 43 41) (bitsOf w 40 9))
  | 2 => some (.loop st h (bitsOf w 43 41) (bitsOf w 40 29) (bitsOf w 28 6))
  | 3 => some (.jump st h (bitsOf w 43 32))
  | 4 => some (.cmpset st h (bitsOf w 43 42) (bitsOf w 41 38) (bitsOf w 37 35) (bitsOf w 34 6))
  | 5 => some (.br st h (bitsOf w 43 42) (w.testBit 41) (bitsOf w 40 29))
  | 6 => some (.waitc st h (bitsOf w 43 42) (w.testBit 41))
  | _ => none

/-- An instruction of a cue stream (R90). -/
def cueOf (k w : Nat) : Option Instr :=
  let h := hdrOf w
  match bitsOf w 63 54 with
  | 0x0C0 => some (.cueNext k h)
  | 0x0C1 => some (.cueWr k h (bitsOf w 43 41) (bitsOf w 40 38))
  | 0x0C2 => some (.cueInject k h (bitsOf w 43 41) (bitsOf w 40 39))
  | 0x0C3 => some (.cueAdmit k h)
  | 0x0C4 => some (.cueReply k h (bitsOf w 43 28))
  | 0x0C5 => some (.cueRun k h)
  | 0x0C6 => some (.cueHalt k h)
  | _ => none

/-- An instruction of the C or D stream of tile `t`. -/
def moveOf (t w x : Nat) : Option Instr :=
  let h := hdrOf w
  let gm := bitsOf w 47 45
  match bitsOf w 63 54 with
  | 0x020 => some (.frameEnd t h)
  | 0x021 => some (.cwaitg t h gm (bitsOf w 43 31))
  | 0x120 => some (.dcpy ⟨t, h, gm, bitsOf w 43 38, bitsOf w 37 25, bitsOf w 24 12, bitsOf w 11 10, w.testBit 9, bitsOf w 8 6⟩)
  | 0x121 => some (.dmov ⟨t, h, gm, bitsOf w 43 29, bitsOf w 28 14, w.testBit 13, bitsOf w 12 10, w.testBit 9, bitsOf w 8 7, w.testBit 6, x⟩)
  | 0x122 => some (.dgset t h (bitsOf w 43 31) (bitsOf w 30 18) (w.testBit 17))
  | 0x123 => some (.dfence t h)
  | 0x124 => some (.kvCommit ⟨t, h, gm, bitsOf w 43 38, bitsOf w 37 23, bitsOf w 22 19, w.testBit 18, bitsOf w 17 16, w.testBit 15, x⟩)
  | _ => none

/-- An instruction of the M stream of tile `t`. -/
def matrixOf (t w x : Nat) : Option Instr :=
  match bitsOf w 63 54 with
  | 0x220 => some (.mmul (mArgsOf t w x))
  | 0x221 => some (.mmula (mArgsOf t w x))
  | 0x222 => some (.mout ⟨t, hdrOf w, bitsOf w 53 49, bitsOf w 43 43, bitsOf w 42 42, bitsOf w 41 40, bitsOf w 39 28⟩)
  | 0x223 => some (.msync t (hdrOf w))
  | _ => none

/-- An instruction of the V stream of tile `t`. -/
def vectorOf (t w x : Nat) : Option Instr :=
  let a := vArgsOf t w x false
  match bitsOf w 63 54 with
  | 0x320 =>
    if w.testBit 43 then some (.vsetvl t (hdrOf w) (bitsOf w 47 45) true 0 (bitsOf w 33 19))
    else some (.vsetvl t (hdrOf w) (bitsOf w 47 45) false (bitsOf w 42 19) 0)
  | 0x321 => some (.vsync t (hdrOf w))
  | 0x322 => some (.vadd a)
  | 0x323 => some (.vsub a)
  | 0x324 => some (.vmul a)
  | 0x325 => some (.vfma a)
  | 0x326 => some (.vmax a)
  | 0x327 => some (.vmin a)
  | 0x328 => some (.vcmp a)
  | 0x329 => some (.vsel a)
  | 0x32A => some (.vand a)
  | 0x32B => some (.vor a)
  | 0x32C => some (.vxor a)
  | 0x32D => some (.vshl a)
  | 0x32E => some (.vshr a)
  | 0x330 => some (.vcvt a)
  | 0x331 => some (.vpack a)
  | 0x332 => some (.vunpack a)
  | 0x334 => some (.vperm a)
  | 0x335 => some (.vshuf a)
  | 0x336 => some (.vpatch (vArgsOf t w x true) (bitsOf w 27 15) (bitsOf w 14 13) (bitsOf w 12 8))
  | 0x338 => some (.vred a)
  | 0x339 => some (.vsfu a)
  | 0x33A => some (.smx1 a)
  | 0x33B => some (.smx2 a)
  | 0x33C => some (.rowstat a)
  | 0x33D => some (.sample a)
  | 0x33E => some (.vgrain a)
  | 0x340 => some (.tmask a)
  | _ => none

/-- The instruction that a word, with the word after it, names in stream `st`. -/
def vpcRead (st : StreamId) (w x : Nat) : Option Instr :=
  if w / 2 ^ 62 ≠ (match st with | .tile _ s => s | .cue _ => 0) then none
  else if bitsOf w 61 54 < 0x20 then commonOf st w
  else match st with
    | .cue k => cueOf k w
    | .tile t s => match s with
      | 0 => moveOf t w x
      | 1 => moveOf t w x
      | 2 => matrixOf t w x
      | _ => vectorOf t w x

/-- Translation of the instruction at the head of some words (R80–R82, R98): the instruction and its length. An opcode's form, its
reserved fields and its operands must be as the manual gives them. -/
def vpcTake (st : StreamId) : List Nat → Option (Instr × Nat)
  | [] => none
  | w :: rest =>
    match vpcRead st w (rest.headD 0) with
    | none => none
    | some i =>
      let ws := vpcWords i
      if i.wf && ws == (w :: rest).take ws.length then some (i, ws.length) else none

/-! ### Programs -/

/-- The instructions of a program with the index of their first word, or the index of the first word that does not translate. -/
def vpcProgram (st : StreamId) : Nat → Nat → List Nat → Except Nat (List (Nat × Instr))
  | 0, _, _ => .ok []
  | fuel + 1, at', ws =>
    if ws.isEmpty then .ok []
    else match vpcTake st ws with
      | none => .error at'
      | some (i, n) => match vpcProgram st fuel (at' + n) (ws.drop n) with
        | .ok l => .ok ((at', i) :: l)
        | .error e => .error e

/-- The branch target of an instruction. -/
def targetOf : Instr → Option Nat
  | .loop _ _ _ tg _ => some tg
  | .jump _ _ tg => some tg
  | .br _ _ _ _ tg => some tg
  | _ => none

/-- The words that may follow an instruction: its target, and the word after it, but for a JUMP without the end-of-frame marker
(R178). -/
def successors (p : Nat × Instr) : List Nat :=
  match p.2 with
  | .jump _ h tg => if h.eof then [tg, p.1 + 1] else [tg]
  | .loop _ _ _ tg _ => [tg, p.1 + 1]
  | .br _ _ _ _ tg => [tg, p.1 + 1]
  | i => [p.1 + (vpcWords i).length]

/-- A word index with the output format and layout in force there. -/
abbrev OutAt := Nat × Nat × Nat

/-- Follow the program from some words; the answer lists every word reached with the settings in force (R178). -/
def outWalk (code : List (Nat × Instr)) : Nat → List OutAt → List OutAt → List OutAt
  | 0, _, seen => seen
  | _ + 1, [], seen => seen
  | fuel + 1, x :: todo, seen =>
    if seen.contains x then outWalk code fuel todo seen
    else match code.find? (·.1 == x.1) with
      | none => outWalk code fuel todo seen
      | some (_, .mout _) => outWalk code fuel todo (x :: seen)
      | some p => outWalk code fuel ((successors p).map (fun y => (y, x.2)) ++ todo) (x :: seen)

/-- Is a pass that issues with output format and layout of `x` allowed (R178)? -/
def passAllowed (code : List (Nat × Instr)) (x : OutAt) : Bool :=
  match code.find? (·.1 == x.1) with
  | some (_, .mmul a) => outputFmt (operandPair a.fmt a.afmt == some true) x.2.2 x.2.1
  | some (_, .mmula _) => outputFmt false x.2.2 x.2.1
  | _ => true

/-- The index of a pass that could issue with an output format its accumulator does not allow (R178). -/
def outputFault (code : List (Nat × Instr)) : Option Nat :=
  let mouts := code.filterMap fun p => match p.2 with
    | .mout a => some ((p.1 + 1, a.fmt, a.olay) : OutAt)
    | _ => none
  let seen := outWalk code (4 * (code.length + 1) * (mouts.length + 1)) ((0, 0, 0) :: mouts) []
  (seen.filter fun x => !passAllowed code x).foldl (fun a x => some (match a with | some b => min b x.1 | none => x.1)) none

/-- Translation of a whole program: the index of the first virtual word refused, if any (R97, R98, R178). Every word is decoded before any
target is looked at, so a later word that does not decode is reported before an earlier bad TARGET (DESIGN CHOICE, log entry 19). -/
def programFault (st : StreamId) (ws : List Nat) : Option Nat :=
  if 4096 < ws.length then some 4096
  else match vpcProgram st (ws.length + 1) 0 ws with
    | .error e => some e
    | .ok code =>
      match code.find? fun p => match targetOf p.2 with | some tg => !code.any (·.1 == tg) | none => false with
      | some p => some p.1
      | none => outputFault code

end Sys2Proof.Machine
end

