-- ==== Sys2Proof/Machine/Jobs.lean ====
section
/-! DEFINITION. JOB_LOAD_REEL (R45, R46, R93–R99, R159, R230, R391), JOB_START and JOB_STOP (R370, R387), CMAP_READ (R370). -/

namespace Sys2Proof.Machine

/-! ### The reel (R93) -/

/-- A directory entry (Table: Section entry). -/
structure Section where
  typ : Nat
  modl : Nat
  unit : Nat
  off : Nat
  len : Nat
  rsv : Nat
deriving DecidableEq, Repr

/-- Directory entry `i` of a reel or an image. -/
def sectionAt (r : List Byte) (i : Nat) : Section :=
  let b := (r.drop (256 + 32 * i)).take 32
  ⟨field b 0 4, field b 4 2, field b 6 2, field b 8 8, field b 16 8, field b 24 8⟩

/-- Does the directory lie inside? -/
def directoryFits (r : List Byte) (n : Nat) : Bool := decide (256 + 32 * n ≤ r.length)

/-- The content of a section. -/
def Section.bytes (x : Section) (r : List Byte) : List Byte := (r.drop x.off).take x.len

/-- The 64-bit words of some bytes. -/
def wordsOf (bs : List Byte) : List Nat := (pieces 8 bs).map leNat

/-- A file with 32 bytes at `off` taken as zero. -/
def blanked (r : List Byte) (off : Nat) : List Byte := r.take off ++ List.replicate 32 0 ++ r.drop (off + 32)

/-- Are `n` bytes at `off` zero? -/
def zeros (r : List Byte) (off n : Nat) : Bool := ((r.drop off).take n).all (· == 0)

/-- FRM_LEN as R21 asks. -/
def frmLenOk (n : Nat) : Bool := n % 1024 == 0 && decide (4096 ≤ n ∧ n ≤ 16777216)

/-- Check 1 of R95. A reel shorter than its header fails it (DESIGN CHOICE, log entry 63: R95 names no check for it). -/
def reelHead (r : List Byte) : Bool :=
  decide (256 ≤ r.length) && field r 0 4 == 0x4C454552 && field r 4 2 == 1 && zeros r 0x0E 2 && zeros r 0x15 3 && zeros r 0x80 96 &&
    frmLenOk (field r 0x10 4) && decide (field r 0x14 1 ≤ 16)

/-- Check 3: the part (R2). -/
def State.geometryOk (s : State) (r : List Byte) : Bool :=
  field r 6 2 == s.grade && field r 0x0A 1 == 16 && field r 0x0B 1 == s.cols && field r 0x0C 2 == 128

/-- The stream of a code section. -/
def Section.stream (x : Section) : StreamId := if x.typ = 0x10 then .cue x.unit else .tile x.unit (x.typ - 1)

/-- A code section. -/
def Section.isCode (x : Section) : Bool := decide (1 ≤ x.typ ∧ x.typ ≤ 4) || x.typ == 0x10

/-- The runs of an initial-scratchpad section, or the index of the first that breaks the encoding. -/
def runsOf : Nat → Nat → List Byte → Except Nat (List (Nat × List Byte))
  | 0, i, bs => if bs.isEmpty then .ok [] else .error i
  | fuel + 1, i, bs =>
    if bs.isEmpty then .ok []
    else
      let o := field bs 0 4
      let n := field bs 4 4
      let p := 8 + (n + 3) / 4 * 4
      if bs.length < 8 || n == 0 || decide (0x180000 < o + n) || decide (bs.length < p) || !zeros bs (8 + n) (p - 8 - n) then .error i
      else match runsOf fuel (i + 1) (bs.drop p) with
        | .ok l => .ok ((o, (bs.drop 8).take n) :: l)
        | .error e => .error e

/-- The entries of a preset section: global address and value. -/
def presetsOf (bs : List Byte) : List (Nat × Nat) := (pieces 16 bs).map fun e => (field e 0 8, field e 8 8)

/-- May a preset name this address? -/
def State.presetOk (s : State) (g : Nat) : Bool := gSpace g == 7 || (gSpace g == 3 && decide (gTile g < s.numTiles))

/-- The word, run or entry at which a section that this module loads fails; `some 0` where no such item names it (R95 check 6). -/
def State.sectionFault (s : State) (r : List Byte) (earlier : List Section) (x : Section) : Option Nat :=
  let bs := x.bytes r
  let again (p : Section → Bool) : Bool := earlier.any fun y => y.modl == s.position && p y
  let bad (b : Bool) : Option Nat := if b then some 0 else none
  if x.isCode then
    if x.len % 8 ≠ 0 || decide ((if x.typ = 0x10 then 8 else s.numTiles) ≤ x.unit) || again (fun y => y.typ == x.typ && y.unit == x.unit) then
      some 0
    else programFault x.stream (wordsOf bs)
  else match x.typ with
    | 0x20 => bad (decide (65760 < x.len) || again (·.typ == 0x20))
    | 0x40 => bad (decide (0x8000 < x.len) || again (·.typ == 0x40))
    | 0x41 => bad (decide (0x20000 < x.len) || again (·.typ == 0x41))
    | 0x30 =>
      if s.numTiles ≤ x.unit then some 0
      else match runsOf (x.len + 1) 0 bs with | .error e => some e | .ok _ => none
    | _ =>
      if x.len % 16 ≠ 0 then some 0
      else (presetsOf bs).findIdx? fun e => !s.presetOk e.1

/-- Check 6 of R95: the failing entry and item. A directory that does not lie inside the reel is reported as entry 0 (DESIGN CHOICE, log
entry 63: R95 gives no entry for it). -/
def State.directoryFault (s : State) (r : List Byte) : Option (Nat × Nat) :=
  let n := field r 0x1C 4
  if !directoryFits r n then some (0, 0)
  else
    let xs := (List.range n).map (sectionAt r)
    xs.zipIdx.findSome? fun (x : Section × Nat) =>
      if x.1.rsv != 0 || decide (r.length < x.1.off + x.1.len) || !([1, 2, 3, 4, 0x10, 0x20, 0x30, 0x40, 0x41, 0x50].contains x.1.typ) then
        some (x.2, 0)
      else if x.1.modl == s.position then (s.sectionFault r (xs.take x.2) x.1).map fun i => (x.2, i)
      else none

/-- Where a load is refused. -/
structure ReelFault where
  status : Nat
  step : Nat
  entry : Nat
  item : Nat
deriving DecidableEq, Repr

/-- The checks of R95 in order. -/
def State.reelFault (s : State) (r : List Byte) : Option ReelFault :=
  let p := s.chip.part
  if !reelHead r then some ⟨0x0103, 1, 0, 0⟩
  else if sha256 (blanked r 0xE0) != (r.drop 0xE0).take 32 then some ⟨0x0401, 2, 0, 0⟩
  else if !s.geometryOk r then some ⟨0x0103, 3, 0, 0⟩
  else if field r 8 2 != p.modules || (r.drop 0x20).take 32 != padTo 32 p.manifestDigest || (r.drop 0x40).take 32 != padTo 32 p.depthDigest then
    some ⟨0x0103, 4, 0, 0⟩
  else if p.translator < field r 0x18 4 then some ⟨0x0103, 5, 0, 0⟩
  else (s.directoryFault r).map fun (e : Nat × Nat) => ⟨0x0103, 6, e.1, e.2⟩

/-! ### Loading -/

/-- The native words of a program (R97, R99). -/
def nativeCode (st : StreamId) (ws : List Nat) : List Byte :=
  let firsts : List Nat := match vpcProgram st (ws.length + 1) 0 ws with | .ok code => code.map fun (p : Nat × Instr) => p.1 | .error _ => []
  ws.zipIdx.flatMap fun (w : Nat × Nat) =>
    let v := BitVec.ofNat 64 w.1
    if firsts.contains w.2 then leBytes 8 (w.1 / 2 ^ 54 * 2 ^ 54 + (Config.nativeBits v).toNat * 64 + w.1 % 64)
    else leBytes 8 (Config.nativeExt v).toNat

/-- The whole of sprocket bank A: the image, and zero where it covers nothing or no table lies (R45, R46). -/
def loadSprocket (img : List Byte) : Tx := fun s =>
  let base := s.spkBase 0
  [.mem (sprocketKey base) ((padTo 65760 img).zipIdx.map fun (b : Byte × Nat) => if s.spkDead (base + b.2) then 0 else b.1)]

/-- A table image into a bank of space 5 of every tile, with fresh check bits. -/
def loadBank (off : State → Nat → Nat) (size : Nat) (img : List Byte) : Tx := fun s => forEach s.tileList (fun t => fun _ =>
  [.mem (memKey 5 t (off s t)) (padTo size img), .err (memKey 5 t (off s t)) (List.replicate size 0)]) s

/-- Does the LIVE roll carry a codebook section (R159)? -/
def State.liveCodebooks (s : State) : Bool := match s.live with | some x => !(s.roll x).cbData.isEmpty | none => false

/-- Load a section. -/
def loadSection (r : List Byte) (x : Section) : Tx :=
  let bs := x.bytes r
  match x.typ with
  | 0x10 => skip
  | 0x20 => skip
  | 0x30 => match runsOf (x.len + 1) 0 bs with
    | .ok runs => forEach runs fun u => wrBytes 0 x.unit u.1 u.2 false 0
    | .error _ => skip
  | 0x40 => loadBank (fun _ _ => 0x40000) 0x8000 bs
  | 0x41 => whenS (fun s => !s.liveCodebooks) (loadBank (fun s t => 0x20000 * s.rf (R.WPA_CB_STAT t) F.WPA_CB_STAT_ACTIVE) 0x20000 bs)
  | 0x50 => forEach (presetsOf bs) fun e => writeReg (gKey e.1) (BitVec.ofNat 64 e.2)
  | _ => fun _ => [.mem (memKey 2 x.unit ((x.typ - 1) * 0x8000)) (nativeCode x.stream (wordsOf bs))]

/-- The streams of a tile for which the reel has code (R72). -/
def enabledBy (xs : List Section) (t : Nat) : Nat :=
  ((List.range 4).filter fun k => xs.any fun x => x.typ == k + 1 && x.unit == t).foldl (fun a k => a + 2 ^ k) 0

/-- A reel that passes its checks is loaded. STREAM_EN is set before the presets, so a preset that names STR_CTL stands (DESIGN CHOICE, log
entry 63: R72 gives no order). -/
def loadReel (r : List Byte) : Tx := fun s =>
  let xs := ((List.range (field r 0x1C 4)).map (sectionAt r)).filter (·.modl == s.position)
  chain [
    setTw R.FRM_LEN (field r 0x10 4), setF R.FRM_MAINT_SLICE F.FRM_MAINT_SLICE_FRAC (field r 0x14 1),
    loadSprocket (((xs.find? (·.typ == 0x20)).map (·.bytes r)).getD []),
    forEach s.tileList fun t => setF (R.STR_CTL t) F.STR_CTL_STREAM_EN (enabledBy xs t),
    forEach xs (loadSection r),
    modChip fun c => { c with
      reel := some r, translated := c.part.translator, restored := none
      cues := mapStore {} (fun x => { ({} : CueS) with inq := x.inq, cur := x.cur, owed := x.owed }) c.cues },
    setRegN R.AUD_XLATE_VER s.chip.part.translator, noteBitKey, settleClap] s

/-- The reel that a JOB_LOAD_REEL names. -/
def State.reelOf (s : State) (c : Cmd) : List Byte :=
  if c.w4.toNat.testBit 0 then (s.chip.reelStore.find? (·.1 == c.w4.toNat / 256 % 32)).elim [] (·.2)
  else s.hostBytes c.w2.toNat c.w3.toNat

/-- JOB_LOAD_REEL. -/
def jobLoadReelTx (c : Cmd) : Tx := fun s =>
  let stored := c.w4.toNat.testBit 0
  let r := s.reelOf c
  if !s.isManager || s.running || stored != (c.w2 == 0) then postReply c 0x0103 0 0 s
  else match s.reelFault r with
    | some e => postReply c e.status e.entry (e.step * 2 ^ 26 + min e.item 0xFFFF * 2 ^ 10 + s.position) s
    | none => chain [
        loadReel r,
        when (c.w4.toNat.testBit 1) (modChip fun ch =>
          let slot := c.w4.toNat / 256 % 32
          { ch with reelStore := (slot, r) :: ch.reelStore.filter (·.1 != slot) }),
        postReply c 0 0 0] s

/-- JOB_LOAD_REEL; a buffer that passes the top of the host's address space goes on at 0. -/
def execJobLoadReel (c : Cmd) (s : State) : Out :=
  commit (onStart c (jobLoadReelTx c)) s

/-! ### JOB_START and JOB_STOP -/

/-- Does slot `n`'s result area meet R373? -/
def State.areaOk (s : State) (n : Nat) : Bool :=
  let g := (s.reg (R.HIF_REQ_AREA_1 n)).toNat
  let k := s.rf (R.HIF_REQ_AREA_2 n) F.HIF_REQ_AREA_2_RES_GRAN
  gSpace g == 0 && gMod g == s.position && g % 256 == 0 && decide (1 ≤ k ∧ k ≤ 63)

/-- Is CLK_CUR.STEP the same on every module of the domain (R418)? What the other modules' registers hold is open: a free value (log entry 9). -/
def State.stepsEqual (s : State) : Bool := decide (s.chip.part.modules ≤ 1) || s.free.toNat.testBit 0

/-- Does JOB_START pass its checks (R21, R63, R306, R322, R373, R386, R418)? -/
def State.startOk (s : State) : Bool :=
  let skew := s.rf R.FRM_SKEW_MAX F.FRM_SKEW_MAX_CYCLES
  s.chip.reel.isSome && frmLenOk s.frmLen &&
    decide (s.rf R.FRM_REALIGN_THRESH F.FRM_REALIGN_THRESH_CYCLES + s.clapD * s.rf R.FRM_STRETCH_MAX F.FRM_STRETCH_MAX_CYCLES ≤ skew) &&
    decide (skew ≤ 8192) && s.tw R.FAB_JOB_PKEY % 65536 != 0 &&
    ((List.range (s.rf R.HIF_ADM F.HIF_ADM_NSLOT)).all s.areaOk) && decide (s.treeDepth ≤ s.clapDelay) && s.stepsEqual

/-- The twin-written registers that the checks of a start use (R10). -/
def startUses : Tx := chain [twUse R.FRM_LEN, twUse R.FAB_JOB_PKEY]

/-- The job starts: RUN is 1, and the start clap is called, for which the module prepares itself (R245, R387). -/
def startJob (cmd : Option Cmd) : Tx := chain [setF R.FRM_CTL F.FRM_CTL_RUN 1, callClap 0 0 cmd, settleClap]

/-- JOB_START, which is answered when frame 0 begins on the module. -/
def jobStartTx (c : Cmd) : Tx := fun s =>
  if !s.isManager || s.running then postReply c 0x0103 0 0 s
  else chain [startUses, if s.startOk then startJob (some c) else postReply c 0x0103 0 0, bumpFree] s

/-- JOB_START. -/
def execJobStart (c : Cmd) (s : State) : Out := commit (onStart c (jobStartTx c)) s

/-- JOB_STOP: frames stop at the next tick. -/
def jobStopTx (c : Cmd) : Tx := fun s =>
  if !s.isManager then postReply c 0x0103 0 0 s
  else if !s.running then postReply c 0 0 0 s
  else modChip (fun ch => { ch with halting := true, haltCmds := ch.haltCmds ++ [c] }) s

/-- JOB_STOP. -/
def execJobStop (c : Cmd) (s : State) : Out := commit (onStart c (jobStopTx c)) s

/-! ### CMAP_READ (R326, R370) -/

/-- The block of a module's congestion map. -/
def cmapBlock (pos epoch : Nat) (bin : Nat → Nat) : List Byte :=
  padTo 8704 (padTo 16 (leBytes 2 pos ++ leBytes 2 0 ++ leBytes 4 epoch) ++ (List.range 112).flatMap (fun w => leBytes 4 (bin w)) ++
    (List.range 2048).flatMap fun w => leBytes 4 (bin (128 + w)))

/-- The bins of this module in a gathered map, or those of another. -/
def State.cmapBin (s : State) (pos epoch : Nat) (ws : List (Nat × Nat)) (w : Nat) : Nat :=
  if pos = s.position then (ws.find? (·.1 == w)).elim 0 (·.2) else (Config.cmapOther pos epoch w).toNat

/-- CMAP_READ. -/
def cmapReadTx (c : Cmd) : Tx := fun s =>
  let n := s.chip.part.modules
  let e := c.w4.toNat % 0x100000000
  if !s.isManager || decide (c.w3.toNat < 8704 * n) then postReply c 0x0103 0 0 s
  else match (if e = 0 then s.chip.cmaps.head? else s.chip.cmaps.find? (·.1 == e)) with
    | none => postReply c 0x0301 0 0 s
    | some m => chain [
        hostWrite c.w2.toNat ((List.range n).flatMap fun p => cmapBlock p m.1 (s.cmapBin p m.1 m.2)),
        postReply c 0 0 0] s

/-- CMAP_READ; a buffer that passes the top of the host's address space goes on at 0. -/
def execCmapRead (c : Cmd) (s : State) : Out :=
  commit (onStart c (cmapReadTx c)) s

end Sys2Proof.Machine
end

