-- ==== Sys2Proof/Machine/Capture.lean ====
section
/-! DEFINITION. Context save and restore (R258, R404–R410). The image's header and directory are the spec's; the bytes inside a
section are the model's own layout of the content that R407 lists. -/

namespace Sys2Proof.Machine

/-! ### Content of the sections (R407) -/

/-- Registers of tile `t` that section 0x0101 holds whole: STR_PC, counters, comparators, adapter slots and table, KVC_STAGE, VEC_VL,
GRN_MODE, GRN_BEAT. -/
def ctxKeys (t : Nat) : List Nat :=
  (List.range 4).map (R.STR_PC t) ++ ((List.range 4).flatMap fun k => (List.range 8).map (R.STR_CNT t k)) ++
    ((List.range 4).flatMap fun k => (List.range 4).map (R.STR_CMP t k)) ++ (List.range 16).map (R.MXA_ADP_SLOT t) ++
    (List.range 32).map (R.MXA_ADP_TBL_0 t) ++ (List.range 32).map (R.MXA_ADP_TBL_1 t) ++ (List.range 64).map (R.KVC_STAGE t) ++
    [R.VEC_VL t, R.GRN_MODE t, R.GRN_BEAT t]

/-- Twin-written registers of tile `t` that it holds: the words of KVC_DESC. -/
def ctxTwins (t : Nat) : List Nat := (List.range 64).flatMap fun d => [R.KVC_DESC_0 t d, R.KVC_DESC_1 t d, R.KVC_DESC_2 t d]

/-- A register's word. -/
def State.regBytes (s : State) (k : Nat) : List Byte := leBytes 8 (s.reg k).toNat

/-- Section 0x0101: STREAM_EN, the codebook and SFU table selectors, the grain banks' state (ACTIVE, FILLED, seed, number), then
the registers. -/
def State.ctxTile (s : State) (t : Nat) : List Byte :=
  leBytes 8 (s.rf (R.STR_CTL t) F.STR_CTL_STREAM_EN) ++ leBytes 8 (s.tw (R.WPA_CB_SEL t)) ++ leBytes 8 (s.tw (R.SFU_TBL_SEL t)) ++
    leBytes 8 (s.grainActive t + 2 * s.rf (R.GRN_STAT t) F.GRN_STAT_FILLED_A + 4 * s.rf (R.GRN_STAT t) F.GRN_STAT_FILLED_B) ++
    ([0, 1].flatMap fun b => s.regBytes (R.GRN_BANK_0 t b) ++ s.regBytes (R.GRN_BANK_1 t b) ++ s.regBytes (R.GRN_BANK_2 t b)) ++
    (ctxKeys t ++ ctxTwins t).flatMap s.regBytes

/-- The granules of tile `t` that an image holds: the full ones, and those of AUD_CTX_KEEP. -/
def State.ctxGranules (s : State) (t : Nat) : List Nat :=
  let first := s.rf R.AUD_CTX_KEEP F.AUD_CTX_KEEP_FIRST
  let n := s.rf R.AUD_CTX_KEEP F.AUD_CTX_KEEP_COUNT
  (List.range 6144).filter fun g => s.isFull t g || decide (first ≤ g ∧ g < first + n)

/-- The bytes of a read and a byte of its lines' poison for each 64. -/
def poisonOf (bs : List PByte) : List Byte := (pieces 64 bs).map fun l => if ppoison l then 1 else 0

/-- A granule: index, run length 1, full/empty bit, poison of its four lines, data. -/
def State.ctxGranule (s : State) (t g : Nat) : List Byte :=
  let bs := s.rd 0 t (256 * g) 256
  leBytes 4 g ++ leBytes 4 1 ++ [if s.isFull t g then 1 else 0] ++ padTo 7 (poisonOf bs) ++ pdata bs

/-- Tier line offsets of descriptor `d` that an image holds: committed entries, then the 16 staging slots. -/
def KvDesc.lines (k : KvDesc) : List Nat :=
  ((List.range (k.len * k.e)).map fun i => 64 * (k.base + i)) ++ (List.range (16 * k.e)).map fun i => 64 * (k.stg + i)

/-- The VALID descriptors of tile `t`. -/
def State.ctxDescs (s : State) (t : Nat) : List Nat := (List.range 64).filter fun d => (s.tw (R.KVC_DESC_0 t d)).testBit 24

/-- A descriptor's entries: index, lines, and for each line its data and poison. -/
def State.ctxDesc (s : State) (t d : Nat) : List Byte :=
  let ls := (s.kvDesc t d).lines
  leBytes 8 d ++ leBytes 8 ls.length ++ ls.flatMap fun o =>
    let bs := s.rd 1 t o 64
    pdata bs ++ padTo 8 (poisonOf bs)

/-- Space 5 of tile `t` as its decoders deliver it. -/
def State.ctxTables (s : State) (t : Nat) : List Byte :=
  (List.range 0xA000).flatMap fun w => leBytes 8 (s.fixedWord (memKey 5 t (8 * w)))

/-- A landing-queue entry: destination offset, write mode, poison, whether another module sent it, source, length, data. -/
def ctxLanding (l : Landing) : List Byte :=
  leBytes 4 l.off ++ leBytes 1 l.wm ++ leBytes 1 l.poison.toNat ++ leBytes 1 l.inbound.toNat ++ [0] ++
    leBytes 2 l.srcMod ++ leBytes 2 l.ttag ++ leBytes 4 l.data.length ++ l.data

/-- Section 0x0110: FRM_LAG, ROL_ACTIVE, the descriptors, ROL_ADP_ROOT. -/
def State.ctxChip (s : State) : List Byte :=
  s.regBytes R.FRM_LAG ++ leBytes 8 (s.tw R.ROL_ACTIVE) ++
    ([0, 1].flatMap fun x => (List.range 10).flatMap fun w => s.regBytes (descKey x w)) ++
    (List.range 32).flatMap fun e => s.adpRoot e

/-- An open request of section 0x0111 (64 bytes and CHAIN). -/
def ctxSlot (frame : Nat) (x : Slot) : List Byte :=
  leBytes 2 x.slot ++ leBytes 2 x.queue ++ leBytes 2 x.pkey ++ leBytes 1 x.crec.toNat ++ leBytes 1 x.complete.toNat ++ leBytes 8 x.tag ++
    leBytes 8 x.aFrame ++ leBytes 8 (x.aFrame + x.n - frame) ++ leBytes 8 x.records ++ padTo 32 (x.chain.take 32)

/-- Section 0x0112: counts, outbound trackers (TTAG, destination, TLEN, issuing stream), inbound trackers. -/
def State.ctxTrackers (s : State) : List Byte :=
  let out := s.chip.xfers.filter (·.tracked)
  leBytes 8 out.length ++ leBytes 8 s.chip.inbound.length ++
    (out.flatMap fun x => leBytes 2 x.ttag ++ leBytes 2 x.dstMod ++ leBytes 4 x.tlen ++ leBytes 2 x.tile ++ leBytes 2 x.stream ++ leBytes 4 0) ++
    s.chip.inbound.flatMap fun i => leBytes 2 i.srcMod ++ leBytes 2 i.ttag ++ leBytes 2 i.tlen ++ leBytes 2 i.srcTile ++ leBytes 4 i.bytes ++
      leBytes 2 i.stream ++ leBytes 2 i.ce.toNat

/-- This module's sections: type, position, unit, content. -/
def State.ctxSections (s : State) : List (Nat × Nat × Nat × List Byte) :=
  let p := s.position
  (s.tileList.flatMap fun t => [
    (0x101, p, t, s.ctxTile t), (0x102, p, t, (s.ctxGranules t).flatMap (s.ctxGranule t)),
    (0x103, p, t, (s.ctxDescs t).flatMap (s.ctxDesc t)), (0x104, p, t, s.ctxTables t),
    (0x105, p, t, (s.tile t).landing.flatMap ctxLanding)]) ++
  [(0x110, p, 0, s.ctxChip), (0x111, p, 0, (s.chip.slots.filter Slot.open).flatMap (ctxSlot s.frame)), (0x112, p, 0, s.ctxTrackers)]

/-! ### The image (R406) -/

/-- Header (Table: Context header), IMAGE_DIGEST zero. -/
def State.ctxHeader (s : State) (n : Nat) : List Byte :=
  padTo 256 (leBytes 4 0x58544352 ++ leBytes 2 1 ++ leBytes 2 s.grade ++ leBytes 2 s.chip.part.modules ++ leBytes 1 16 ++ leBytes 1 s.cols ++
    leBytes 2 128 ++ leBytes 2 0 ++ leBytes 8 s.frame ++ s.regBytes R.AUD_BITKEY ++ padTo 32 s.reelDigest ++ padTo 32 s.liveRoot ++
    leBytes 4 s.frmLen ++ leBytes 4 n)

/-- The directory of sections whose content begins at `off`. -/
def ctxDirectory : Nat → List (Nat × Nat × Nat × List Byte) → List Byte
  | _, [] => []
  | off, (typ, m, u, bs) :: xs =>
    leBytes 4 typ ++ leBytes 2 m ++ leBytes 2 u ++ leBytes 8 off ++ leBytes 8 bs.length ++ leBytes 8 0 ++ ctxDirectory (off + bs.length) xs

/-- The image with its digest. -/
def State.ctxImage (s : State) (others : List (Nat × Nat × Nat × List Byte)) : List Byte :=
  let xs := s.ctxSections ++ others
  let img := s.ctxHeader xs.length ++ ctxDirectory (256 + 32 * xs.length) xs ++ xs.flatMap (·.2.2.2)
  img.take 0xC0 ++ sha256 img ++ img.drop 0xE0

/-- Sections of the other modules of the domain (log entry 9). -/
def State.ctxOthers (s : State) : List (Nat × Nat × Nat × List Byte) :=
  if s.chip.part.modules = 1 then [] else Config.ctxOther s.free

/-- What the reads of a save record (R126). -/
def noteSave : Tx := fun s => forEach s.tileList (fun t => chain [
  forEach (s.ctxGranules t) (fun g => noteRead 0 t (256 * g) 256 s.chip.fcyc),
  forEach (s.ctxDescs t) fun d => forEach (s.kvDesc t d).lines fun o => noteRead 1 t o 64 s.chip.fcyc]) s

/-! ### CTX_SAVE (R404, R405) -/

/-- CTX_SAVE: a capture frame is announced. -/
def ctxSaveTx (c : Cmd) : Tx := fun s =>
  if !s.isManager || !s.running || s.chip.armedRoll.isSome || s.reg R.ROL_SWITCH_FRAME != 0 ||
      [0, 1].any (fun x => [1, 3, 5].contains (s.descState x)) then
    postReply c 0x0103 0 0 s
  else chain [rouse 8, setF R.AUD_STAT F.AUD_STAT_SAVING 1, announceCapture false c] s

/-- CTX_SAVE; a buffer that passes the top of the host's address space goes on at 0. While an earlier capture is open the command waits (DESIGN
CHOICE, log entry 61). -/
def execCtxSave (c : Cmd) (s : State) : Out :=
  commit (whenS (fun s => s.chip.capture.isNone) (onStart c (ctxSaveTx c))) s

/-- Does no flit remain in the module's routers, links and receive buffers? -/
def State.drained (s : State) : Bool :=
  s.chip.flits.isEmpty && s.chip.ports.all fun p => p.2.rx.isEmpty && p.2.asm.isEmpty && p.2.late.isEmpty && p.2.tx.isEmpty && p.2.queue.isEmpty

/-- The manager writes the image, or its header where it would exceed BYTES, and answers CTX_SAVE. -/
def writeImage (c : Cmd) : Tx := fun s =>
  let img := s.ctxImage s.ctxOthers
  chain [
    noteSave, bumpFree,
    if c.w3.toNat < img.length then chain [
      hostWrite c.w2.toNat ((img.take 256).take c.w3.toNat),
      postReply c 0x0103 ((img.length + 0xFFFFF) / 0x100000) 0]
    else chain [hostWrite c.w2.toNat img, postReply c 0 0 0],
    setF R.AUD_STAT F.AUD_STAT_SAVING 0] s

/-- CAPTURE_DRAINED: the image is written, and a resume clap continues the job. -/
def captureDrainedTx : Tx := fun s =>
  if s.chip.hold != some .capture || s.chip.parked || s.chip.clap.isSome || !s.drained then []
  else chain [
    forEach (s.tiles.map (·.1)) (fun t => modTile t fun ts => { ts with avail := [] }),
    (match s.chip.capture with | some ⟨_, _, some c⟩ => writeImage c | _ => skip),
    modChip fun ch => { ch with capture := ch.capture.map fun k => { k with cmd := none } },
    whenS State.isManager callResume] s

/-- CAPTURE_DRAINED. -/
def execCaptureDrained (s : State) : Out := commit captureDrainedTx s

/-! ### CTX_RESTORE (R409, R410) -/

/-- Sections of an image. -/
def ctxEntries (img : List Byte) : List Section := (List.range (field img 0x64 4)).map (sectionAt img)

/-- Does an image's directory and every section lie inside it? -/
def ctxInside (img : List Byte) : Bool :=
  decide (256 ≤ img.length) && directoryFits img (field img 0x64 4) && (ctxEntries img).all fun x => decide (x.off + x.len ≤ img.length)

/-- An image's length: the end of its last section. -/
def ctxLength (img : List Byte) : Nat :=
  (ctxEntries img).foldl (fun a x => max a (x.off + x.len)) (256 + 32 * field img 0x64 4)

/-- The section of a type and unit of this module. -/
def State.ctxSection (s : State) (img : List Byte) (typ unit : Nat) : List Byte :=
  ((ctxEntries img).find? fun x => x.typ == typ && x.modl == s.position && x.unit == unit).elim [] fun x => x.bytes img

/-- The checks of R409 in order: a refusal's status. -/
def State.ctxCheck (s : State) (img : List Byte) : Option Nat :=
  if s.running || field img 0 4 != 0x58544352 || field img 4 2 != 1 || !ctxInside img ||
      sha256 (blanked (img.take (ctxLength img)) 0xC0) != (img.drop 0xC0).take 32 then some 0x0103
  else if field img 6 2 != s.grade || field img 8 2 != s.chip.part.modules || field img 0x0A 1 != 16 || field img 0x0B 1 != s.cols ||
      field img 0x0C 2 != 128 then some 0x0701
  else if field img 0x18 8 != (s.reg R.AUD_BITKEY).toNat then some 0x0702
  else if (img.drop 0x20).take 32 != padTo 32 s.reelDigest || s.live.isNone || (img.drop 0x40).take 32 != padTo 32 s.liveRoot ||
      (s.ctxSection img 0x110 0).drop 176 != (List.range 32).flatMap s.adpRoot then some 0x0103
  else none

/-- Cut records, each of the length its first bytes say. -/
def cutRecords (size : List Byte → Nat) : Nat → List Byte → List (List Byte)
  | 0, _ => []
  | fuel + 1, bs => if bs.isEmpty then [] else bs.take (size bs) :: cutRecords size fuel (bs.drop (size bs))

/-- Records of a section. -/
def recordsOf (size : List Byte → Nat) (bs : List Byte) : List (List Byte) := cutRecords size bs.length bs

/-- The grain banks of tile `t` as section 0x0101 holds them: bank `b`'s source where it was filled. -/
def ctxBank (sec : List Byte) (b : Nat) : Option GrainSrc :=
  if (field sec 24 8).testBit (1 + b) then some ⟨field sec (32 + 24 * b) 8, field sec (40 + 24 * b) 8, field sec (48 + 24 * b) 8⟩ else none

/-- The recorded banks are filled again and the recorded one is selected (R258). -/
def restoreGrain (img : List Byte) : Tx := chain [
  finishFills,
  forEach [0, 1] fun b => chain [
    look fun s => forEach s.tileList fun t => chain [
      setF (R.GRN_STAT t) (grnFilled b) 0,
      match ctxBank (s.ctxSection img 0x101 t) b with
      | some g => modTile t fun ts => { ts with fill := some ⟨b, g, 0, some (s.nsAfter 1032)⟩ }
      | none => skip],
    finishFills],
  look fun s => forEach s.tileList fun t =>
    let a := field (s.ctxSection img 0x101 t) 24 8 % 2
    chain [setTw (R.GRN_TBL_SEL t) a, setF (R.GRN_STAT t) F.GRN_STAT_ACTIVE a, setF (R.GRN_STAT t) F.GRN_STAT_PENDING 0]]

/-- A table selector and its active bank take a saved value. -/
def restoreSel (sel stat v : Nat) : Tx := chain [setTw sel v, setF stat F.SFU_STAT_ACTIVE (v % 2), setF stat F.SFU_STAT_PENDING 0]

/-- Section 0x0101 of tile `t`, grain banks apart. -/
def restoreTile (t : Nat) (sec : List Byte) : Tx :=
  let w (i : Nat) := field sec (80 + 8 * i) 8
  chain [
    setF (R.STR_CTL t) F.STR_CTL_STREAM_EN (field sec 0 8),
    restoreSel (R.WPA_CB_SEL t) (R.WPA_CB_STAT t) (field sec 8 8), restoreSel (R.SFU_TBL_SEL t) (R.SFU_STAT t) (field sec 16 8),
    forEach (ctxKeys t).zipIdx (fun x => setRegN x.1 (w x.2)),
    forEach (ctxTwins t).zipIdx fun x => setTw x.1 (w ((ctxKeys t).length + x.2) % 0x100000000)]

/-- A granule of section 0x0102. -/
def restoreGranule (t : Nat) (r : List Byte) : Tx :=
  let g := field r 0 4
  chain [
    forEach (List.range 4) (fun l => wrBytes 0 t (256 * g + 64 * l) ((r.drop (16 + 64 * l)).take 64) (r.getD (9 + l) 0 != 0) 0),
    setFull t g (r.getD 8 0 != 0)]

/-- A descriptor's lines of section 0x0103. -/
def restoreDesc (t : Nat) (r : List Byte) : Tx := fun s =>
  forEach (s.kvDesc t (field r 0 8)).lines.zipIdx (fun x =>
    let l := (r.drop (16 + 72 * x.2)).take 72
    tierWriteLine t x.1 (l.take 64) (l.getD 64 0 != 0) 0) s

/-- A landing-queue entry of section 0x0105; entries from this module's own transfers belong to transfer `xid`. -/
def ctxLandingOf (xid : Nat) (r : List Byte) : Landing :=
  ⟨field r 0 4, (r.drop 16).take (field r 12 4), field r 4 1, r.getD 5 0 != 0, if r.getD 6 0 != 0 then 0 else xid, field r 8 2,
    field r 10 2, r.getD 6 0 != 0⟩

/-- The granules that some landing entries are to fill, with the bytes each awaits. -/
def landingGrans (ls : List Landing) : List (Nat × Nat) :=
  ls.foldl (fun a l => (awaited l.off l.data.length).foldl (fun b g =>
    Sparse.set (fun _ => 0) g.1 (Sparse.get (fun _ => 0) b g.1 + g.2) b) a) []

/-- Is a landing-queue entry read data of another module, for an outbound tracker? -/
def Landing.read (pos : Nat) (l : Landing) : Bool := !l.inbound && l.srcMod != pos

/-- Section 0x0105 of tile `t`: the entries wait again, in order. Those of transfers inside the module count in one transfer. -/
def restoreLanding (t : Nat) (bs : List Byte) : Tx := fun s =>
  let ls := (recordsOf (fun r => 16 + field r 12 4) bs).map (ctxLandingOf s.chip.nextId)
  let own := ls.filter fun l => !l.inbound && !l.read s.position
  chain [
    modTile t fun ts => { ts with landing := ls },
    when (!own.isEmpty) (newXfer
      ⟨s.chip.nextId, 512, 4, s.position, t, 0, (own.map (·.data.length)).foldl (· + ·) 0, 0, landingGrans own, false, 0, own.length⟩)] s

/-- What the chip holds of the roll with a root, which names its content (R341). -/
def State.rollOf (s : State) (root : List Byte) : RollS := match s.byRoot root with | some x => s.roll x | none => {}

/-- Section 0x0110: FRM_LAG, ROL_ACTIVE, the descriptors with their states, roots, masks and BOUND; what the chip holds of a roll, and the
tiles that it serves, go with its root (DESIGN CHOICE, log entry 36). The section's ROL_ADP_ROOT is the chip's (R409). -/
def restoreChip (sec : List Byte) : Tx := fun s =>
  let w (x i : Nat) := field sec (16 + 80 * x + 8 * i) 8
  let root (x : Nat) := (sec.drop (16 + 80 * x + 8)).take 32
  let moved (x : Nat) : Nat := (([0, 1].find? fun y => w y 0 % 8 != 0 && root y == s.descRoot x).getD x)
  chain [
    setRegN R.FRM_LAG (field sec 0 8), setTw R.ROL_ACTIVE (field sec 8 8),
    modChip fun c => { c with rollA := s.rollOf (root 0), rollB := s.rollOf (root 1) },
    forEach s.tileList fun t => modTile t fun ts => { ts with serving := ts.serving.map moved, servNext := none },
    forEach [0, 1] fun x => forEach (List.range 10) fun i => setRegN (descKey x i) (w x i)] s

/-- An open request of section 0x0111: no deadline is kept (R410); its adapter is that of its adapter slot; its arrival
and INPUT digest are not in the image: free values. -/
def restoreSlot (fc : Nat) (r : List Byte) : Tx := fun s =>
  let n := field r 0 2
  let k := R.MXA_ADP_SLOT 0 (n % 16)
  let fv (i : Nat) : Nat := (Config.freeValue (s.chip.freeCtr + i)).toNat
  let x : Slot :=
    { slot := n, tag := field r 8 8, queue := field r 2 2, pkey := field r 4 2, crec := r.getD 6 0 != 0, aFrame := field r 16 8
      n := fc + field r 24 8 - field r 16 8, arrival := fv 0, dueNs := 0, timed := false
      adpEn := s.rb R.HIF_ADM F.HIF_ADM_ADP && s.rf k F.MXA_ADP_SLOT_PKEY != 0, adpEntry := s.rf k F.MXA_ADP_SLOT_ENTRY
      desc := s.live.getD 0, input := [1, 2, 3, 4].flatMap fun i => leBytes 8 (fv i), chain := (r.drop 40).take 32
      records := field r 32 8, complete := r.getD 7 0 != 0, ended := false, drained := false, fullFrame := 0, fullNs := 0 }
  modChip (fun c => { c with slots := c.slots ++ [x], freeCtr := c.freeCtr + 5 }) s

/-- What a full result area of a restored request held: when it became full is not in the image. -/
def freeTimes : Tx := fun s => chain [
  modChip fun c => { c with slots := c.slots.map fun x =>
    { x with fullFrame := (Config.freeValue (s.chip.freeCtr + 2 * x.slot)).toNat
             fullNs := (Config.freeValue (s.chip.freeCtr + 2 * x.slot + 1)).toNat } },
  modChip fun c => { c with freeCtr := c.freeCtr + 512 }] s

/-- The saved tracker `r` of an outbound transfer, as transfer `id`: a READ's has the bytes of its landing entries to count, or all of them
where none of its data had come. -/
def State.trackerOf (s : State) (id : Nat) (r : List Byte) : Xfer :=
  let t := field r 8 2
  let own := field r 2 2 == s.position
  let ls := (s.tile t).landing.filter fun l => l.read s.position && l.ttag == field r 0 2
  let left := (ls.map (·.data.length)).foldl (· + ·) 0
  ⟨id, t, field r 10 2, field r 2 2, if own then t else 0, field r 0 2, if own && left != 0 then left else 64 * field r 4 4, 0,
    if own then landingGrans ls else [], true, 0, field r 4 4⟩

/-- Section 0x0112: the trackers, with the landing entries that count in them. -/
def restoreTrackers (bs : List Byte) : Tx := fun s =>
  let n := field bs 0 8
  let m := field bs 8 8
  let waiting (src tag : Nat) : List Landing := s.tiles.flatMap fun u => u.2.landing.filter fun l => l.inbound && l.srcMod == src && l.ttag == tag
  let out := (List.range n).map fun i => s.trackerOf (s.chip.nextId + i) ((bs.drop (16 + 16 * i)).take 16)
  let inb := (List.range m).map fun i =>
    let r := (bs.drop (16 + 16 * n + 16 * i)).take 16
    (⟨s.tw R.FAB_JOB_PKEY % 65536, field r 0 2, field r 2 2, field r 4 2, field r 8 4, r.getD 14 0 != 0, landingGrans (waiting (field r 0 2) (field r 2 2)),
      field r 12 2, field r 6 2⟩ : Inbound)
  chain [
    modChip fun c => { c with xfers := c.xfers ++ out, inbound := inb, nextId := c.nextId + n },
    forEach out fun x => modTile x.tile fun ts => { ts with
      landing := ts.landing.map fun l => if l.read s.position ∧ l.ttag = x.ttag then { l with xid := x.id } else l },
    noteTrackers] s

/-- A passing restore writes every section (R410). As at a JOB_START, FRM_STRETCH_CNT and FRM_MAINT_SHORT_CNT are cleared (DESIGN CHOICE,
log entry 63: R67 names JOB_START only). -/
def writeContext (img : List Byte) : Tx := fun s =>
  let fc := field img 0x10 8
  let sec (typ t : Nat) : List Byte := s.ctxSection img typ t
  chain [
    freshJob, restoreGrain img,
    forEach s.tileList (fun t => restoreTile t (sec 0x101 t)),
    forEach (recordsOf (fun _ => 72) (sec 0x111 0)) (restoreSlot fc), noteOpen,
    forEach s.tileList (fun t => chain [
      forEach (recordsOf (fun _ => 272) (sec 0x102 t)) (restoreGranule t),
      forEach (recordsOf (fun r => 16 + 72 * field r 8 8) (sec 0x103 t)) (restoreDesc t),
      (fun _ => [.mem (memKey 5 t 0) (sec 0x104 t), .err (memKey 5 t 0) (List.replicate (sec 0x104 t).length 0)]),
      restoreLanding t (sec 0x105 t)]),
    freeTimes, restoreChip (sec 0x110 0), restoreTrackers (sec 0x112 0),
    modChip fun c => { c with restored := some fc }] s

/-- The job does not start after all. -/
def dropJob (c : Cmd) : Tx := chain [
  putBack, setF R.FRM_CTL F.FRM_CTL_RUN 0, setF R.AUD_STAT F.AUD_STAT_RESTORING 0, postReply c 0x0103 0 0]

/-- CTX_RESTORE: the context is written, and frame F_C begins by a restore clap. -/
def ctxRestoreTx (c : Cmd) : Tx := fun s =>
  let img := s.hostBytes c.w2.toNat c.w3.toNat
  if !s.isManager then postReply c 0x0103 0 0 s
  else match s.ctxCheck img with
    | some st => postReply c st 0 0 s
    | none => chain [
        rouse 8, setF R.AUD_STAT F.AUD_STAT_RESTORING 1,
        keepBefore (writeContext img), startUses,
        look fun s' => if s'.startOk then chain [keepBefore jobVotes, callClap 3 (field img 0x10 8) (some c), selfReady] else dropJob c, bumpFree] s

/-- CTX_RESTORE; a buffer that passes the top of the host's address space goes on at 0. -/
def execCtxRestore (c : Cmd) (s : State) : Out :=
  commit (onStart c (ctxRestoreTx c)) s

end Sys2Proof.Machine
end

