-- ==== Sys2Proof/Machine/Cue.lean ====
section
/-! DEFINITION. Cue-only instructions (R78, R90–R92, R374, R399, R401). -/

namespace Sys2Proof.Machine

/-- Word `i` of a command's first slot (Table: Command packet). -/
def cmdWord (c : Cmd) (i : Nat) : Word :=
  match i with
  | 0 => BitVec.ofNat 64 (c.opcode + c.len * 2 ^ 16 + c.pkey * 2 ^ 32 + c.fence.toNat * 2 ^ 48 + c.crec.toNat * 2 ^ 49)
  | 1 => c.tag
  | 2 => c.w2
  | 3 => c.w3
  | 4 => c.w4
  | 5 => c.w5
  | 6 => c.w6
  | _ => c.w7

/-- The 64 bytes of a command's first slot. -/
def cmdSlot (c : Cmd) : List Byte := (List.range 8).flatMap fun i => leBytes 8 (cmdWord c i).toNat

/-- A cue stream's status of the last admission or range check. -/
def setStatus (k st : Nat) : Tx := modCue k fun x => { x with status := st }

/-- The codes that a reply may carry: Table: Status codes without REREAD (R368). -/
def statusCodes : List Nat := [0x0000, 0x0101, 0x0102, 0x0103, 0x0104, 0x0201, 0x0202, 0x0203, 0x0301, 0x0401, 0x0402, 0x0403, 0x0404,
  0x0501, 0x0601, 0x0602, 0x0701, 0x0702, 0x0801, 0x0802, 0x0803, 0x0804, 0x0805, 0x0806, 0x0807]

/-- The code that is returned where a cue program asks for `st`: one that the table does not list is never returned (R368); the
model answers PARAM_RANGE in its place (DESIGN CHOICE, log entry 50). -/
def replyCode (st : Nat) : Nat := if statusCodes.contains st then st else 0x0103

/-- The current command is answered, once (R365). -/
def cueAnswer (k st : Nat) : Tx := fun s =>
  match (s.cue k).cur with
  | some c => if (s.cue k).owed then chain [modCue k (fun x => { x with owed := false }), postReply c (replyCode st) 0 0] s else []
  | none => []

/-- A target that a cue instruction may not name: nothing is written and the command is answered (R91). -/
def cueRefuse (k : Nat) : Tx := chain [setStatus k 0x0103, cueAnswer k 0x0103]

/-! ### CUE_NEXT -/

/-- CUE_NEXT. Every command is answered (R365): one still owed its reply gets the status of the last check before the next takes
its place (DESIGN CHOICE, log entry 50). -/
def cueNextTx (k : Nat) (h : Hdr) : Tx :=
  issue (.cue k) h (.cueNext k h) fun s c =>
    { cyc := c, ready := !(s.cue k).inq.isEmpty
      go := chain [cueAnswer k (s.cue k).status,
        modCue k fun x => { x with cur := x.inq.head?, owed := true, inq := x.inq.tail }] }

/-- CUE_NEXT. -/
def execCueNext (k : Nat) (h : Hdr) (s : State) : Out := instruction (.cueNext k h) (.cue k) (cueNextTx k h) s

/-! ### CUE_WR and CUE_INJECT -/

/-- The address that command word `aw` names. -/
def State.cueAddr (s : State) (k aw : Nat) : Nat := match (s.cue k).cur with | some c => (cmdWord c aw).toNat | none => 0

/-- May CUE_WR write there (R91)? -/
def State.cueWrOk (s : State) (g : Nat) : Bool := gMod g == s.position && (gSpace g == 3 || gSpace g == 7) && !s.badAddr g

/-- May CUE_INJECT write there (R91)? -/
def State.cueInjectOk (s : State) (g : Nat) : Bool := gMod g == s.position && gSpace g == 0 && !s.badAddr g

/-- The effect of CUE_WR. -/
def cueWrite (k aw vw : Nat) : Tx := fun s =>
  match (s.cue k).cur with
  | none => []
  | some c =>
    let g := (cmdWord c aw).toNat
    let v := cmdWord c vw
    if !s.cueWrOk g then cueRefuse k s
    else chain [
      setStatus k 0, asWriter k (writeReg (gKey g) v),
      when s.running (recordEntry ⟨2, k, s.frame, 0, g, v.toNat, 0, []⟩)] s

/-- CUE_WR. -/
def cueWrTx (k : Nat) (h : Hdr) (aw vw : Nat) : Tx :=
  issue (.cue k) h (.cueWr k h aw vw) fun s c =>
    { cyc := c, ready := !(s.running && s.recStalls 64), blocked := noteStall, go := cueWrite k aw vw }

/-- CUE_WR. -/
def execCueWr (k : Nat) (h : Hdr) (aw vw : Nat) (s : State) : Out := instruction (.cueWr k h aw vw) (.cue k) (cueWrTx k h aw vw) s

/-- The payload of the current command. -/
def State.cueInput (s : State) (k : Nat) : List Byte := match (s.cue k).cur with | some c => s.reqInput c | none => []

/-- The audit engine hashes INPUT while the cue stream reads the payload (R397): of an admitted request, the bytes that are injected. -/
def noteInput (k : Nat) (c : Cmd) : Tx := fun s =>
  when (s.cue k).admitted (modSlot (c.w7.toNat % 256) fun x => { x with input := sha256 (s.reqInput c) }) s

/-- The effect of CUE_INJECT. -/
def cueInjectData (k aw wm : Nat) : Tx := fun s =>
  match (s.cue k).cur with
  | none => []
  | some c =>
    let g := (cmdWord c aw).toNat
    if !s.cueInjectOk g then cueRefuse k s
    else chain [
      setStatus k 0, injectData k g wm (s.cueInput k), noteInput k c,
      when s.running (recordEntry ⟨3, k, s.frame, 0, g, wm, 0, s.cueInput k⟩)] s

/-- CUE_INJECT. -/
def cueInjectTx (k : Nat) (h : Hdr) (aw wm : Nat) : Tx :=
  issue (.cue k) h (.cueInject k h aw wm) fun s c =>
    { cyc := c, ready := !(s.running && s.recStalls (64 + pad64 (s.cueInput k).length)), blocked := noteStall, go := cueInjectData k aw wm }

/-- CUE_INJECT. -/
def execCueInject (k : Nat) (h : Hdr) (aw wm : Nat) (s : State) : Out :=
  instruction (.cueInject k h aw wm) (.cue k) (cueInjectTx k h aw wm) s

/-! ### CUE_ADMIT -/

/-- Does the frame cycle counter run? -/
def State.counts (s : State) : Bool := s.running && !s.frozen && s.chip.hold.isNone

/-- The state as it stands at frame cycle `c`. -/
def State.at_ (s : State) (c : Nat) : State := if s.counts then run (elapseTo c) s else s

/-- VALUE of an ADMIT entry. -/
def admitValue (c : Cmd) (n : Nat) : Nat :=
  n + c.queue * 2 ^ 8 + reqAdp c * 2 ^ 21 + (reqAdpEn c).toNat * 2 ^ 26 + c.crec.toNat * 2 ^ 27

/-- The request is accepted into slot `n` (R374). -/
def cueAccept (k : Nat) (c : Cmd) (n : Nat) : Tx := fun s => chain [
  acceptSlot (s.slotOf c n c.crec true (s.cueInput k)),
  modCue k fun x => { x with
    cur := some { c with w6 := s.reg (R.HIF_REQ_AREA_0 n), w7 := BitVec.ofNat 64 (n + s.frame * 256) }
    admitted := true, status := 0 },
  recordEntry ⟨4, k, s.frame, 0, 0, admitValue c n, c.tag.toNat, cmdSlot c⟩] s

/-- The admission check at frame cycle `cyc`. -/
def cueAdmission (k cyc : Nat) : Tx := fun s =>
  match (s.cue k).cur with
  | none => modCue k (fun x => { x with admitted := false }) s
  | some c =>
    match (s.at_ cyc).admitCheck c, s.freeSlot with
    | none, some n => cueAccept k c n s
    | st, _ => modCue k (fun x => { x with admitted := false, status := st.getD 0x0202 }) s

/-- CUE_ADMIT. -/
def cueAdmitTx (k : Nat) (h : Hdr) : Tx :=
  issue (.cue k) h (.cueAdmit k h) fun s c =>
    { cyc := c, ready := !(s.running && s.recStalls 128), blocked := noteStall
      go := chain [twUse R.ROL_ACTIVE, twUse R.FRM_LEN, twUse R.CLK_STEP, setCmp (.cue k) 3 10 0 1, cueAdmission k c] }

/-- CUE_ADMIT. -/
def execCueAdmit (k : Nat) (h : Hdr) (s : State) : Out := instruction (.cueAdmit k h) (.cue k) (cueAdmitTx k h) s

/-! ### CUE_REPLY, CUE_RUN, CUE_HALT -/

/-- CUE_REPLY. -/
def cueReplyTx (k : Nat) (h : Hdr) (st : Nat) : Tx :=
  issue (.cue k) h (.cueReply k h st) fun s c =>
    { cyc := c, go := cueAnswer k (if st = 0xFFFF then (s.cue k).status else st) }

/-- CUE_REPLY. -/
def execCueReply (k : Nat) (h : Hdr) (status : Nat) (s : State) : Out :=
  instruction (.cueReply k h status) (.cue k) (cueReplyTx k h status) s

/-- CUE_RUN. -/
def cueRunTx (k : Nat) (h : Hdr) : Tx :=
  issue (.cue k) h (.cueRun k h) fun s c =>
    { cyc := c
      go := if !s.isManager || s.running then setStatus k 0x0103
        else chain [startUses, if s.startOk then chain [setStatus k 0, startJob none] else setStatus k 0x0103, bumpFree] }

/-- CUE_RUN. -/
def execCueRun (k : Nat) (h : Hdr) (s : State) : Out := instruction (.cueRun k h) (.cue k) (cueRunTx k h) s

/-- CUE_HALT. -/
def cueHaltTx (k : Nat) (h : Hdr) : Tx :=
  issue (.cue k) h (.cueHalt k h) fun s c =>
    { cyc := c, ready := !(s.running && s.recStalls 64), blocked := noteStall
      go := if !s.isManager then setStatus k 0x0103
        else chain [setStatus k 0, when s.running (modChip fun ch =>
          { ch with halting := true, haltBy := if ch.halting then ch.haltBy else some k })] }

/-- CUE_HALT. -/
def execCueHalt (k : Nat) (h : Hdr) (s : State) : Out := instruction (.cueHalt k h) (.cue k) (cueHaltTx k h) s

end Sys2Proof.Machine
end

