-- ==== Sys2Proof/Machine/Issue.lean ====
section
/-! DEFINITION. STALL_RELEASE (R56): a stream that stalled goes on once what it waits for is there. -/

namespace Sys2Proof.Machine

/-- What an instruction of a stream does when it issues; other commands are no instructions. -/
def instrTx (i : Instr) : Tx :=
  match i with
  | .idle st h cyc => idleTx st h cyc
  | .cset st h ctr v => csetTx st h ctr v
  | .loop st h ctr target limit => loopTx st h ctr target limit
  | .jump st h target => jumpTx st h target
  | .cmpset st h cmp src rel v => cmpsetTx st h cmp src rel v
  | .br st h cmp sense target => brTx st h cmp sense target
  | .waitc st h cmp sense => waitcTx st h cmp sense
  | .frameEnd t h => frameEndTx t h
  | .cwaitg t h gm gran => cwaitgTx t h gm gran
  | .dcpy a => dcpyTx a
  | .dmov a => dmovTx a
  | .dgset t h first count v => dgsetTx t h first count v
  | .dfence t h => dfenceTx t h
  | .kvCommit a => kvCommitTx a
  | .cueNext k h => cueNextTx k h
  | .cueWr k h aw vw => cueWrTx k h aw vw
  | .cueInject k h aw wm => cueInjectTx k h aw wm
  | .cueAdmit k h => cueAdmitTx k h
  | .cueReply k h st => cueReplyTx k h st
  | .cueRun k h => cueRunTx k h
  | .cueHalt k h => cueHaltTx k h
  | .mmul a => passTx a false
  | .mmula a => passTx a true
  | .mout a => moutTx a
  | .msync t h => msyncTx t h
  | .vsetvl t h gm mode vlm1 line => vsetvlTx t h gm mode vlm1 line
  | .vsync t h => vsyncTx t h
  | .vadd a => vTx i .add a
  | .vsub a => vTx i .sub a
  | .vmul a => vTx i .mul a
  | .vfma a => vTx i .fma a
  | .vmax a => vTx i .max a
  | .vmin a => vTx i .min a
  | .vcmp a => vTx i .cmp a
  | .vsel a => vTx i .sel a
  | .vand a => vTx i .and a
  | .vor a => vTx i .or a
  | .vxor a => vTx i .xor a
  | .vshl a => vTx i .shl a
  | .vshr a => vTx i .shr a
  | .vcvt a => vTx i .cvt a
  | .vpack a => vTx i .pack a
  | .vunpack a => vTx i .unpack a
  | .vperm a => vTx i .perm a
  | .vshuf a => vTx i .shuf a
  | .vpatch a w cm1 pm1 => vTx i (.patch w cm1 pm1) a
  | .vred a => vTx i .red a
  | .vsfu a => vTx i .sfu a
  | .smx1 a => vTx i .smx1 a
  | .smx2 a => vTx i .smx2 a
  | .rowstat a => vTx i .rowstat a
  | .sample a => vTx i .sample a
  | .tmask a => vTx i .tmask a
  | .vgrain a => vTx i .grain a
  | _ => skip

/-- The instructions behind a released one issue in order while the stream may issue; the rest wait on. -/
def issueRest (st : StreamId) (i : Instr) : Tx := fun s =>
  if s.canIssue st && (s.waitq st).isEmpty then instrTx i s else setWaitq st (s.waitq st ++ [i]) s

/-- The operations of the stream's tile whose operands have come run. -/
def runOperations (st : StreamId) : Tx :=
  match st with
  | .tile t 2 => readPasses t
  | .tile t 3 => runVops t
  | _ => skip

/-- STALL_RELEASE. A front instruction that still waits stays in front; a refetch that it could not ask for before is asked for again
(R122). -/
def stallReleaseTx (st : StreamId) : Tx := fun s =>
  chain [
    whenS State.released (runOperations st),
    fun s' => match s'.waitq st with
      | [] => []
      | i :: rest =>
        if !s'.canIssue st then []
        else
          let t : Tx := (setWaitq st []).seq (instrTx i)
          if !((run t s').waitq st).isEmpty then t.seq (setWaitq st (i :: rest)) s'
          else (t.seq (forEach rest (issueRest st))) s'] s

/-- STALL_RELEASE. -/
def execStallRelease (st : StreamId) (s : State) : Out := if s.streamOk st then commit (stallReleaseTx st) s else .refused .illFormed

end Sys2Proof.Machine
end

