-- ==== Sys2Proof/Machine/Service.lean ====
section
/-! DEFINITION. Firmware replacement (R457–R459), the management bus (R481), manager takeover (R460–R462), trigger pins (R467) and the
test access port (R468). -/

namespace Sys2Proof.Machine

/-! ### Firmware (R457–R459) -/

/-- The management firmware image that runs: 0 A, 1 B. -/
def State.fwRunning (s : State) : Nat := s.rf R.MOD_BOOT F.MOD_BOOT_RUNNING

/-- The management bus answers (R481). -/
def pldmReply (r : PldmCode) : Tx := modChip fun c => { c with pldmReplies := c.pldmReplies ++ [r] }

/-- A transaction of the management bus: it is served while there is standby power, and wakes what has dropped (R439, R481). -/
def onBus (tx : Tx) : Tx := whenS State.powered ((accessWake 3).seq tx)

/-- FW_UPDATE: the inactive image is written to SPI NOR and to the vault; an image that fails its digest is not taken into use, which is
reported (R457). -/
def fwUpdateTx (image digest : List Byte) : Tx := fun s =>
  let bad := sha256 image != digest
  modChip (fun c =>
    let c : Chip := { c with fwBad := bad, pldmReplies := c.pldmReplies ++ [if bad then .verificationFailed else .success] }
    if s.fwRunning = 0 then { c with fwB := image, vaultFwB := image } else { c with fwA := image, vaultFwA := image }) s

/-- FW_UPDATE. -/
def execFwUpdate (image digest : List Byte) (s : State) : Out := commit (onBus (fwUpdateTx image digest)) s

/-- Is a command or a change under way that refuses activation (R459)? -/
def State.fwBlocked (s : State) : Bool :=
  s.chip.load.isSome || s.rb R.AUD_STAT F.AUD_STAT_SAVING || s.rb R.AUD_STAT F.AUD_STAT_RESTORING ||
    s.rb R.AUD_REPLAY_CTL F.AUD_REPLAY_CTL_REPLAYING || s.chip.retire.isSome ||
    (s.isManager && (match s.chip.clap with | some c => c.rem.isNone | none => false))

/-- FW_ACTIVATE: the other image runs and is preferred at the next boot; nothing else of the module changes. An activation that R459
refuses, or of an image that failed its digest, is answered as blocked. -/
def fwActivateTx : Tx := fun s =>
  if s.chip.fwBad || s.fwBlocked then pldmReply .activationBlocked s
  else
    let n := 1 - s.fwRunning
    chain [pldmReply .success, setF R.MOD_BOOT F.MOD_BOOT_RUNNING n, setF R.MOD_BOOT F.MOD_BOOT_PREFER n] s

/-- FW_ACTIVATE. -/
def execFwActivate (s : State) : Out := commit (onBus fwActivateTx) s

/-- The reading of numeric sensor `n` (R481; the numbers are the model's, log entry 69): thermal sensors 0 to 71 in quarter degrees, rails 72 to
79 in mV, VIN in 10 mV, the input power in W. What a rail measures within its tolerance is open: a free value. -/
def State.pldmReading (s : State) (n : Nat) : Option Int :=
  if n < 72 then s.sensorValue n
  else if n < 80 then (if n < 76 ∧ s.chip.mainUp = false then some 0 else some (s.free.toNat : Int))
  else if n = 80 then some (s.rf R.PWR_IN F.PWR_IN_VOLTS : Int)
  else if n = 81 then some (s.rf R.PWR_IN F.PWR_IN_POWER : Int)
  else none

/-- PLDM_MESSAGE (R463, R481): a message that is served; one whose length or a field is out of range has no effect and is answered
ERROR_INVALID_DATA, one of the two answers that R463 allows. -/
def pldmMessageTx (m : PldmMsg) : Tx := fun s =>
  match m with
  | .bad => pldmReply .errorInvalidData s
  | .served => pldmReply .success s
  | .sensor n => if n < 82 then chain [pldmReply (.reading (s.pldmReading n)), bumpFree] s else pldmReply .errorInvalidData s
  | .assign a => modChip (fun c => { c with i3cAddr := some (a % 128) }) s
  | .identify => pldmReply (.provisionedId s.chip.part.provId) s

/-- PLDM_MESSAGE. -/
def execPldmMessage (m : PldmMsg) (s : State) : Out := commit (onBus (pldmMessageTx m)) s

/-! ### Takeover (R460–R462) -/

/-- The module's role: 0 worker, 1 manager, 2 standby. -/
def State.role (s : State) : Nat := s.rf R.MOD_ROLE F.MOD_ROLE_ROLE

/-- HEARTBEAT: the manager sends one a millisecond after the last; the standby notes one that arrives. -/
def heartbeatTx : Tx := fun s =>
  if s.isManager then chain [
    elapseToNs (s.chip.heartbeatNs + 1000000),
    modChip fun c => { c with heartbeatNs := c.ns },
    match s.chip.part.standbyPos with | some p => sendMgmt 0 p | none => skip] s
  else when (s.role == 2) (modChip fun c => { c with heartbeatNs := c.ns }) s

/-- HEARTBEAT. -/
def execHeartbeat (s : State) : Out := commit (whenS State.powered heartbeatTx) s

/-- What the old manager had under way ends on this module: a load fails under R346, a save and a clap that collects READY fail;
commands of the old manager never reply. An announced park frame takes effect as armed. -/
def dropOldWork : Tx := chain [
  look fun s => match s.chip.load with | some l => abandonLoad l | none => skip,
  modChip fun c => { c with loadWait := [] },
  setF R.AUD_STAT F.AUD_STAT_SAVING 0,
  whenS (fun s => match s.chip.clap with | some c => c.rem.isNone | none => false) leaveClap,
  modChip fun c => { c with
    clap := c.clap.map fun x => { x with cmd := none }
    capture := (c.capture.filter fun x => c.parked || x.park).map fun x => { x with cmd := none } }]

/-- A former manager's commands that have not replied never do (R461), not the fetched ones that have yet to start either; a test that runs
goes on unanswered: its command names a queue that there is not. -/
def forgetCommands : Tx := modChip fun c => { c with
  fetched := [], started := [], haltCmds := [], replayCmd := none
  test := c.test.map fun x => { x with cmd := { x.cmd with queue := 8192 } } }

/-- MANAGER_TAKEOVER: 3 ms after the last heartbeat the standby becomes the manager, tells every module, and retries a clap that was
collecting READY. A former manager never is one again before the next boot (R462). -/
def managerTakeoverTx : Tx := fun s =>
  if s.role != 2 || s.chip.wasManager then []
  else
    let retry := s.chip.clap.filter fun c => c.rem.isNone
    let held := s.chip.hold == some .capture && !s.chip.parked
    chain [
      elapseToNs (s.chip.heartbeatNs + 3000000),
      setF R.MOD_ROLE F.MOD_ROLE_ROLE 1, setF R.MOD_ROLE F.MOD_ROLE_TAKEN_OVER 1,
      dropOldWork,
      modChip fun c => { c with part := { c.part with managerPos := s.position, standbyPos := none } },
      forEach ((List.range s.chip.part.modules).filter (· != s.position)) (sendMgmt 1),
      (match retry with
        | some c => chain [
            setF R.AUD_CLAP_STAT F.AUD_CLAP_STAT_TIMEOUT 1, setF R.AUD_CLAP_STAT F.AUD_CLAP_STAT_MISSING (s.missing c),
            callClap c.sub c.frame none, selfReady]
        | none => when held callResume)] s

/-- MANAGER_TAKEOVER. -/
def execManagerTakeover (s : State) : Out := commit (whenS State.powered managerTakeoverTx) s

/-- TAKEOVER_MESSAGE: tokens are accepted from the new manager only; a former manager becomes the standby, and its commands that
have not replied never do. -/
def takeoverMessageTx (p : Nat) : Tx := fun s =>
  let was := s.isManager
  chain [
    when was (setF R.MOD_ROLE F.MOD_ROLE_ROLE 2), setF R.MOD_ROLE F.MOD_ROLE_TAKEN_OVER 1,
    when was forgetCommands,
    when was (modChip fun c => { c with
      load := c.load.map fun l => { l with ask := { l.ask with own := false } }
      loadWait := [] }),
    dropOldWork,
    modChip fun c => { c with
      part := { c.part with managerPos := p, standbyPos := if was then some s.position else none }
      wasManager := c.wasManager || was }] s

/-- TAKEOVER_MESSAGE. -/
def execTakeoverMessage (newMgr : Nat) (s : State) : Out := commit (whenS State.powered (takeoverMessageTx newMgr)) s

/-! ### Debug access -/

/-- TRIGGER_EDGE: a filtered rising edge on pin `n` does what DBG_TRIG names, where the pin is an input (R467). -/
def triggerEdgeTx (n : Nat) : Tx := fun s =>
  let k := R.DBG_TRIG n
  let stops := s.running && !s.frozen
  if s.rb k F.DBG_TRIG_DIR then []
  else match s.rf k F.DBG_TRIG_ACT with
    | 1 => when stops (chain [freezeSoon s.chip.fcyc false, setF R.DBG_STAT F.DBG_STAT_TRIG_FREEZE 1]) s
    | 2 => when stops (chain [freezeSoon s.chip.fcyc true, setF R.DBG_STAT F.DBG_STAT_TRIG_FREEZE 1]) s
    | 3 => setRegN R.DBG_TRIG_TIME s.chip.ns s
    | _ => []

/-- TRIGGER_EDGE. -/
def execTriggerEdge (n : Nat) (s : State) : Out := if n < 4 then commit (triggerEdgeTx n) s else .refused .illFormed

/-- JTAG_INSTRUCTION: 0 BYPASS, 1 IDCODE, 2 SAMPLE/PRELOAD, 3 EXTEST, 4 CLAMP, 5 HIGHZ; another code acts as BYPASS. The last three
act only while RESET_N is asserted; else they act as BYPASS and are counted. -/
def jtagInstructionTx (code : Nat) : Tx := fun s =>
  if code ≤ 2 ∨ (code ≤ 5 ∧ s.chip.inReset) then modChip (fun c => { c with jtag := code }) s
  else chain [
    modChip fun c => { c with jtag := 0 },
    when (decide (code ≤ 5)) (incF R.DBG_STAT F.DBG_STAT_JTAG_REFUSED 1)] s

/-- JTAG_INSTRUCTION. -/
def execJtagInstruction (code : Nat) (s : State) : Out := commit (jtagInstructionTx code) s

end Sys2Proof.Machine
end

