-- ==== Sys2Proof/Machine/Module.lean ====
section
/-! DEFINITION. Power-up, reset, power loss, rail faults and the thermal trip (R474–R476, R483–R488, R490). -/

namespace Sys2Proof.Machine

/-! ### What a reset keeps (R7, R135, R485, R490) -/

/-- Register and lowest bit of the fields that only power-up clears: the counters of the blocks whose rules say so, the extremes
"since power-up", and TRIP, RAIL_FAULT and FAULT_RAIL. -/
def keptFields : List (String × Nat) := [
  ("TIR_ECC_STAT", 16), ("TIR_ECC_STAT", 48), ("TIR_REFETCH_CNT", 0), ("TIR_REFETCH_CNT", 32), ("TIR_REFETCH_CNT", 48), ("SPD_ECC_STAT", 16),
  ("SPD_POISON_CNT", 0), ("SPD_POISON_CNT", 32), ("SPD_BANK_WAIT", 0), ("WPA_CB_STAT", 16), ("WPA_CB_STAT", 32), ("WPA_CB_STAT", 48),
  ("WPA_STAT", 16), ("MXA_BORDER_STAT", 16), ("MXA_BORDER_STAT", 48), ("MXA_REPLAY_CNT", 0), ("MXA_REPLAY_CNT", 32), ("MXA_STAT", 16),
  ("MXA_STAT", 32), ("VEC_STAT", 16), ("SFU_STAT", 32), ("SFU_STAT", 48), ("GRN_STAT", 16), ("GRN_STAT", 32), ("GRN_STAT", 48),
  ("KVC_STAT", 16), ("KVC_STAT", 40), ("MSH_STAT", 16), ("MSH_DEMOTE_CNT", 0), ("FAB_PORT_DROP", 0), ("FAB_PORT_DROP", 16),
  ("FAB_PORT_DROP", 32), ("FAB_PORT_DROP", 48), ("FAB_RETX_CNT", 0), ("FAB_RETX_CNT", 32), ("FAB_TRK_STAT", 32), ("HIF_STAT", 0),
  ("HIF_STAT", 16), ("HIF_STAT", 32), ("HIF_STAT", 48), ("HIF_RESULT_WIN", 0), ("HIF_RESULT_WIN", 32), ("HIF_ADM_STAT", 16),
  ("HIF_ADM_STAT", 40), ("AUD_REPLAY_STAT", 0), ("AUD_REPLAY_STAT", 32), ("AUD_STAT", 16), ("CLK_STAT", 16), ("CLK_CANARY_SLACK", 16),
  ("PWR_STAT", 16), ("PWR_REFUSE_CNT", 0), ("DBG_STAT", 16), ("DBG_TEST_STAT", 32), ("DBG_TEST_STAT", 48), ("MOD_TW_REJECT_CNT", 0),
  ("MOD_STAT", 6), ("MOD_STAT", 7), ("MOD_STAT", 8)]

/-- The bits of register `k` that a reset keeps. MOD_ROLE and MOD_BOOT follow the boot of the management, which a reset does not
repeat. -/
def keptBits (k : Nat) : Word :=
  match regOf k with
  | some r =>
    if r.name == "MOD_ROLE" || r.name == "MOD_BOOT" then ~~~0
    else r.fields.foldl (fun w f => if keptFields.contains (r.name, f.lo) then w ||| fmask f.fld else w) 0
  | none => 0

/-- A register's word after a reset (R7). -/
def afterReset (s : State) (k : Nat) (w : Word) : Word := (w &&& keptBits k) ||| (s.resetTo k &&& ~~~keptBits k)

/-- Every register takes its reset value, what a reset keeps apart. -/
def resetRegisters : Tx := fun s => gradeRegisters s ++ s.regs.map fun x => .reg x.1 (afterReset s x.1 x.2)

/-- Registers of the main group: those of the tiles, and the blocks of the frame, the sprocket store, the mesh, the ports and the
tiers (Table: Power domains, Table: Rails). -/
def mainKey (k : Nat) : Bool := decide (k < 0x20000) || decide (0xA0000 ≤ k)

/-- What a tile keeps: table sources, the repair buffer and the lines it stands for are content (R135). -/
def TileS.kept (ts : TileS) : TileS := { bankA := ts.bankA, bankB := ts.bankB, repair := ts.repair, hardLines := ts.hardLines }

/-- What the chip record keeps: the part, the always-on time, the vault, the management's own state, and what has already left. -/
def Chip.kept (c : Chip) : Chip :=
  { part := c.part, ns := c.ns, nsSub := c.nsSub, mirror := c.mirror, rollStore := c.rollStore, reelStore := c.reelStore
    lastLive := c.lastLive, lastMask := c.lastMask, lastRoll := c.lastRoll, readData := c.readData, window := c.window, msix := c.msix
    sensors := c.sensors, powerSensor := c.powerSensor, samples := c.samples, refBack := c.refBack
    heldDown := if c.mainUp then [] else c.heldDown, i3cAddr := c.i3cAddr, wasManager := c.wasManager
    vin := c.vin, mainUp := c.mainUp, inReset := c.inReset, cold := c.cold, fwA := c.fwA, fwB := c.fwB, vaultFwA := c.vaultFwA
    vaultFwB := c.vaultFwB, fwBad := c.fwBad, heartbeatNs := c.heartbeatNs, mgmtOut := c.mgmtOut, jtag := c.jtag
    pldmReplies := c.pldmReplies, ibis := c.ibis, retMaps := c.retMaps, retSites := c.retSites, calCopies := c.calCopies
    freeCtr := c.freeCtr }

/-- What the chip record holds beside the main group, when that is removed (R476): the queues' commands, power, audit and module state stay;
what the core regions, the tiers and the ports held is gone. -/
def Chip.withoutMain (c : Chip) : Chip :=
  { c with
    fcyc := 0, flits := [], xfers := [], served := [], taken := [], credAt := [], spkPrev := 0, lastTick := 0, armedMaps := none
    inbound := [], ttagNext := 0, rate := [], sent := [], marked := [], histCycles := 0, readCycles := 0, histCount := [], histRead := []
    ports := [], refetch := [], sfuTested := false, noms := [], retire := none, twLast := c.twLast.filter fun p => !mainKey p.1
    freezeHits := [], heldWrites := [], selBy := [], upSeq := none, dropDue := [], refused := []
    before := c.before.map fun b => { b with
      regs := b.regs.filter fun x => !mainKey x.1, mem := [], err := [], poison := [], full := [], tiles := [], xfers := [], inbound := [] }
    mainUp := false, cold := true, heldDown := [2, 3, 4, 5, 6] }

/-- What survives without power: the part with the manifest's assignment, the vault, the SPI NOR, what has already left, a release of RESET_N
that waits, and the model's free-value counter. -/
def Chip.unpowered (c : Chip) : Chip :=
  { part := { c.part with managerPos := c.part.manifestManager, standbyPos := c.part.manifestStandby }
    heldDown := [2, 3, 4, 5, 6], releaseWaits := c.releaseWaits
    mirror := c.mirror, rollStore := c.rollStore, reelStore := c.reelStore, lastLive := c.lastLive, lastMask := c.lastMask
    lastRoll := c.lastRoll, msix := c.msix, inReset := c.inReset, fwA := c.fwA, fwB := c.fwB
    vaultFwA := c.vaultFwA, vaultFwB := c.vaultFwB, mgmtOut := c.mgmtOut, pldmReplies := c.pldmReplies, ibis := c.ibis, retMaps := c.retMaps
    retSites := c.retSites, calCopies := c.calCopies, freeCtr := c.freeCtr, vin := false, mainUp := false }

/-- The maps that a reset puts in effect: the retirement record's, else the fuses' (R291). -/
def State.recordMaps (s : State) : List Nat :=
  s.chip.retMaps.getD (List.replicate 16 (if s.chip.part.grade3207 then Config.rowMap3207Val else rowMapReset))

/-- The logic of the main group, the ports and the host interface are reset; a job ends; memories keep their content. No roll and
no reel is loaded any more. -/
def resetLogic : Tx := chain [
  closeSwitches,
  look fun s => moveSites s.recordMaps,
  resetRegisters,
  look fun s => forEach (s.tiles.map (·.1)) fun t => modTile t TileS.kept,
  fun _ => [.dropFull, .dropQueues, .mem (classKey 0) (List.replicate 0x4000 0)],
  modChip Chip.kept]

/-! ### Reset (R483, R485) -/

/-- MOD_STAT.STEP. -/
def setStep (n : Nat) : Tx := setF R.MOD_STAT F.MOD_STAT_STEP n

/-- RESET_ASSERT: a sequence under way is abandoned, its step 2 stands. -/
def resetAssertTx : Tx := fun s =>
  if !s.chip.vin then modChip (fun c => { c with inReset := true, releaseWaits := none }) s
  else
    let step := s.rf R.MOD_STAT F.MOD_STAT_STEP
    chain [
      resetLogic,
      whenS (fun s => !s.chip.mainUp) (forEach [2, 3, 4, 5, 6] fun d => setDom d 0),
      setStep (if step = 1 then 1 else 2),
      modChip fun c => { c with inReset := true, releaseWaits := none }] s

/-- RESET_ASSERT. -/
def execResetAssert (s : State) : Out := commit resetAssertTx s

/-- The retirement record is applied (R291). -/
def applyRecord : Tx := fun s =>
  match s.chip.retMaps with
  | none => []
  | some maps => chain [
      forEach maps.zipIdx (fun m => setTw (R.MSH_ROWMAP m.2) m.1),
      applyMaps maps,
      forEach s.chip.retSites fun x => fun s' =>
        setF (R.MSH_BAD x.1) F.MSH_BAD_SITES (setBit (s'.rf (R.MSH_BAD x.1) F.MSH_BAD_SITES) x.2 true) s'] s

/-- FAB_MANIFEST_DIGEST shows the SHA-256 of the manifest that the vault holds (R328). -/
def showManifest : Tx := fun s =>
  forEach (List.range 4) (fun w => setRegN (R.FAB_MANIFEST_DIGEST w) (leNat ((s.chip.part.manifestDigest.drop (8 * w)).take 8))) s

/-- The last step that completes at once: steps 7 to 10 wait for the ports. -/
def stepReached (failStep : Nat) : Nat := if failStep = 0 ∨ 7 ≤ failStep then 6 else failStep - 1

/-- Steps 3 to 6; then the enabled ports train, and steps 7 to 10 follow as they do (`advanceUp`, Table: Power-up). A step that fails stops
the sequence with the bypass closed. -/
def powerUp (failStep : Nat) : Tx :=
  let n := stepReached failStep
  chain [
    modChip fun c => { c with inReset := false, releaseWaits := none, mainUp := true, heldDown := [] },
    forEach [2, 3, 4, 5, 6] fun d => setDom d 3,
    look fun s => setB R.MOD_STAT F.MOD_STAT_WARM (!s.chip.cold),
    placeVote 0 0, placeVote 1 0,
    when (decide (5 ≤ n)) (chain [showManifest, applyRecord, bootCal]),
    when (decide (6 ≤ n)) (chain [
      modChip fun c => { c with cold := false, sfuTested := true }, sfuLevels, measureQueues]),
    setStep n, setB R.MOD_STAT F.MOD_STAT_STEP_FAIL (decide (3 ≤ failStep ∧ failStep ≤ 6)),
    when (n == 6) (chain [
      modChip fun c => { c with upSeq := some failStep }, forEach (List.range 14) trainPort, advanceUp])]

/-- Does a trip still hold: it was made, and a valid sensor reads 90 °C or more (R487)? -/
def State.tripHolds (s : State) : Bool :=
  s.rb R.MOD_STAT F.MOD_STAT_TRIP && !s.chip.mainUp &&
    s.chip.sensors.any fun x => x.2.seen && !x.2.failed && decide (360 ≤ x.2.last)

/-- Has a rail fault or a trip removed the main group, with no RESET_N asserted since (R476, R487)? -/
def State.needsReset (s : State) : Bool :=
  (s.rb R.MOD_STAT F.MOD_STAT_RAIL_FAULT || s.rb R.MOD_STAT F.MOD_STAT_TRIP) && !s.chip.mainUp && !s.chip.inReset

/-- The access port once RESET_N is released: EXTEST, CLAMP and HIGHZ act as BYPASS (R468). -/
def releaseJtag : Tx := modChip fun c => { c with jtag := if 2 < c.jtag then 0 else c.jtag }

/-- RESET_RELEASE: steps 3 to 10; before step 2 they wait for it. A main group that a fault removed stays down unless RESET_N was asserted
(R476). -/
def resetReleaseTx (failStep : Nat) : Tx := fun s => if s.needsReset then [] else chain [releaseJtag, fun s =>
  if !s.chip.vin || (s.rf R.MOD_STAT F.MOD_STAT_STEP == 1) then modChip (fun c => { c with inReset := false, releaseWaits := some failStep }) s
  else if s.tripHolds then modChip (fun c => { c with inReset := false }) s
  else powerUp failStep s] s

/-- RESET_RELEASE; `failStep` is 0, or the step of 3 to 10 that fails. -/
def execResetRelease (failStep : Nat) (s : State) : Out :=
  if failStep = 0 ∨ 3 ≤ failStep ∧ failStep ≤ 10 then commit (resetReleaseTx failStep) s else .refused .illFormed

/-! ### Power (R474, R484, R486) -/

/-- MOD_ROLE as the manifest assigns it to this position (R462). -/
def manifestRole (pos : Nat) : Tx := fun s =>
  let p := s.chip.part
  chain [
    setF R.MOD_ROLE F.MOD_ROLE_POSITION pos,
    setF R.MOD_ROLE F.MOD_ROLE_ROLE (if pos = p.manifestManager then 1 else if p.manifestStandby = some pos then 2 else 0)] s

/-- Every rail has fallen: everything is lost but the vault, the SPI NOR and what the part fixes. PREFER is a vault record, and so is the
manifest with the module's position. -/
def powerFailTx : Tx := fun s =>
  let prefer := s.rf R.MOD_BOOT F.MOD_BOOT_PREFER
  chain [
    closeSwitches,
    (fun _ => [.dropMem fun _ => true, .dropRegs fun _ => true, .dropFull, .dropTiles, .dropQueues]),
    gradeRegisters,
    setF R.MOD_BOOT F.MOD_BOOT_PREFER prefer, manifestRole s.position,
    modChip Chip.unpowered] s

/-- POWER_FAIL. -/
def execPowerFail (s : State) : Out := commit powerFailTx s

/-- The management boots image `n`; steps 3 to 10 follow where RESET_N is released (R483). The failing step is that of a release that came
before; where RESET_N was released before the power fell, none fails (DESIGN CHOICE, log entry 66). -/
def bootImage (n : Nat) (fallback repaired : Bool) : Tx := chain [
  setF R.MOD_BOOT F.MOD_BOOT_RUNNING n, setB R.MOD_BOOT F.MOD_BOOT_FALLBACK fallback,
  setB R.MOD_BOOT F.MOD_BOOT_SPI_REPAIRED repaired,
  setStep 2,
  whenS (fun s => !s.chip.inReset) (look fun s => powerUp (s.chip.releaseWaits.getD 0))]

/-- POWER_ON: VIN rises above 46 V. The operands say which images pass their digests: SPI NOR A and B, vault A. Without any of them
the module stays at step 1. -/
def powerOnTx (spiA spiB vaultA : Bool) : Tx := fun s =>
  let p := s.rf R.MOD_BOOT F.MOD_BOOT_PREFER
  let good (n : Nat) : Bool := if n = 0 then spiA else spiB
  if s.chip.vin then []
  else chain [
    modChip fun c => { c with vin := true, cold := true },
    forEach [2, 3, 4, 5, 6] (fun d => setDom d 0),
    setStep 1,
    if good p then bootImage p false false
    else if good (1 - p) then bootImage (1 - p) true false
    else if vaultA then chain [
      modChip fun c => { c with fwA := c.vaultFwA, fwB := c.vaultFwA },
      bootImage 0 true true]
    else setF R.MOD_BOOT F.MOD_BOOT_FALLBACK 1] s

/-- POWER_ON. -/
def execPowerOn (spiA spiB vaultA : Bool) (s : State) : Out := commit (powerOnTx spiA spiB vaultA) s

/-! ### Rail faults and the trip (R476, R487) -/

/-- The main group is removed: a running job stops, the switches close, its memories and registers are lost, and its domains are held down
until a reset; standby logic stays as it is (R476; log entry 61). -/
def removeMain : Tx := chain [
  whenS State.running stopJob,
  look fun s => match s.chip.test with | some x => endTest x false | none => skip,
  closeSwitches, voidWeights,
  (fun _ => [.dropRegs mainKey, .dropMem fun _ => true, .dropFull, .dropTiles]),
  modChip Chip.withoutMain,
  gradeRegisters, noteCompat 0,
  setF R.MOD_STAT F.MOD_STAT_READY 0,
  look fun s => setStep (if s.upStep = 1 then 1 else 2),
  forEach [2, 3, 4, 5, 6] fun d => setDom d 0]

/-- RAIL_FAULT: rails 0 to 3 are the main group's, 4 to 7 standby rails, whose fault removes every rail. -/
def railFaultTx (v : Nat) : Tx := whenS State.powered fun s =>
  if 4 ≤ v then powerFailTx s
  else chain [
    removeMain,
    setF R.MOD_STAT F.MOD_STAT_RAIL_FAULT 1, setF R.MOD_STAT F.MOD_STAT_FAULT_RAIL v, raiseAlert F.MOD_ALERT_RAIL] s

/-- RAIL_FAULT. -/
def execRailFault (v : Nat) (s : State) : Out := if v < 8 then commit (railFaultTx v) s else .refused .illFormed

/-- Does a sensor that has not failed read 105 °C or more with its alarm offset? -/
def State.tripHot (s : State) : Bool :=
  (List.range 72).any fun i => (s.sensor i).seen && !(s.sensor i).failed &&
    (match s.sensorHeat i with | some h => decide (420 ≤ h) | none => false)

/-- THERMAL_TRIP. -/
def thermalTripTx : Tx := whenS (fun s => s.chip.vin && s.tripHot) <| chain [
  whenS (fun s => s.chip.mainUp) removeMain,
  setF R.MOD_STAT F.MOD_STAT_TRIP 1, raiseAlert F.MOD_ALERT_TRIP]

/-- THERMAL_TRIP. -/
def execThermalTrip (s : State) : Out := commit thermalTripTx s

end Sys2Proof.Machine
end

