-- ==== Sys2Proof/Machine/Replay.lean ====
section
/-! DEFINITION. REPLAY_RECORD (R398, R399) and REPLAY_RUN (R400–R403). -/

namespace Sys2Proof.Machine

/-- REPLAY_RECORD: armed while no job runs, continued while recording or while entries of a job that has ended still wait, or stopped. -/
def replayRecordTx (c : Cmd) : Tx := fun s =>
  let buf := (c.w2.toNat, c.w3.toNat)
  if !s.isManager then postReply c 0x0103 0 0 s
  else if !c.w4.toNat.testBit 0 then chain [stopRecording, drainWrites, postReply c 0 0 0] s
  else if s.chip.record.active && (s.running || !s.chip.backlog.isEmpty) then chain [
    modChip fun ch => { ch with record := { ch.record with next := some buf } },
    setF R.AUD_REPLAY_CTL F.AUD_REPLAY_CTL_NEXT 1,
    drainBacklog, drainWrites, postReply c 0 0 0] s
  else if !s.running then chain [
    endRecording,
    modChip fun ch => { ch with record := { armed := true, addr := buf.1, len := buf.2 } },
    postReply c 0 0 0] s
  else postReply c 0x0103 0 0 s

/-- REPLAY_RECORD; a buffer that passes the top of the host's address space goes on at 0. -/
def execReplayRecord (c : Cmd) (s : State) : Out :=
  commit (onStart c (replayRecordTx c)) s

/-- An entry from its bytes (Table: Replay entry). -/
def entryOf (bs : List Byte) : RepEntry :=
  ⟨field bs 0 2, field bs 2 2, field bs 8 8, field bs 16 8, field bs 24 8, field bs 32 8, field bs 40 8, (bs.drop 64).take (field bs 4 4)⟩

/-- The entries that follow one another in a buffer, up to the first that is not whole or of no listed kind. -/
def entriesOf : Nat → List Byte → List RepEntry
  | 0, _ => []
  | fuel + 1, bs =>
    let e := entryOf bs
    if bs.length < 64 || bs.length < e.size || decide (e.body.length < field bs 4 4) || e.kind == 0 || decide (9 < e.kind) then []
    else e :: entriesOf fuel (bs.drop e.size)

/-- The checks of R403 in order: status and DETAIL of a refusal. -/
def State.replayCheck (s : State) (start : RepEntry) (rest : List RepEntry) : Option (Nat × Nat) :=
  let b := start.body
  if field b 0 8 != (s.reg R.AUD_BITKEY).toNat then some (0x0702, 0)
  else if (b.drop 8).take 32 != padTo 32 s.reelDigest || s.live.isNone || (b.drop 40).take 32 != padTo 32 s.liveRoot then some (0x0103, 0)
  else if start.frame != 0 && s.chip.restored != some start.frame then some (0x0103, 0)
  else (rest.find? (·.kind == 9)).map fun e => (0x0103, e.seq)

/-- Every tile's seeds and table number from a START entry. -/
def setSeeds (b : List Byte) : Tx := fun s =>
  forEach s.tileList (fun t => chain [
    setRegN (R.GRN_SEED_LO t) (field b 72 8), setRegN (R.GRN_SEED_HI t) (field b 80 8),
    setF (R.GRN_CTL t) F.GRN_CTL_TBL_NUM (field b 88 8)]) s

/-- The restored job goes on at its capture frame: nothing of it is cleared. -/
def resumeRestored : Tx := chain [
  setF R.FRM_CTL F.FRM_CTL_RUN 1, setF R.FRM_CTL F.FRM_CTL_FROZEN 0,
  modChip fun c => { c with fcyc := 0, starvedDone := false, overrunDone := false, overrunCall := false, halting := false },
  jobVotes]

/-- A replay that passes its checks begins. -/
def startReplay (c : Cmd) (start : RepEntry) (rest : List RepEntry) : Tx := chain [
  keepBefore (setSeeds start.body),
  setF R.AUD_REPLAY_CTL F.AUD_REPLAY_CTL_REPLAYING 1,
  modChip fun ch => { ch with replay := rest, replayCmd := some c },
  if start.frame = 0 then startJob none else chain [keepBefore resumeRestored, callClap 3 start.frame none, selfReady]]

/-- REPLAY_RUN. -/
def replayRunTx (c : Cmd) : Tx := fun s =>
  if !s.isManager || s.running then postReply c 0x0103 0 0 s
  else match entriesOf (c.w3.toNat / 64) (s.hostBytes c.w2.toNat c.w3.toNat) with
    | [] => postReply c 0x0103 0 0 s
    | start :: rest =>
      if start.kind != 1 then postReply c 0x0103 0 0 s
      else match s.replayCheck start rest with
        | some (st, d) => postReply c st d 0 s
        | none => chain [startUses, if s.startOk then startReplay c start rest else postReply c 0x0103 0 0, bumpFree] s

/-- REPLAY_RUN; a buffer that passes the top of the host's address space goes on at 0. -/
def execReplayRun (c : Cmd) (s : State) : Out :=
  commit (onStart c (replayRunTx c)) s

end Sys2Proof.Machine
end

