-- ==== Sys2Proof/Machine/Dispatch.lean ====
section
/-! DEFINITION. One arm per command, each one direct call of its meaning. -/

namespace Sys2Proof.Machine

def exec (i : Instr) (s : State) : Host.Outcome State Fault Refusal :=
  match i with
  | .frameTick => Sys2Proof.Machine.execFrameTick s
  | .slackWindowEnd => Sys2Proof.Machine.execSlackWindowEnd s
  | .rollSwitchApply => Sys2Proof.Machine.execRollSwitchApply s
  | .servingRollChange t => Sys2Proof.Machine.execServingRollChange t s
  | .clockStepApply locked => Sys2Proof.Machine.execClockStepApply locked s
  | .starved => Sys2Proof.Machine.execStarved s
  | .frameEndRetire t => Sys2Proof.Machine.execFrameEndRetire t s
  | .realignCall spread raised => Sys2Proof.Machine.execRealignCall spread raised s
  | .scrubUnit t => Sys2Proof.Machine.execScrubUnit t s
  | .scrubLate t => Sys2Proof.Machine.execScrubLate t s
  | .refetchComplete t line bad => Sys2Proof.Machine.execRefetchComplete t line bad s
  | .grainFillUnit t => Sys2Proof.Machine.execGrainFillUnit t s
  | .grainFillComplete t => Sys2Proof.Machine.execGrainFillComplete t s
  | .codebookUnit t => Sys2Proof.Machine.execCodebookUnit t s
  | .testUnit t fail ce => Sys2Proof.Machine.execTestUnit t fail ce s
  | .autoTestUnit t fail => Sys2Proof.Machine.execAutoTestUnit t fail s
  | .retirementStart => Sys2Proof.Machine.execRetirementStart s
  | .retireWake => Sys2Proof.Machine.execRetireWake s
  | .retireWeights => Sys2Proof.Machine.execRetireWeights s
  | .retireCopyUnit => Sys2Proof.Machine.execRetireCopyUnit s
  | .retireStateUnit => Sys2Proof.Machine.execRetireStateUnit s
  | .oldSitePowerDown => Sys2Proof.Machine.execOldSitePowerDown s
  | .retirementAbandon siteFault => Sys2Proof.Machine.execRetirementAbandon siteFault s
  | .idle st h cyc => Sys2Proof.Machine.execIdle st h cyc s
  | .cset st h ctr val => Sys2Proof.Machine.execCset st h ctr val s
  | .loop st h ctr target limit => Sys2Proof.Machine.execLoop st h ctr target limit s
  | .jump st h target => Sys2Proof.Machine.execJump st h target s
  | .cmpset st h cmp src rel val => Sys2Proof.Machine.execCmpset st h cmp src rel val s
  | .br st h cmp sense target => Sys2Proof.Machine.execBr st h cmp sense target s
  | .waitc st h cmp sense => Sys2Proof.Machine.execWaitc st h cmp sense s
  | .frameEnd t h => Sys2Proof.Machine.execFrameEnd t h s
  | .cwaitg t h gm gran => Sys2Proof.Machine.execCwaitg t h gm gran s
  | .stallRelease st => Sys2Proof.Machine.execStallRelease st s
  | .dcpy a => Sys2Proof.Machine.execDcpy a s
  | .dmov a => Sys2Proof.Machine.execDmov a s
  | .dgset t h first count val => Sys2Proof.Machine.execDgset t h first count val s
  | .dfence t h => Sys2Proof.Machine.execDfence t h s
  | .kvCommit a => Sys2Proof.Machine.execKvCommit a s
  | .kvcDescApply t d => Sys2Proof.Machine.execKvcDescApply t d s
  | .cueNext k h => Sys2Proof.Machine.execCueNext k h s
  | .cueWr k h aw vw => Sys2Proof.Machine.execCueWr k h aw vw s
  | .cueInject k h aw wm => Sys2Proof.Machine.execCueInject k h aw wm s
  | .cueAdmit k h => Sys2Proof.Machine.execCueAdmit k h s
  | .cueReply k h status => Sys2Proof.Machine.execCueReply k h status s
  | .cueRun k h => Sys2Proof.Machine.execCueRun k h s
  | .cueHalt k h => Sys2Proof.Machine.execCueHalt k h s
  | .mmul a => Sys2Proof.Machine.execMmul a s
  | .mmula a => Sys2Proof.Machine.execMmula a s
  | .mout a => Sys2Proof.Machine.execMout a s
  | .msync t h => Sys2Proof.Machine.execMsync t h s
  | .passDrain t => Sys2Proof.Machine.execPassDrain t s
  | .passReplay t => Sys2Proof.Machine.execPassReplay t s
  | .vsetvl t h gm mode vlm1 line => Sys2Proof.Machine.execVsetvl t h gm mode vlm1 line s
  | .vsync t h => Sys2Proof.Machine.execVsync t h s
  | .vadd a => Sys2Proof.Machine.execVadd a s
  | .vsub a => Sys2Proof.Machine.execVsub a s
  | .vmul a => Sys2Proof.Machine.execVmul a s
  | .vfma a => Sys2Proof.Machine.execVfma a s
  | .vmax a => Sys2Proof.Machine.execVmax a s
  | .vmin a => Sys2Proof.Machine.execVmin a s
  | .vcmp a => Sys2Proof.Machine.execVcmp a s
  | .vsel a => Sys2Proof.Machine.execVsel a s
  | .vand a => Sys2Proof.Machine.execVand a s
  | .vor a => Sys2Proof.Machine.execVor a s
  | .vxor a => Sys2Proof.Machine.execVxor a s
  | .vshl a => Sys2Proof.Machine.execVshl a s
  | .vshr a => Sys2Proof.Machine.execVshr a s
  | .vcvt a => Sys2Proof.Machine.execVcvt a s
  | .vpack a => Sys2Proof.Machine.execVpack a s
  | .vunpack a => Sys2Proof.Machine.execVunpack a s
  | .vperm a => Sys2Proof.Machine.execVperm a s
  | .vshuf a => Sys2Proof.Machine.execVshuf a s
  | .vpatch a w cm1 pm1 => Sys2Proof.Machine.execVpatch a w cm1 pm1 s
  | .vred a => Sys2Proof.Machine.execVred a s
  | .vsfu a => Sys2Proof.Machine.execVsfu a s
  | .smx1 a => Sys2Proof.Machine.execSmx1 a s
  | .smx2 a => Sys2Proof.Machine.execSmx2 a s
  | .rowstat a => Sys2Proof.Machine.execRowstat a s
  | .sample a => Sys2Proof.Machine.execSample a s
  | .tmask a => Sys2Proof.Machine.execTmask a s
  | .vgrain a => Sys2Proof.Machine.execVgrain a s
  | .chipFreeze => Sys2Proof.Machine.execChipFreeze s
  | .flitHop id => Sys2Proof.Machine.execFlitHop id s
  | .heldWriteLand t => Sys2Proof.Machine.execHeldWriteLand t s
  | .readReqServe t id => Sys2Proof.Machine.execReadReqServe t id s
  | .fabricPacketArrive p pkt crc ue => Sys2Proof.Machine.execFabricPacketArrive p pkt crc ue s
  | .packetRelease p => Sys2Proof.Machine.execPacketRelease p s
  | .completion p pkt => Sys2Proof.Machine.execCompletion p pkt s
  | .controlSymbolReceive p c => Sys2Proof.Machine.execControlSymbolReceive p c s
  | .ecnRatePeriod => Sys2Proof.Machine.execEcnRatePeriod s
  | .cmapEpoch => Sys2Proof.Machine.execCmapEpoch s
  | .portTrainingDone p info => Sys2Proof.Machine.execPortTrainingDone p info s
  | .trainingTimeout p => Sys2Proof.Machine.execTrainingTimeout p s
  | .laneSwap p lane m => Sys2Proof.Machine.execLaneSwap p lane m s
  | .goToken p tok wait => Sys2Proof.Machine.execGoToken p tok wait s
  | .readyToken tok => Sys2Proof.Machine.execReadyToken tok s
  | .announceToken tok => Sys2Proof.Machine.execAnnounceToken tok s
  | .freezeToken tok => Sys2Proof.Machine.execFreezeToken tok s
  | .clapEvent => Sys2Proof.Machine.execClapEvent s
  | .clapTimeout => Sys2Proof.Machine.execClapTimeout s
  | .captureHold => Sys2Proof.Machine.execCaptureHold s
  | .captureDrained => Sys2Proof.Machine.execCaptureDrained s
  | .commandFetch q => Sys2Proof.Machine.execCommandFetch q s
  | .statusReply q => Sys2Proof.Machine.execStatusReply q s
  | .jobLoadReel c => Sys2Proof.Machine.execJobLoadReel c s
  | .jobStart c => Sys2Proof.Machine.execJobStart c s
  | .jobStop c => Sys2Proof.Machine.execJobStop c s
  | .rollLoad c => Sys2Proof.Machine.execRollLoad c s
  | .rollArm c => Sys2Proof.Machine.execRollArm c s
  | .rollSwitch c => Sys2Proof.Machine.execRollSwitch c s
  | .rollFree c => Sys2Proof.Machine.execRollFree c s
  | .adapterLoad c => Sys2Proof.Machine.execAdapterLoad c s
  | .rollTableReceive m => Sys2Proof.Machine.execRollTableReceive m s
  | .shardReceive idx bytes => Sys2Proof.Machine.execShardReceive idx bytes s
  | .loadTimeout => Sys2Proof.Machine.execLoadTimeout s
  | .oldRollFree => Sys2Proof.Machine.execOldRollFree s
  | .reqSubmit c => Sys2Proof.Machine.execReqSubmit c s
  | .reqCancel c => Sys2Proof.Machine.execReqCancel c s
  | .deadlineExpiry slot => Sys2Proof.Machine.execDeadlineExpiry slot s
  | .reqSlotFree slot => Sys2Proof.Machine.execReqSlotFree slot s
  | .resultDrain slot => Sys2Proof.Machine.execResultDrain slot s
  | .resultRingWrite q => Sys2Proof.Machine.execResultRingWrite q s
  | .resultWindowRead page off len => Sys2Proof.Machine.execResultWindowRead page off len s
  | .pwrVote c => Sys2Proof.Machine.execPwrVote c s
  | .pwrUnvote c => Sys2Proof.Machine.execPwrUnvote c s
  | .testRun c => Sys2Proof.Machine.execTestRun c s
  | .calWrite c => Sys2Proof.Machine.execCalWrite c s
  | .dbgBreakSet c => Sys2Proof.Machine.execDbgBreakSet c s
  | .telRead c => Sys2Proof.Machine.execTelRead c s
  | .cmapRead c => Sys2Proof.Machine.execCmapRead c s
  | .ctxSave c => Sys2Proof.Machine.execCtxSave c s
  | .ctxRestore c => Sys2Proof.Machine.execCtxRestore c s
  | .clkChange c => Sys2Proof.Machine.execClkChange c s
  | .replayRecord c => Sys2Proof.Machine.execReplayRecord c s
  | .replayRun c => Sys2Proof.Machine.execReplayRun c s
  | .doorbellSqTail func q idx => Sys2Proof.Machine.execDoorbellSqTail func q idx s
  | .doorbellCqHead func q idx => Sys2Proof.Machine.execDoorbellCqHead func q idx s
  | .doorbellResHead func q idx => Sys2Proof.Machine.execDoorbellResHead func q idx s
  | .queueEnable q => Sys2Proof.Machine.execQueueEnable q s
  | .queueDisable q => Sys2Proof.Machine.execQueueDisable q s
  | .registerWrite a v => Sys2Proof.Machine.execRegisterWrite a v s
  | .spkTblDataAccess w => Sys2Proof.Machine.execSpkTblDataAccess w s
  | .tirClassDataAccess w => Sys2Proof.Machine.execTirClassDataAccess w s
  | .wpaCbDataAccess t w => Sys2Proof.Machine.execWpaCbDataAccess t w s
  | .sfuTblDataAccess t w => Sys2Proof.Machine.execSfuTblDataAccess t w s
  | .fabCmapDataRead => Sys2Proof.Machine.execFabCmapDataRead s
  | .grnTblSelWrite t v => Sys2Proof.Machine.execGrnTblSelWrite t v s
  | .spkSelWrite v => Sys2Proof.Machine.execSpkSelWrite v s
  | .wpaCbSelWrite t v => Sys2Proof.Machine.execWpaCbSelWrite t v s
  | .sfuTblSelWrite t v => Sys2Proof.Machine.execSfuTblSelWrite t v s
  | .grainFill t => Sys2Proof.Machine.execGrainFill t s
  | .arm => Sys2Proof.Machine.execArm s
  | .hostNominate row site => Sys2Proof.Machine.execHostNominate row site s
  | .resume t => Sys2Proof.Machine.execResume t s
  | .retrain p => Sys2Proof.Machine.execRetrain p s
  | .openReq => Sys2Proof.Machine.execOpenReq s
  | .bypassClose => Sys2Proof.Machine.execBypassClose s
  | .bypassOpenGrant granted => Sys2Proof.Machine.execBypassOpenGrant granted s
  | .bypassGrantRetry => Sys2Proof.Machine.execBypassGrantRetry s
  | .powerDrop d => Sys2Proof.Machine.execPowerDrop d s
  | .dropRecheck d => Sys2Proof.Machine.execDropRecheck d s
  | .idleEntry d => Sys2Proof.Machine.execIdleEntry d s
  | .wake src port => Sys2Proof.Machine.execWake src port s
  | .wakeHoldExpiry => Sys2Proof.Machine.execWakeHoldExpiry s
  | .powerSample watts volts10mv => Sys2Proof.Machine.execPowerSample watts volts10mv s
  | .thermalSample sensor quarters => Sys2Proof.Machine.execThermalSample sensor quarters s
  | .canaryMeasure r slack passWarn passCrit => Sys2Proof.Machine.execCanaryMeasure r slack passWarn passCrit s
  | .domainStepGather steps => Sys2Proof.Machine.execDomainStepGather steps s
  | .ageReplan hours eol left raises => Sys2Proof.Machine.execAgeReplan hours eol left raises s
  | .refClockLost => Sys2Proof.Machine.execRefClockLost s
  | .refClockRestored => Sys2Proof.Machine.execRefClockRestored s
  | .powerOn spiA spiB vaultA => Sys2Proof.Machine.execPowerOn spiA spiB vaultA s
  | .powerFail => Sys2Proof.Machine.execPowerFail s
  | .resetAssert => Sys2Proof.Machine.execResetAssert s
  | .resetRelease failStep => Sys2Proof.Machine.execResetRelease failStep s
  | .railFault v => Sys2Proof.Machine.execRailFault v s
  | .thermalTrip => Sys2Proof.Machine.execThermalTrip s
  | .fwUpdate image digest => Sys2Proof.Machine.execFwUpdate image digest s
  | .fwActivate => Sys2Proof.Machine.execFwActivate s
  | .pldmMessage valid => Sys2Proof.Machine.execPldmMessage valid s
  | .heartbeat => Sys2Proof.Machine.execHeartbeat s
  | .managerTakeover => Sys2Proof.Machine.execManagerTakeover s
  | .takeoverMessage newMgr => Sys2Proof.Machine.execTakeoverMessage newMgr s
  | .triggerEdge n => Sys2Proof.Machine.execTriggerEdge n s
  | .jtagInstruction code => Sys2Proof.Machine.execJtagInstruction code s
  | .portLinkLost p => Sys2Proof.Machine.execPortLinkLost p s
  | .vaultAccessComplete t region => Sys2Proof.Machine.execVaultAccessComplete t region s

end Sys2Proof.Machine
end

