-- ==== Sys2Proof/Machine/Pins.lean ====
section
/-! DEFINITION. Pins and rails (R466, R467, R475, R477–R482, R488): what each output pin shows in a state, by Table: Pin states. -/

namespace Sys2Proof.Machine

/-- What a pin shows: high impedance, electrical idle, a level, a running link or clock, a served bus, an input, or its IEEE 1149.1
state. -/
inductive Drive where
  | highZ
  | idle
  | low
  | high
  | link
  | served
  | input
  | jtag
deriving DecidableEq, Repr

/-- A level. -/
def Drive.level (b : Bool) : Drive := if b then .high else .low

/-- The columns of Table: Pin states. -/
inductive PinColumn where
  | noPower
  | reset
  | ready
  | retain
deriving DecidableEq, Repr

/-- The column that holds now: Reset covers RESET_N asserted, steps 1 and 2, a rail fault and a trip (R488). -/
def State.pinColumn (s : State) : PinColumn :=
  if !s.chip.vin then .noPower
  else if s.chip.inReset || [1, 2].contains s.upStep || !s.chip.mainUp then .reset
  else if s.domState 2 = 1 then .retain else .ready

/-! ### Observed signals (Table: Observation signals) -/

/-- Is the signal one of a unit that the part has? Signals 0x01–0x09 are of a logical tile, 0x0D of a port, the others of no unit. -/
def State.sigUnit (s : State) (sig u : Nat) : Bool :=
  if 1 ≤ sig ∧ sig ≤ 9 then decide (u < s.numTiles) else if sig = 0x0D then decide (u < 14) else decide (sig ≤ 0x0F)

/-- Does a held write of a pass or of a V instruction of tile `t` wait on a full granule, or its reads on an empty one? A wait for a refetch is
no stall on a granule. -/
def State.writeStalls (s : State) (t : Nat) : Bool :=
  ((s.tile t).passes.any fun p => p.done && p.held) ||
    (s.tile t).vops.head?.any fun o => (s.vgrants o).isEmpty &&
      !(s.vlines t (o.parts o.next)).any fun l => l.1 == 1 && s.lineStalls t l.2

/-- A signal that lasts: whether it is 1 now. -/
def State.sigLevel (s : State) (sig u : Nat) : Bool :=
  match sig with
  | 0x06 => ([0, 1, 2, 3].any fun k => !(s.waitsOn u k).isEmpty) || s.writeStalls u
  | 0x09 => s.rb (R.SFU_STAT u) F.SFU_STAT_DEGRADED
  | 0x0A => !s.chip.refetch.isEmpty
  | 0x0C => s.frozen
  | 0x0D => s.portUp u
  | 0x0F => true
  | _ => false

/-- HIF_TIME at the last occurrence of a signal: a tick, a retired FRAME_END, an issue, a demotion, a mismatch, a clapped event, or the rise
of a signal that lasts. -/
def State.sigLast (s : State) (sig u : Nat) : Option Nat :=
  match sig with
  | 0x01 => (s.tile u).retiredNs
  | 0x02 => ((s.tile u).stream 0).issuedNs
  | 0x03 => ((s.tile u).stream 1).issuedNs
  | 0x04 => ((s.tile u).stream 2).issuedNs
  | 0x05 => ((s.tile u).stream 3).issuedNs
  | _ =>
    let unit := if sig = 0x06 ∨ sig = 0x07 ∨ sig = 0x08 ∨ sig = 0x09 ∨ sig = 0x0D then u else 0
    match Sparse.get (fun _ => 0) s.chip.sigs (512 * sig + unit) with
    | 0 => none
    | n + 1 => some n

/-- Does a pulse of `w` ns that the last occurrence began still last? A later one extends it. -/
def State.sigPulse (s : State) (sig u w : Nat) : Bool := (s.sigLast sig u).any fun n => decide (n ≤ s.chip.ns ∧ s.chip.ns < n + w)

/-- The signal as it is observed: a pulse is stretched to 10 ns; a reserved code or a unit outside its range drives 0 (R466). -/
def State.signal (s : State) (sig u : Nat) : Bool := s.sigUnit sig u && (s.sigLevel sig u || s.sigPulse sig u 10)

/-- The signals that the core regions drive. -/
def coreSignal (sig : Nat) : Bool := decide (sig ≤ 9) || sig == 0x0C

/-! ### Pins -/

/-- Observation pin `n` (R466, R488). -/
def State.obsPin (s : State) (n : Nat) : Drive :=
  let k := R.DBG_MUX n
  let sig := s.rf k F.DBG_MUX_SIG
  match s.pinColumn with
  | .noPower => .highZ
  | .reset => .low
  | .ready => .level (s.signal sig (s.rf k F.DBG_MUX_UNIT))
  | .retain => .level (!coreSignal sig && s.signal sig (s.rf k F.DBG_MUX_UNIT))

/-- Trigger pin `n`: an output drives 1 µs from each occurrence of its signal (R467). -/
def State.trigPin (s : State) (n : Nat) : Drive :=
  let k := R.DBG_TRIG n
  let sig := s.rf k F.DBG_TRIG_SIG
  let u := s.rf k F.DBG_TRIG_UNIT
  match s.pinColumn with
  | .noPower => .highZ
  | .reset => .input
  | _ =>
    if !s.rb k F.DBG_TRIG_DIR then .input
    else .level (s.sigUnit sig u && s.sigPulse sig u 1000)

/-- Has a rail fault or a trip removed the main group (R476, R487)? -/
def State.faulted (s : State) : Bool :=
  !s.chip.mainUp && (s.rb R.MOD_STAT F.MOD_STAT_RAIL_FAULT || s.rb R.MOD_STAT F.MOD_STAT_TRIP)

/-- PWR_GOOD: high once step 2 is complete, low without power and after a rail fault or a trip (R480, R488). -/
def State.pwrGood (s : State) : Drive := .level (s.chip.vin && s.upStep != 1 && !s.faulted)

/-- ALERT_N: open drain, low while an enabled bit of MOD_ALERT is set (R480). -/
def State.alertN (s : State) : Drive := if s.chip.vin && s.alerts then .low else .highZ

/-- PRESENT_N is tied to ground on the module (R477). -/
def presentN : Drive := .low

/-- The transmitter of lane `l` of port `p`: in reset in electrical idle; else as the port's state and its domain's (R429, R488). Lane 4 of a
root port is unused, in electrical idle (R478). -/
def State.txPin (s : State) (p l : Nat) : Drive :=
  match s.pinColumn with
  | .noPower => .highZ
  | .reset => .idle
  | _ =>
    if decide (s.domState (portDom p) < 2) || [0, 5].contains (s.portState p) || (s.pcie p && decide (4 ≤ l)) then .idle else .link

/-- The PCIe transmitters. -/
def State.petPin (s : State) : Drive :=
  match s.pinColumn with
  | .noPower => .highZ
  | .reset => .idle
  | _ => .link

/-- Are the bypass switches of lane `l` open: closed without power, in reset and after a fault; else as MOD_BYPASS has it (R482)? -/
def State.switchOpen (s : State) (l : Nat) : Bool :=
  match s.pinColumn with
  | .noPower => false
  | .reset => false
  | _ => s.switchesOpen || (l == 4 && s.rb R.MOD_BYPASS F.MOD_BYPASS_LANE4_OPEN)

/-- STO_PERST_N of storage port `q`: released in PCIe mode (R478, R488). -/
def State.perstPin (s : State) (q : Nat) : Drive :=
  match s.pinColumn with
  | .noPower => .low
  | .reset => .low
  | _ => .level (s.pcie (12 + q))

/-- STO_REFCLK of storage port `q`: a clock in PCIe mode. -/
def State.storageClock (s : State) (q : Nat) : Drive :=
  match s.pinColumn with
  | .noPower => .low
  | .reset => .low
  | _ => if s.pcie (12 + q) then .link else .low

/-- I3C_SDA is served while there is standby power (R481). -/
def State.sdaPin (s : State) : Drive := if s.chip.vin then .served else .highZ

/-- TDO follows IEEE 1149.1 while there is power (R468). -/
def State.tdoPin (s : State) : Drive := if s.chip.vin then .jtag else .highZ

/-! ### Rails -/

/-- The set point of rail `v` in mV, with its trim; VCORE's is VEFF of the step in effect, which holds its trim (R475). -/
def State.railSet (s : State) (v : Nat) : Int :=
  if v = 0 then s.rf (R.CLK_VF s.curStep) F.CLK_VF_VEFF
  else (([0, 700, 900, 750, 850, 800, 1200, 800].getD v 0 : Nat) : Int) + toSigned 16 (s.cal16 (0x400 + 2 * v))

/-- Is rail `v` up: 0 to 3 are the main group's, 4 to 7 standby rails (R475, R476)? -/
def State.railUp (s : State) (v : Nat) : Bool := s.chip.vin && (decide (4 ≤ v) || s.chip.mainUp)

end Sys2Proof.Machine
end

