-- ==== Sys2Proof/Safety.lean ====
section
/-! DEFINITION. The terms in which statements speak: sound states, commands that complete, streams that issue at once, what an
effect leaves alone. -/

namespace Sys2Proof.Machine

/-- The memory, `m`, is in canonical form. -/
def Memory.wf (m : List Host.Cell) : Bool := Sparse.wf byte0 m

/-- Every sparse store of the state is in canonical form: keys rise strictly and no entry equals what an unlisted key reads as. -/
def State.canonical (s : State) : Bool :=
  Sparse.wf resetWord s.regs && Memory.wf s.mem && Memory.wf s.err && Sparse.wf pois0 s.poison &&
    Sparse.wf empty0 s.full && Memory.wf s.host && Memory.wf s.vault && Sparse.wf tile0 s.tiles &&
    Sparse.wf queue0 s.queues

/-- A sound state: canonical stores, and every transfer under way, or put back by a clap that fails, has a number below the next one. -/
def State.sound (s : State) : Bool :=
  s.canonical && (s.chip.xfers ++ (s.chip.before.map (·.xfers)).getD []).all fun x => decide (x.id < s.chip.nextId)

/-- The command completes: its outcome is a next state, of which `P` holds. -/
def Completes (o : Out) (P : State → Prop) : Prop := ∃ t, o = .next t ∧ P t

/-- The stream issues an instruction at once: the stream exists, it may issue, and no instruction waits before it (R26, R56). -/
def State.fresh (s : State) (st : StreamId) : Bool := s.streamOk st && s.canIssue st && (s.waitq st).isEmpty

/-- The frame cycle at which it issues. -/
def State.issueCycle (s : State) (st : StreamId) : Nat := max s.chip.fcyc (s.freeAt st)

/-- Memories, their poison and errors, full/empty bits, host memory, vault and host queues stay as they were. -/
def State.sameMemory (s t : State) : Prop :=
  t.mem = s.mem ∧ t.err = s.err ∧ t.poison = s.poison ∧ t.full = s.full ∧ t.host = s.host ∧ t.vault = s.vault ∧
    t.queues = s.queues

/-- Every register but those listed holds what it held. -/
def State.sameRegsBut (s t : State) (ks : List Nat) : Prop := ∀ k, k ∉ ks → t.reg k = s.reg k

/-- Nothing of the state but the waiting commands changed. -/
def State.sameAll (s t : State) : Prop := s.sameMemory t ∧ t.regs = s.regs ∧ t.tiles = s.tiles ∧ t.chip = s.chip

/-- The registers in which every issue of a tile's stream is recorded: its program counter, its count, and a matched break
(R69, R100). -/
def issueRegs : StreamId → List Nat
  | .tile t k => [R.STR_PC t k, R.STR_ISSUED t k, R.STR_STAT t]
  | .cue _ => []

/-- What an instruction of stream `st` may touch beside its own tile and the chip's record: the registers of the issue and those listed. -/
def State.onlyIssue (s t : State) (st : StreamId) (ks : List Nat) : Prop :=
  s.sameRegsBut t (issueRegs st ++ ks) ∧ ∀ u, (∀ k, st ≠ .tile u k) → t.tile u = s.tile u

/-- The register of a tile stream's loop counter. -/
def cntRegs (c : Nat) : StreamId → List Nat
  | .tile u k => [R.STR_CNT u k c]
  | .cue _ => []

/-- The register of a tile stream's comparator. -/
def cmpRegs (c : Nat) : StreamId → List Nat
  | .tile u k => [R.STR_CMP u k c]
  | .cue _ => []

/-- Tile `u`'s scratchpad holds the bytes `bs` from byte offset `off` on, wrapping at its size (R14). -/
def State.holds (s : State) (u off : Nat) (bs : List Byte) : Prop :=
  ∀ j < bs.length, some (s.byte (memKey 0 u ((off + j) % 0x180000))) = bs[j]?

/-- The kind and operands of a V instruction of the long form (R206, R207). -/
def vForm : Instr → Option (VKind × VArgs)
  | .vadd a => some (.add, a)
  | .vsub a => some (.sub, a)
  | .vmul a => some (.mul, a)
  | .vfma a => some (.fma, a)
  | .vmax a => some (.max, a)
  | .vmin a => some (.min, a)
  | .vcmp a => some (.cmp, a)
  | .vsel a => some (.sel, a)
  | .vand a => some (.and, a)
  | .vor a => some (.or, a)
  | .vxor a => some (.xor, a)
  | .vshl a => some (.shl, a)
  | .vshr a => some (.shr, a)
  | .vcvt a => some (.cvt, a)
  | .vpack a => some (.pack, a)
  | .vunpack a => some (.unpack, a)
  | .vperm a => some (.perm, a)
  | .vshuf a => some (.shuf, a)
  | .vpatch a w cm1 pm1 => some (.patch w cm1 pm1, a)
  | .vred a => some (.red, a)
  | .vsfu a => some (.sfu, a)
  | .smx1 a => some (.smx1, a)
  | .smx2 a => some (.smx2, a)
  | .rowstat a => some (.rowstat, a)
  | .sample a => some (.sample, a)
  | .tmask a => some (.tmask, a)
  | .vgrain a => some (.grain, a)
  | _ => none

/-- The operation that a V instruction becomes where it issues now: VL, CNT[CTR], GRN_BEAT, GRN_MODE and the cycle as it issues (R201,
R208, R252, R255). -/
def State.vopOf (s : State) (k : VKind) (a : VArgs) : VOp :=
  { kind := k, a := a, vl := s.rf (R.VEC_VL a.tile) F.VEC_VL_VL, cnt := s.cnt (.tile a.tile 3) a.ctr
    beat := s.rf (R.GRN_BEAT a.tile) F.GRN_BEAT_BEAT, mode := s.rf (R.GRN_MODE a.tile) F.GRN_MODE_MODE
    cyc := s.issueCycle (.tile a.tile 3) }

/-- Every read of tile `u` granted in cycle `c` or later sees what was written last (R109, R113). -/
def State.settledBy (s : State) (u c : Nat) : Bool := (s.tile u).olds.all fun l => decide (l.cyc ≤ c)

/-- Frame cycles of tile `u`'s matrix array and bank grants are ones that a frame can reach (R19): none is past 2^40. -/
def State.timely (s : State) (u : Nat) : Bool :=
  let ts := s.tile u
  ([s.chip.fcyc, ts.m.free, ts.entryFree, ts.lastL] ++ ts.places.map (·.2) ++ ts.avail.map (·.2) ++ ts.grants.map (·.cyc)).all fun c => decide (c < 2 ^ 40)

/-- Of the scratchpads only the spans `ws` (offset, bytes) of tile `u` were stored to, and of the other memories nothing: every byte
outside the spans is as it was. Where a word is stored in part and held an error, its other bytes are what the decoder delivered
(R112), so of such a word nothing is said. -/
def State.storesOnly (s t : State) (u : Nat) (ws : List (Nat × Nat)) : Prop :=
  ∀ k, (∀ w ∈ ws, ∀ j < w.2, k ≠ memKey 0 u ((w.1 + j) % 0x180000)) →
    ((∀ w ∈ ws, ∀ j < w.2, k / 8 ≠ memKey 0 u ((w.1 + j) % 0x180000) / 8) → t.byte k = s.byte k ∧ t.errByte k = s.errByte k) ∧
    (s.errBytes (k / 8 * 8) 8 = List.replicate 8 0 → t.byte k = s.byte k)

/-- Two spans (offset, bytes) of a scratchpad share no byte. -/
def apartSpans (w v : Nat × Nat) : Prop := ∀ i < w.2, ∀ j < v.2, (w.1 + i) % 0x180000 ≠ (v.1 + j) % 0x180000

/-- The output of a pass lies at a granule, and in column layout its columns do not overlap and end within the scratchpad (R179, R180). -/
def PassS.placed (p : PassS) : Bool :=
  let n := 64 * p.mout.ostr
  decide (p.args.ncol < 16) && p.oOff % 256 == 0 &&
    (p.mout.olay != 0 || decide (128 * outBytes p.mout.ofmt ≤ n ∧ p.oOff + n * (p.args.ncol + 1) ≤ 0x180000))

/-- The registers in which accesses of tile `u`'s memories are recorded (R114, R117, R121, R126, R127). -/
def accessRegs (u : Nat) : List Nat :=
  [R.SPD_ECC_STAT u, R.SPD_ERR_ADDR u, R.SPD_POISON_CNT u, R.SPD_INJECT u, R.SPD_BANK_WAIT u, R.TIR_ECC_STAT, R.TIR_ERR_ADDR,
    R.TIR_REFETCH_CNT, R.TIR_BANK_WAIT, R.MOD_ALERT, R.HIF_STAT, R.PWR_STATE]

/-- The state in which an access of a register BAR acts, of the core regions where `core` says so: stalled writes whose entries fit have
been applied, and what the access wakes is awake (R399, R435, Table: Wake sources). -/
def State.accessed (s : State) (core : Bool) : State := run (admitAccess core) s

/-- The state in which a transaction of the management bus acts: what it wakes is awake (R439, Table: Wake sources). -/
def State.onBus (s : State) : State := run (accessWake 3) s

/-- The state in which CTX_RESTORE `c` checks what a start asks: the context that its image holds is written (R410). -/
def State.restoring (s : State) (c : Cmd) : State :=
  run (chain [modChip fun ch => { ch with started := ch.started ++ [c] }, rouse 8, setF R.AUD_STAT F.AUD_STAT_RESTORING 1,
    keepBefore (writeContext (s.hostBytes c.w2.toNat c.w3.toNat)), startUses]) s

/-- A host write is made at once: no write stalls before it, and the recording, if one runs, has room for its entry (R399). -/
def State.admits (s : State) : Bool := s.chip.heldWrites.isEmpty && !s.recStalls 64

/-- The registers in which the record of a host write shows (R399, R435). -/
def recRegs : List Nat := [R.AUD_REPLAY_CTL, R.AUD_REPLAY_STAT, R.PWR_STATE]

/-- The registers that a V instruction of tile `u` may write beside the record of its issue: the beat counter, its flags, and what its
accesses record (R126, R228, R240, R247, R252). -/
def vRegs (u : Nat) : List Nat := [R.GRN_BEAT u, R.VEC_STAT u, R.KVC_STAT u, R.SFU_STAT u, R.GRN_STAT u] ++ accessRegs u

/-- GRN_BEAT once a V instruction of kind `k` has issued: it moves on by the beats of VL, TMASK leaves it (R254, R263). -/
def State.nextBeat (s : State) (k : VKind) (u : Nat) : Nat :=
  (s.rf (R.GRN_BEAT u) F.GRN_BEAT_BEAT + (if k = .tmask then 0 else (s.rf (R.VEC_VL u) F.VEC_VL_VL + 127) / 128)) %
    2 ^ F.GRN_BEAT_BEAT.width

/-- What a V instruction needs in order to run as it issues: its stream issues at once with nothing in flight, no write of the tile is too
recent for its reads, and every beat's granules and lines are there (R53, R54, R121, R204, R205). -/
def State.vReady (s : State) (k : VKind) (a : VArgs) : Prop :=
  s.fresh (.tile a.tile 3) = true ∧ (s.tile a.tile).vops = [] ∧ s.settledBy a.tile s.chip.fcyc = true ∧
    (s.vgrants (s.vopOf k a)).length = (s.vopOf k a).beats

/-- What a V instruction has done once it has run. Each span of its result holds the bytes that its operands gave as it issued, where the
spans share no byte (of two, the one that is written in half words only where no error injection is armed); its granules are full in a
filling or held write, those that its consume reads emptied are empty, no other granule changed; nothing else was stored to, and only
the registers listed changed. -/
def State.vRan (s t : State) (k : VKind) (a : VArgs) : Prop :=
  let u := a.tile
  let o := s.vopOf k a
  let ws := (s.vres o).writes
  let spans := ws.map fun w => (w.1, w.2.1.length)
  t.pcOf (.tile u 3) = (s.pcOf (.tile u 3) + 2) % 4096 ∧ (t.tile u).vops = [] ∧ t.waitq (.tile u 3) = [] ∧
  t.rf (R.GRN_BEAT u) F.GRN_BEAT_BEAT = s.nextBeat k u ∧
  (spans.Pairwise apartSpans → (∀ w ∈ spans, w.2 ≤ 0x180000) → (ws.length = 1 ∨ s.rb (R.SPD_INJECT u) F.SPD_INJECT_ARM = false) →
    (∀ w ∈ ws, t.holds u w.1 (pdata w.2.1)) ∧ s.storesOnly t u spans) ∧
  (∀ v g, g < 6144 → t.isFull v g = if v = u then
      (ws.any fun w => w.2.2 != 0 && (granulesOf w.1 w.2.1.length).contains g) || (s.isFull u g && !o.consumed.contains g)
    else s.isFull v g) ∧
  s.onlyIssue t (.tile u 3) (vRegs u)

/-- The command `c` was answered: the reply with its status and details is the last that waits on its queue (R365); the queue that was
disabled meanwhile gets none (R361). -/
def State.answered (s t : State) (c : Cmd) (status detail detail2 : Nat) : Prop :=
  (t.queue c.queue).replies = (s.queue c.queue).replies ++
    if (s.queue c.queue).en then [⟨c.tag.toNat, status, c.opcode, detail, s.frame, detail2, c.sqHead, false⟩] else []

/-- A counter field after `n` more, saturating at its largest value. -/
def State.plus (s : State) (k : Nat) (f : Fld) (n : Nat) : Nat := min (s.rf k f + n) (2 ^ f.width - 1)

/-- The coming tick fires at frame cycle `a` and only ends the frame: frames run, no freeze comes before it, it is no realign's
tick, the job does not stop, no replay runs and no descriptor write waits behind a commit (R27, R36, R62, R101, R269, R370, R403). -/
def State.ticks (s : State) (a : Nat) : Bool :=
  s.released && s.tickAt == some a && !s.freezesBefore a && !s.realignNext && !s.chip.halting && !s.replaying &&
    s.tiles.all fun x => x.2.kvHeld.isEmpty

end Sys2Proof.Machine
end

