-- ==== Sys2Proof/Certificates/Slice0/Obligations.lean ====
section
/-! DEFINITION. The statements for the provers. Those with basis 'stated' formalise numbered rules of spec/; the docstring of each
names what it rests on. -/

open Sys2Proof Sys2Proof.Machine

/-! ### The block -/

/-- A step with a command in front of the queue is that command's meaning on the state with the rest of the queue. -/
def Obligations.StepRunsFront : Prop :=
  ∀ (s : State) (c : Instr) (rest : List Instr), s.pending = c :: rest → step s = exec c { s with pending := rest }

/-- With an empty queue the step is one core cycle (log entry 5): the always-on time moves on by it, and no register, memory,
tile or queue changes. No command touches the queue of waiting commands. -/
def Obligations.QueueAndIdle : Prop :=
  (∀ s : State, s.pending = [] → Completes (step s) fun t =>
    s.sameMemory t ∧ t.regs = s.regs ∧ t.tiles = s.tiles ∧ t.pending = [] ∧
      t.chip.ns * s.perUnit + t.chip.nsSub = s.chip.ns * s.perUnit + s.chip.nsSub + 80) ∧
  ∀ (i : Instr) (s t : State), exec i s = .next t → t.pending = s.pending

/-- Every step keeps every sparse store in its canonical form, strictly rising keys and no entry that an unlisted key reads as, and
never numbers a transfer with a number in use. -/
def Obligations.StepKeepsSound : Prop :=
  ∀ s t : State, s.sound = true → step s = .next t → t.sound = true

/-- What reset leaves: a sound state with nothing waiting, memories that read 0 with no poison, every granule empty, and the reset values that the
register maps state, here the ones that are not 0. -/
def Obligations.ResetValues : Prop :=
  State.reset.sound = true ∧ State.reset.pending = [] ∧ (∀ k, State.reset.byte k = 0 ∧ State.reset.errByte k = 0) ∧
  (∀ l, State.reset.linePoison l = false) ∧ (∀ t g, State.reset.isFull t g = false) ∧
  State.reset.running = false ∧ State.reset.frmLen = 4096 ∧ State.reset.frame = 0 ∧
  State.reset.rf R.FRM_MAINT_SLICE F.FRM_MAINT_SLICE_FRAC = 4 ∧ State.reset.rb R.TIR_SCRUB_CTL F.TIR_SCRUB_CTL_EN = true ∧
  State.reset.rf R.TIR_SCRUB_CTL F.TIR_SCRUB_CTL_INTERVAL = 10 ∧ State.reset.rb R.MSH_CTL F.MSH_CTL_AUTO_RETIRE = true ∧
  State.reset.reg R.MOD_ALERT_EN = 0x3F ∧
  ∀ u < 512, State.reset.rb (R.GRN_MODE u) F.GRN_MODE_MODE = true ∧ State.reset.tw (R.GRN_TBL_SEL u) = 0 ∧
    (State.reset.tile u).mout = ⟨0, 0, 0, 0, 8⟩ ∧ ∀ d < 64, (State.reset.kvDesc u d).len = 0

/-! ### Streams -/

/-- IDLE, CSET, JUMP and CMPSET of a stream that issues at once: the program counter moves to the next word or the target, the
stream may issue again a cycle later (IDLE: CYC + 2 cycles later), the counter or comparator holds its new setting. -/
def Obligations.CommonGroupResults : Prop :=
  ∀ (s : State) (st : StreamId) (h : Hdr), s.fresh st = true →
    (∀ cyc, (Instr.idle st h cyc).wf = true → Completes (exec (.idle st h cyc) s) fun t =>
      t.pcOf st = (s.pcOf st + 1) % 4096 ∧ t.freeAt st = s.issueCycle st + cyc + 2) ∧
    (∀ c v, (Instr.cset st h c v).wf = true → Completes (exec (.cset st h c v) s) fun t =>
      t.pcOf st = (s.pcOf st + 1) % 4096 ∧ t.freeAt st = s.issueCycle st + 1 ∧ t.cnt st c = v) ∧
    (∀ target, (Instr.jump st h target).wf = true → Completes (exec (.jump st h target) s) fun t =>
      t.pcOf st = (if h.eof then (s.pcOf st + 1) % 4096 else target) ∧ t.freeAt st = s.issueCycle st + 1) ∧
    (∀ c src rel v, (Instr.cmpset st h c src rel v).wf = true → Completes (exec (.cmpset st h c src rel v) s) fun t =>
      t.pcOf st = (s.pcOf st + 1) % 4096 ∧ t.freeAt st = s.issueCycle st + 1 ∧ t.cmp st c = ⟨src, rel, v, true⟩)

/-- LOOP, BR and WAITC of a stream that issues at once. LOOP adds 1 to its counter modulo 2^32 and branches while the new count is
below LIMIT, else clears the counter and falls through. BR branches where its comparator's result equals SENSE. A branch with the end-of-frame marker goes on at the word after it. WAITC whose comparator already gives
SENSE falls through at once. -/
def Obligations.BranchResults : Prop :=
  ∀ (s : State) (st : StreamId) (h : Hdr), s.fresh st = true →
    (∀ c target limit, (Instr.loop st h c target limit).wf = true → Completes (exec (.loop st h c target limit) s) fun t =>
      let n := (s.cnt st c + 1) % 0x100000000
      t.pcOf st = (if n < limit ∧ h.eof = false then target else (s.pcOf st + 1) % 4096) ∧ t.cnt st c = (if n < limit then n else 0)) ∧
    (∀ c sense target, (Instr.br st h c sense target).wf = true → Completes (exec (.br st h c sense target) s) fun t =>
      t.pcOf st = if s.cmpResult st c (s.issueCycle st) = sense ∧ h.eof = false then target else (s.pcOf st + 1) % 4096) ∧
    (∀ c sense, (Instr.waitc st h c sense).wf = true → s.cmpResult st c (s.issueCycle st) = sense →
      Completes (exec (.waitc st h c sense) s) fun t =>
        t.pcOf st = (s.pcOf st + 1) % 4096 ∧ t.freeAt st = s.issueCycle st + 1 ∧ t.waitq st = [])

/-- The frame of the common group, over every form and whether the instruction issues, waits or finds its stream stopped:
memories, full/empty bits, host queues, the other tiles, and every register but the record of the issue and the destination
stay. -/
def Obligations.CommonGroupFrame : Prop :=
  ∀ (s t : State) (st : StreamId) (h : Hdr),
    (∀ cyc, exec (.idle st h cyc) s = .next t → s.sameMemory t ∧ s.onlyIssue t st []) ∧
    (∀ c v, exec (.cset st h c v) s = .next t → s.sameMemory t ∧ s.onlyIssue t st (cntRegs c st)) ∧
    (∀ c target limit, exec (.loop st h c target limit) s = .next t → s.sameMemory t ∧ s.onlyIssue t st (cntRegs c st)) ∧
    (∀ target, exec (.jump st h target) s = .next t → s.sameMemory t ∧ s.onlyIssue t st []) ∧
    (∀ c src rel v, exec (.cmpset st h c src rel v) s = .next t → s.sameMemory t ∧ s.onlyIssue t st (cmpRegs c st)) ∧
    (∀ c sense target, exec (.br st h c sense target) s = .next t → s.sameMemory t ∧ s.onlyIssue t st (cmpRegs c st)) ∧
    (∀ c sense, exec (.waitc st h c sense) s = .next t → s.sameMemory t ∧ s.onlyIssue t st (cmpRegs c st))

/-- CWAITG, FRAME_END, MSYNC, VSYNC and DFENCE of a stream that issues at once, their wait already over. CWAITG of a granule that is
full and readable passes and, with mode 2, empties it and no other granule; FRAME_END ends the C stream's frame; MSYNC, VSYNC and DFENCE pass once
the stream's earlier passes, operations and transfers are complete, and change nothing else. -/
def Obligations.WaitsPass : Prop :=
  ∀ (s : State) (u : Nat) (h : Hdr),
    (s.fresh (.tile u 0) = true →
      (∀ gm g, (Instr.cwaitg u h gm g).wf = true → s.readReady u 1 (g * 256) 256 = true → Completes (exec (.cwaitg u h gm g) s) fun t =>
        t.pcOf (.tile u 0) = (s.pcOf (.tile u 0) + 1) % 4096 ∧
          ∀ v j, j < 6144 → t.isFull v j = if v = u ∧ j = g ∧ gm = 2 then false else s.isFull v j) ∧
      ((Instr.frameEnd u h).wf = true → Completes (exec (.frameEnd u h) s) fun t =>
        t.pcOf (.tile u 0) = (s.pcOf (.tile u 0) + 1) % 4096 ∧ (t.tile u).c.eof = true)) ∧
    (s.fresh (.tile u 2) = true → (Instr.msync u h).wf = true → (s.tile u).passes = [] →
      Completes (exec (.msync u h) s) fun t =>
        t.pcOf (.tile u 2) = (s.pcOf (.tile u 2) + 1) % 4096 ∧ t.waitq (.tile u 2) = [] ∧ s.sameMemory t ∧
          s.onlyIssue t (.tile u 2) []) ∧
    (s.fresh (.tile u 3) = true → (Instr.vsync u h).wf = true → (s.tile u).vops = [] →
      Completes (exec (.vsync u h) s) fun t =>
        t.pcOf (.tile u 3) = (s.pcOf (.tile u 3) + 1) % 4096 ∧ t.waitq (.tile u 3) = [] ∧ s.sameMemory t ∧
          s.onlyIssue t (.tile u 3) []) ∧
    (s.fresh (.tile u 1) = true → (Instr.dfence u h).wf = true → (∀ x ∈ s.chip.xfers, x.tile = u → x.stream ≠ 1) →
      Completes (exec (.dfence u h) s) fun t =>
        t.pcOf (.tile u 1) = (s.pcOf (.tile u 1) + 1) % 4096 ∧ t.waitq (.tile u 1) = [] ∧ s.sameMemory t ∧
          s.onlyIssue t (.tile u 1) [])

/-- A wait that is not over holds its stream (R56): CWAITG of a granule not full or not yet readable, WAITC whose comparator does not give SENSE, MSYNC
and VSYNC with work in flight, DFENCE with a transfer under way. The program counter stays, and the instruction is the one that
waits; of the chip only the stall's signal is noted.
STALL_RELEASE: a stream whose front instruction is a CWAITG issues it once the granule is full and readable, and then the instruction that
waits behind it, here a JUMP (no break is armed that would stop the stream between them); until then the queue
stays as it is. -/
def Obligations.WaitsHoldAndResume : Prop :=
  (∀ (s : State) (u : Nat) (h : Hdr),
    (∀ gm g, s.fresh (.tile u 0) = true → (Instr.cwaitg u h gm g).wf = true → s.readReady u 1 (g * 256) 256 = false →
      Completes (exec (.cwaitg u h gm g) s) fun t =>
        t.waitq (.tile u 0) = [.cwaitg u h gm g] ∧ s.sameMemory t ∧ t.regs = s.regs ∧ { t.chip with sigs := s.chip.sigs } = s.chip) ∧
    (∀ st c sense, s.fresh st = true → (Instr.waitc st h c sense).wf = true → s.cmpResult st c (s.issueCycle st) = !sense →
      Completes (exec (.waitc st h c sense) s) fun t => t.waitq st = [.waitc st h c sense] ∧ t.pcOf st = s.pcOf st) ∧
    (s.fresh (.tile u 2) = true → (Instr.msync u h).wf = true → (s.tile u).passes ≠ [] →
      Completes (exec (.msync u h) s) fun t => t.waitq (.tile u 2) = [.msync u h] ∧ t.regs = s.regs) ∧
    (s.fresh (.tile u 3) = true → (Instr.vsync u h).wf = true → (s.tile u).vops ≠ [] →
      Completes (exec (.vsync u h) s) fun t => t.waitq (.tile u 3) = [.vsync u h] ∧ t.regs = s.regs) ∧
    (s.fresh (.tile u 1) = true → (Instr.dfence u h).wf = true → (∃ x ∈ s.chip.xfers, x.tile = u ∧ x.stream = 1) →
      Completes (exec (.dfence u h) s) fun t => t.waitq (.tile u 1) = [.dfence u h] ∧ t.regs = s.regs)) ∧
  (∀ (s : State) (u gm g target : Nat) (h h' : Hdr), s.streamOk (.tile u 0) = true → s.canIssue (.tile u 0) = true →
    (Instr.cwaitg u h gm g).wf = true → (Instr.jump (.tile u 0) h' target).wf = true →
    s.waitq (.tile u 0) = [.cwaitg u h gm g, .jump (.tile u 0) h' target] →
    s.rb (R.STR_BRK_COUNT u 0) F.STR_BRK_COUNT_EN = false → s.rb (R.STR_BRK_TAG u 0) F.STR_BRK_TAG_EN = false →
    Completes (exec (.stallRelease (.tile u 0)) s) fun t =>
      if s.readReady u 1 (g * 256) 256 then t.waitq (.tile u 0) = [] ∧ t.pcOf (.tile u 0) = target ∧ t.isFull u g = (gm == 1 && s.isFull u g)
      else t.waitq (.tile u 0) = s.waitq (.tile u 0) ∧ t.regs = s.regs)

/-! ### D stream -/

/-- DGSET sets the full/empty bits of COUNT granules from FIRST on, modulo 6144, to VAL, and no other: 16 granules a cycle, each in its own
cycle. A granule that is full beforehand and is to empty later than that cycle is still to empty; one that becomes full later than that
cycle does become full. No memory byte changes. -/
def Obligations.DgsetResult : Prop :=
  ∀ (s : State) (u first count : Nat) (v : Bool) (h : Hdr), s.fresh (.tile u 1) = true →
    (Instr.dgset u h first count v).wf = true → Completes (exec (.dgset u h first count v) s) fun t =>
      t.pcOf (.tile u 1) = (s.pcOf (.tile u 1) + 1) % 4096 ∧
      (∀ w g, g < 6144 →
        let i := (g + 6144 - first) % 6144
        let c := max (s.issueCycle (.tile u 1)) (s.tile u).d.dgset + i / 16
        t.isFull w g = if w = u ∧ i < count then
            (if v then s.isFull u g || decide (s.fullTill u g ≤ c) else s.isFull u g && decide (c < s.availAt u (256 * g) 256))
          else s.isFull w g) ∧
      t.mem = s.mem ∧ t.err = s.err ∧ t.poison = s.poison ∧ s.onlyIssue t (.tile u 1) []

/-- DCPY, and DMOV from a tile's scratchpad into the same scratchpad, where no write of the tile is too recent for their reads. With a
plain or filling write, the destination then holds the bytes that the source gave as it was read at issue, wrapping at the scratchpad's
end, and nothing else was stored to; with WM 1 its granules are full. With a held write into granules that are all full, nothing is
stored yet and the data waits, a flit for every 64 bytes. Only the record of the issue and of the accesses is written, and no other tile
changes. A DMOV to an address that splits words is stated where no error injection is armed. -/
def Obligations.LocalCopyResult : Prop :=
  ∀ s : State, s.sound = true →
    (∀ a : DcpyArgs, s.fresh (.tile a.tile 1) = true → (Instr.dcpy a).wf = true → s.settledBy a.tile s.chip.fcyc = true →
      let n := 256 * a.len
      let k := if a.step then n * s.cnt (.tile a.tile 1) a.ctr else 0
      let src := (256 * a.src + k) % 0x180000
      let dst := (256 * a.dst + k) % 0x180000
      s.readReady a.tile a.gm src n = true → s.localRoom a.tile a.wm 0 dst n = true →
      Completes (exec (.dcpy a) s) fun t =>
        t.pcOf (.tile a.tile 1) = (s.pcOf (.tile a.tile 1) + 1) % 4096 ∧
        (a.wm < 2 → t.holds a.tile dst (pdata (s.rd 0 a.tile src n)) ∧ s.storesOnly t a.tile [(dst, n)]) ∧
        (a.wm = 1 → ∀ g ∈ granulesOf dst n, t.isFull a.tile g = true) ∧
        (a.wm = 2 → a.gm < 2 → s.allFull a.tile dst n = true → t.mem = s.mem ∧
          (t.tile a.tile).landing.length = (s.tile a.tile).landing.length + 4 * a.len) ∧
        s.onlyIssue t (.tile a.tile 1) (accessRegs a.tile)) ∧
    (∀ a : DmovArgs, s.fresh (.tile a.tile 1) = true → (Instr.dmov a).wf = true → a.dir = false → s.settledBy a.tile s.chip.fcyc = true →
      let n := 64 * a.len
      let k := if a.step then n * s.cnt (.tile a.tile 1) a.ctr else 0
      let src := (64 * a.loc + k) % 0x180000
      let dst := gOff (gAdd a.g k) % 0x180000
      gMod (gAdd a.g k) = s.position → gTile (gAdd a.g k) = a.tile → gSpace (gAdd a.g k) = 0 →
      s.readReady a.tile a.gm src n = true → s.localRoom a.tile a.wm 0 dst n = true → n ≤ 0x180000 → a.wm < 2 →
      (dst % 8 = 0 ∨ s.rb (R.SPD_INJECT a.tile) F.SPD_INJECT_ARM = false) →
      Completes (exec (.dmov a) s) fun t =>
        t.pcOf (.tile a.tile 1) = (s.pcOf (.tile a.tile 1) + 2) % 4096 ∧
        t.holds a.tile dst (pdata (s.rd 0 a.tile src n)) ∧ s.storesOnly t a.tile [(dst, n)] ∧
        s.onlyIssue t (.tile a.tile 1) (accessRegs a.tile))

/-- DMOV between a tile and another tile of the module. A write sends one flit for each 64 bytes, in order, each with the bytes read
at issue (no write of the tile being too recent for its reads) and its own global address; a read sends one request. The transfer is
under way, one more than before; no memory byte changes. -/
def Obligations.DmovSends : Prop :=
  ∀ (s : State) (a : DmovArgs), s.fresh (.tile a.tile 1) = true → (Instr.dmov a).wf = true → s.settledBy a.tile s.chip.fcyc = true →
    let n := 64 * a.len
    let k := if a.step then n * s.cnt (.tile a.tile 1) a.ctr else 0
    let loc := (64 * a.loc + k) % 0x180000
    let g := gAdd a.g k
    s.badAddr g = false → gMod g = s.position → gSpace g ≠ 7 → gTile g ≠ a.tile →
    (a.dir = false → s.readReady a.tile a.gm loc n = true) →
    Completes (exec (.dmov a) s) fun t =>
      t.pcOf (.tile a.tile 1) = (s.pcOf (.tile a.tile 1) + 2) % 4096 ∧
      t.chip.xfers.length = s.chip.xfers.length + 1 ∧ t.mem = s.mem ∧ s.onlyIssue t (.tile a.tile 1) (accessRegs a.tile) ∧
      ∃ fs : List Flit, t.chip.flits = s.chip.flits ++ fs ∧
        (∀ f ∈ fs, f.cur = a.tile ∧ f.dstTile = gTile g ∧ f.dstPort = none ∧ f.sched = a.sched ∧ f.wm = a.wm) ∧
        (if a.dir then fs.map (fun f => (f.kind, f.g, f.len)) = [(1, g, a.len)]
          else fs.map (·.data) = pieces 64 (pdata (s.rd 0 a.tile loc n)) ∧
            fs.map (·.g) = (List.range a.len).map fun i => gAdd g (64 * i))

/-- READ_REQ_SERVE of a request of this module whose scratchpad data is there, no write of the tile being too recent for it: the request
leaves, and read data goes to the reader, a flit for every 64 bytes, with the bytes that stand at the tile; no memory byte changes. -/
def Obligations.ReadRequestServed : Prop :=
  ∀ (s : State) (u : Nat) (r : ReadReq), s.tileOk u = true → s.meshHeld = false →
    (s.tile u).reads.find? (fun q => q.id == r.id) = some r → r.space = 0 → r.retMod = s.position → r.retTile < 512 → r.retSpace < 8 →
    r.retOff < 0x40000000000 → s.settledBy u r.cyc = true →
    s.readReady u r.gm (r.off % 0x180000) (64 * r.len) = true →
    Completes (exec (.readReqServe u r.id) s) fun t =>
      (∀ q ∈ (t.tile u).reads, q.id ≠ r.id) ∧ t.mem = s.mem ∧ s.sameRegsBut t (accessRegs u) ∧
      ∃ fs : List Flit, t.chip.flits = s.chip.flits ++ fs ∧ (∀ f ∈ fs, f.kind = 2 ∧ f.cur = u ∧ f.xid = r.xid ∧ f.dstPort = none) ∧
        fs.map (·.data) = pieces 64 (pdata (s.rd 0 u (r.off % 0x180000) (64 * r.len)))

/-! ### Key/value cache -/

/-- KV_COMMIT, with a notify or without, its path line there, no line it copies awaiting a refetch, and its notify free to go. A commit that
passes the checks adds the path's length A to LEN, counts in COMMITS, and copies the entries: where no line is read or written twice, each
committed line then holds the bytes that its staging line gave. One that fails leaves LEN and COMMITS, sets the flag of the check that
failed, and copies nothing. Either way LAST_NCM1, LAST_A and LAST_FAIL show it, DISCARDED grows by the candidates that were not accepted,
and a notify to another tile leaves as one flit. KVC_DESC_APPLY of a descriptor whose commits are complete: none of them is in flight any
more, the frame cycle has reached the last of their cycles, and a write of KVC_STAGE that was held on the descriptor is applied. -/
def Obligations.KvCommitResult : Prop :=
  (∀ (s : State) (a : KvArgs), s.fresh (.tile a.tile 1) = true → (Instr.kvCommit a).wf = true →
    (a.ntf = true → s.badAddr a.g = false ∧
      (gMod a.g = s.position ∨ s.outboundReady (gMod a.g) a.tile (gTile a.g) a.nsched = true)) →
    s.readReady a.tile a.gm (64 * a.path) 64 = true → s.settledBy a.tile s.chip.fcyc = true →
    let bs := s.rd 0 a.tile (64 * a.path) 64
    let k := s.kvDesc a.tile a.desc
    let ok := s.kvCheck a bs = 0
    let n := if ok then (pathOf (pdata bs)).1 else 0
    let xs := s.kvCopies a bs
    (∀ x ∈ xs, s.needsRefetch 1 a.tile x.1 64 = false) →
    Completes (exec (.kvCommit a) s) fun t =>
      t.pcOf (.tile a.tile 1) = (s.pcOf (.tile a.tile 1) + 2) % 4096 ∧
      t.rf (R.KVC_STAGE a.tile a.desc) F.KVC_STAGE_LAST_NCM1 = a.ncm1 ∧ t.rf (R.KVC_STAGE a.tile a.desc) F.KVC_STAGE_LAST_A = n ∧
      (t.rb (R.KVC_STAGE a.tile a.desc) F.KVC_STAGE_LAST_FAIL = true ↔ ¬ ok) ∧
      (t.kvDesc a.tile a.desc).len = k.len + n ∧
      t.rf (R.KVC_STAT a.tile) F.KVC_STAT_COMMITS = s.plus (R.KVC_STAT a.tile) F.KVC_STAT_COMMITS (if ok then 1 else 0) ∧
      t.rf (R.KVC_STAT a.tile) F.KVC_STAT_DISCARDED = s.plus (R.KVC_STAT a.tile) F.KVC_STAT_DISCARDED (a.ncm1 + 1 - n) ∧
      (¬ ok → t.rb (R.KVC_STAT a.tile) (if s.kvCheck a bs = 1 then F.KVC_STAT_DESC_FAULT
        else if s.kvCheck a bs = 2 then F.KVC_STAT_PATH_FAULT else F.KVC_STAT_FULL) = true) ∧
      (¬ ok → a.ntf = false ∨ s.nearby a.tile a.g = false → t.mem = s.mem) ∧
      ((xs.map (fun x => s.translate a.tile x.1) ++ xs.map (·.2)).Nodup →
        (∀ x ∈ xs, (s.tierLine a.tile (s.translate a.tile x.1)).data.length = 64) → ∀ x ∈ xs,
        t.bytes (memKey 1 a.tile x.2) 64 = (s.tierLine a.tile (s.translate a.tile x.1)).data) ∧
      (a.ntf = true → s.nearby a.tile a.g = false → ∃ f, t.chip.flits = s.chip.flits ++ [f] ∧ f.g = a.g ∧ f.cur = a.tile ∧ f.kind = 0 ∧
        f.data = notifyBytes (k.len + n) n (a.ncm1 + 1) (s.kvCheck a bs)) ∧
      s.onlyIssue t (.tile a.tile 1) ([R.KVC_STAGE a.tile a.desc, R.KVC_STAT a.tile, R.KVC_DESC_2 a.tile a.desc, R.TIR_INJECT,
        R.FAB_TRK_STAT, R.MSH_DEMOTE_CNT, R.MSH_DEMOTE_LAST] ++ accessRegs a.tile)) ∧
  ∀ (s : State) (u d : Nat), s.tileOk u = true → s.running = true → s.frozen = false → s.chip.hold = none → d < 64 →
    let es := (s.tile u).kvInflight.filter (·.1 == d)
    es ≠ [] → (∀ e ∈ es, ∀ x ∈ s.chip.xfers, x.id ≠ e.2.2) →
    (∀ w ∈ (s.tile u).kvHeld, w.desc = d → w.key = R.KVC_STAGE u d) →
    Completes (exec (.kvcDescApply u d) s) fun t =>
      (t.tile u).kvInflight = (s.tile u).kvInflight.filter (·.1 != d) ∧ (t.tile u).kvHeld = (s.tile u).kvHeld.filter (·.desc != d) ∧
      (∀ e ∈ es, e.2.1 ≤ t.chip.fcyc) ∧ s.sameMemory t ∧ s.sameRegsBut t [R.KVC_STAGE u d] ∧
      match ((s.tile u).kvHeld.filter (·.desc == d)).getLast? with
      | none => t.regs = s.regs
      | some w => t.rf (R.KVC_STAGE u d) F.KVC_STAGE_STG = fget w.val F.KVC_STAGE_STG

/-! ### Matrix array -/

/-- MOUT sets the output settings of the passes after it and changes no pass that has issued; JOB_START, the row maps settled, sets FP32, RNE, column layout,
plain writes and a stride of 8 lines. MMUL and MMULA with no pass in flight: the pass is the tile's one pass, with the settings in force and its addresses stepped; MXA_FMT
shows its formats. An MMULA whose slot holds no adapter writes +0, so its result cells are +0 once its beats have entered, its operands being there; its beats enter no earlier than
10 cycles after its issue and than the array's entry is free, and its last at least 16 cycles after the last beat of the pass before (R174). -/
def Obligations.PassIssues : Prop :=
  (∀ (s : State) (a : MoutArgs), s.fresh (.tile a.tile 2) = true → (Instr.mout a).wf = true →
    Completes (exec (.mout a) s) fun t =>
      (t.tile a.tile).mout = ⟨a.fmt, a.rnd, a.olay, a.wm, a.ostr⟩ ∧ (t.tile a.tile).passes = (s.tile a.tile).passes ∧
      t.pcOf (.tile a.tile 2) = (s.pcOf (.tile a.tile 2) + 1) % 4096 ∧ s.sameMemory t ∧ s.onlyIssue t (.tile a.tile 2) []) ∧
  (∀ (s : State) (c : Cmd), s.mayStart c = true → s.isManager = true → s.running = false → s.startOk = true → s.chip.armedMaps = none →
    Completes (exec (.jobStart c) s) fun t => ∀ u, (t.tile u).mout = ⟨0, 0, 0, 0, 8⟩) ∧
  ∀ (s : State) (a : MArgs), s.fresh (.tile a.tile 2) = true → s.outputAllowed a = true → (s.tile a.tile).passes = [] →
    let n := if a.step then s.cnt (.tile a.tile 2) a.ctr else 0
    let aOff := 256 * a.ag + n * roundUp 256 (aImageBytes a.afmt (8 * a.k8))
    ((Instr.mmul a).wf = true → Completes (exec (.mmul a) s) fun t =>
      t.pcOf (.tile a.tile 2) = (s.pcOf (.tile a.tile 2) + 2) % 4096 ∧
      t.rf (R.MXA_FMT a.tile) F.MXA_FMT_WFMT = a.fmt ∧ t.rf (R.MXA_FMT a.tile) F.MXA_FMT_AFMT = a.afmt ∧
      t.mem = s.mem ∧ s.onlyIssue t (.tile a.tile 2) ([R.MXA_FMT a.tile, R.MXA_STAT a.tile, R.WPA_STAT a.tile, R.WPA_NAN_ADDR a.tile,
        R.WPA_CB_STAT a.tile] ++ accessRegs a.tile) ∧
      ∃ p, (t.tile a.tile).passes = [p] ∧ p.args = a ∧ p.mout = (s.tile a.tile).mout ∧
        (a.adp = false → p.adp = none ∧ p.refused = false ∧ p.aOff = aOff) ∧
        p.wOff = 1024 * a.woff + n * roundUp 1024 (wImageBytes a.fmt (8 * a.k8)) ∧
        p.chk = (a.bchk != 0 && s.rb (R.MXA_CTL a.tile) F.MXA_CTL_BCHK_EN)) ∧
    ((Instr.mmula a).wf = true → s.rf (R.MXA_ADP_SLOT a.tile a.aslot) F.MXA_ADP_SLOT_PKEY = 0 → s.timely a.tile = true →
      (a.gm = 0 ∨ s.allFull a.tile aOff (aImageBytes a.afmt (8 * a.k8)) = true) →
      (a.gm = 2 → aImageBytes a.afmt (8 * a.k8) ≤ 0x180000) →
      Completes (exec (.mmula a) s) fun t =>
        t.pcOf (.tile a.tile 2) = (s.pcOf (.tile a.tile 2) + 2) % 4096 ∧ t.mem = s.mem ∧
        s.onlyIssue t (.tile a.tile 2) (R.MXA_FMT a.tile :: accessRegs a.tile) ∧
        ∃ p, (t.tile a.tile).passes = [p] ∧ p.args = a ∧ p.mout = (s.tile a.tile).mout ∧ p.zero = true ∧ p.done = true ∧
          s.issueCycle (.tile a.tile 2) + 10 ≤ p.firstEntry ∧ (s.tile a.tile).entryFree ≤ p.firstEntry ∧
          ((s.tile a.tile).lastL ≠ 0 → (s.tile a.tile).lastL + 16 ≤ p.lastEntry) ∧
          ∀ r < 128, ∀ c < 16, p.cell r c = ⟨0, false⟩)

/-- PASS_DRAIN of a pass whose output does not wait, its columns not overlapping: the results stand at their places in the
scratchpad, in column layout or as an activation image, and the pass is gone; so of a pass that runs unchecked and of one whose check
finds nothing. A checked pass that mismatches writes nothing and becomes the replay. No border line of a checked pass awaits a refetch. -/
def Obligations.PassDrainResult : Prop :=
  ∀ (s : State) (u : Nat) (p : PassS), s.tileOk u = true → s.released = true → (s.tile u).passes = [p] → p.attempt = 0 → p.done = true →
    p.args.tile = u → p.verdict = none → (p.chk = true → ∀ o ∈ p.bwait, s.lineStalls u o = false) →
    (s.drainReady p = true → (p.chk = true → ∀ c ∈ p.checks, c.2.2 ≠ .mismatch) → p.placed = true →
      Completes (exec (.passDrain u) s) fun t =>
        (t.tile u).passes = [] ∧ (∀ w ∈ p.writes.1, t.holds u w.1 (pdata w.2)) ∧
          s.storesOnly t u (p.writes.1.map fun w => (w.1, w.2.length)) ∧ ∀ v, v ≠ u → t.tile v = s.tile v) ∧
    (p.chk = true → (∃ c ∈ p.checks, c.2.2 = .mismatch) → Completes (exec (.passDrain u) s) fun t =>
      t.mem = s.mem ∧ t.full = s.full ∧ t.rb (R.MXA_BORDER_STAT u) F.MXA_BORDER_STAT_MISMATCH = true ∧
      s.sameRegsBut t [R.MXA_BORDER_STAT u, R.MXA_REPLAY_CNT u] ∧
      ∃ q, (t.tile u).passes = [q] ∧ q.args = p.args ∧ q.attempt = 1 ∧ q.done = false)

/-- PASS_REPLAY whose operands have been read again, no border line awaiting a refetch, and whose output does not wait. A replay that agrees writes its results and is gone,
no fault counted; one that mismatches too writes poisoned results, counts and reports the fault. -/
def Obligations.PassReplayResult : Prop :=
  ∀ (s : State) (u : Nat) (p : PassS), s.tileOk u = true → s.released = true → (s.tile u).passes = [p] → p.attempt = 1 → p.done = true →
    p.chk = true → p.verdict = none → (∀ o ∈ p.bwait, s.lineStalls u o = false) → s.drainReady p = true → p.args.tile = u →
    ((∀ c ∈ p.checks, c.2.2 ≠ .mismatch) → Completes (exec (.passReplay u) s) fun t =>
      (t.tile u).passes = [] ∧ t.rf (R.MXA_REPLAY_CNT u) F.MXA_REPLAY_CNT_FAULTS = s.rf (R.MXA_REPLAY_CNT u) F.MXA_REPLAY_CNT_FAULTS ∧
        (p.placed = true → (∀ w ∈ p.writes.1, t.holds u w.1 (pdata w.2)) ∧
          s.storesOnly t u (p.writes.1.map fun w => (w.1, w.2.length)))) ∧
    ((∃ c ∈ p.checks, c.2.2 = .mismatch) → Completes (exec (.passReplay u) s) fun t =>
      (t.tile u).passes = [] ∧ t.rb (R.MXA_BORDER_STAT u) F.MXA_BORDER_STAT_FAULT = true ∧
        t.rf (R.MXA_REPLAY_CNT u) F.MXA_REPLAY_CNT_FAULTS = s.plus (R.MXA_REPLAY_CNT u) F.MXA_REPLAY_CNT_FAULTS 1 ∧
        (p.placed = true → ∀ w ∈ p.writes.1, ∀ j < w.2.length, t.linePoison (memKey 0 u ((w.1 + j) % 0x180000) / 64) = true))

/-! ### Vector unit -/

/-- Every V instruction of the long form, of a stream that issues at once with nothing in flight, whose granules and lines are all there:
it runs, each of the 27 named with its own conclusion. Its result spans hold what its operands gave; GRN_BEAT moves on by the beats of VL
(TMASK leaves it); granules are filled and emptied as its modes say; nothing else is stored to and no other register written.
One of which no beat has its granules issues and waits, in order, without any effect on a memory. -/
def Obligations.VectorRunsOrWaits : Prop :=
  (∀ (s : State) (a : VArgs),
    ((Instr.vadd a).wf = true → s.vReady .add a → Completes (exec (.vadd a) s) fun t => s.vRan t .add a) ∧
    ((Instr.vsub a).wf = true → s.vReady .sub a → Completes (exec (.vsub a) s) fun t => s.vRan t .sub a) ∧
    ((Instr.vmul a).wf = true → s.vReady .mul a → Completes (exec (.vmul a) s) fun t => s.vRan t .mul a) ∧
    ((Instr.vfma a).wf = true → s.vReady .fma a → Completes (exec (.vfma a) s) fun t => s.vRan t .fma a) ∧
    ((Instr.vmax a).wf = true → s.vReady .max a → Completes (exec (.vmax a) s) fun t => s.vRan t .max a) ∧
    ((Instr.vmin a).wf = true → s.vReady .min a → Completes (exec (.vmin a) s) fun t => s.vRan t .min a) ∧
    ((Instr.vcmp a).wf = true → s.vReady .cmp a → Completes (exec (.vcmp a) s) fun t => s.vRan t .cmp a) ∧
    ((Instr.vsel a).wf = true → s.vReady .sel a → Completes (exec (.vsel a) s) fun t => s.vRan t .sel a) ∧
    ((Instr.vand a).wf = true → s.vReady .and a → Completes (exec (.vand a) s) fun t => s.vRan t .and a) ∧
    ((Instr.vor a).wf = true → s.vReady .or a → Completes (exec (.vor a) s) fun t => s.vRan t .or a) ∧
    ((Instr.vxor a).wf = true → s.vReady .xor a → Completes (exec (.vxor a) s) fun t => s.vRan t .xor a) ∧
    ((Instr.vshl a).wf = true → s.vReady .shl a → Completes (exec (.vshl a) s) fun t => s.vRan t .shl a) ∧
    ((Instr.vshr a).wf = true → s.vReady .shr a → Completes (exec (.vshr a) s) fun t => s.vRan t .shr a) ∧
    ((Instr.vcvt a).wf = true → s.vReady .cvt a → Completes (exec (.vcvt a) s) fun t => s.vRan t .cvt a) ∧
    ((Instr.vpack a).wf = true → s.vReady .pack a → Completes (exec (.vpack a) s) fun t => s.vRan t .pack a) ∧
    ((Instr.vunpack a).wf = true → s.vReady .unpack a → Completes (exec (.vunpack a) s) fun t => s.vRan t .unpack a) ∧
    ((Instr.vperm a).wf = true → s.vReady .perm a → Completes (exec (.vperm a) s) fun t => s.vRan t .perm a) ∧
    ((Instr.vshuf a).wf = true → s.vReady .shuf a → Completes (exec (.vshuf a) s) fun t => s.vRan t .shuf a) ∧
    (∀ w c p, (Instr.vpatch a w c p).wf = true → s.vReady (.patch w c p) a →
      Completes (exec (.vpatch a w c p) s) fun t => s.vRan t (.patch w c p) a) ∧
    ((Instr.vred a).wf = true → s.vReady .red a → Completes (exec (.vred a) s) fun t => s.vRan t .red a) ∧
    ((Instr.vsfu a).wf = true → s.vReady .sfu a → Completes (exec (.vsfu a) s) fun t => s.vRan t .sfu a) ∧
    ((Instr.smx1 a).wf = true → s.vReady .smx1 a → Completes (exec (.smx1 a) s) fun t => s.vRan t .smx1 a) ∧
    ((Instr.smx2 a).wf = true → s.vReady .smx2 a → Completes (exec (.smx2 a) s) fun t => s.vRan t .smx2 a) ∧
    ((Instr.rowstat a).wf = true → s.vReady .rowstat a → Completes (exec (.rowstat a) s) fun t => s.vRan t .rowstat a) ∧
    ((Instr.sample a).wf = true → s.vReady .sample a → Completes (exec (.sample a) s) fun t => s.vRan t .sample a) ∧
    ((Instr.tmask a).wf = true → s.vReady .tmask a → Completes (exec (.tmask a) s) fun t => s.vRan t .tmask a) ∧
    ((Instr.vgrain a).wf = true → s.vReady .grain a → Completes (exec (.vgrain a) s) fun t => s.vRan t .grain a)) ∧
  (∀ (s : State) (i : Instr) (k : VKind) (a : VArgs), vForm i = some (k, a) → i.wf = true → s.fresh (.tile a.tile 3) = true →
    (s.tile a.tile).vops = [] → s.vgrants (s.vopOf k a) = [] →
    Completes (exec i s) fun t =>
      t.pcOf (.tile a.tile 3) = (s.pcOf (.tile a.tile 3) + 2) % 4096 ∧ (t.tile a.tile).vops = [s.vopOf k a] ∧ s.sameMemory t ∧
        t.rf (R.GRN_BEAT a.tile) F.GRN_BEAT_BEAT = s.nextBeat k a.tile ∧
        s.onlyIssue t (.tile a.tile 3) [R.GRN_BEAT a.tile, R.TIR_ECC_STAT, R.TIR_ERR_ADDR, R.TIR_REFETCH_CNT, R.PWR_STATE])

/-- Elements of the integer instructions: exact in two's complement, then wrapped modulo 2^w or, with SAT, clamped to the format's
range; the poison given passes on. -/
def Obligations.IntegerElements : Prop :=
  ∀ (o : VOp) (r : Rnd × Bool) (a b c : Nat × Bool) (poison : Bool), intFmt o.a.fmt = true → o.a.dfmt = o.a.fmt →
    let w := elemBits o.a.fmt
    let v := match o.kind with
      | .add => signed w a.1 + signed w b.1
      | .sub => signed w a.1 - signed w b.1
      | .mul => signed w a.1 * signed w b.1
      | .fma => signed w a.1 * signed w b.1 + signed w c.1
      | .max => max (signed w a.1) (signed w b.1)
      | .min => min (signed w a.1) (signed w b.1)
      | _ => 0
    (o.kind = .add ∨ o.kind = .sub ∨ o.kind = .mul ∨ o.kind = .fma ∨ o.kind = .max ∨ o.kind = .min) →
    let e := arithEl o r a b c poison
    e.poison = poison ∧ e.code < 2 ^ w ∧
      (o.a.sat = false → e.sat = false ∧ (signed w e.code - v) % 2 ^ w = 0) ∧
      (o.a.sat = true → signed w e.code = max (-(2 ^ (w - 1) : Int)) (min (2 ^ (w - 1) - 1) v) ∧ (e.sat = true ↔ signed w e.code ≠ v))

/-- VSETVL: an immediate sets VL to VLM1 + 1 where that is at most 2^24; a value read from the scratchpad, no write of the tile being too
recent for the read, sets VL where it is between 1 and 2^24, and else leaves VL and sets VL_RANGE. -/
def Obligations.VsetvlResult : Prop :=
  ∀ (s : State) (u : Nat) (h : Hdr), s.fresh (.tile u 3) = true →
    (∀ vlm1, (Instr.vsetvl u h 0 false vlm1 0).wf = true → Completes (exec (.vsetvl u h 0 false vlm1 0) s) fun t =>
      t.pcOf (.tile u 3) = (s.pcOf (.tile u 3) + 1) % 4096 ∧ t.rf (R.VEC_VL u) F.VEC_VL_VL = vlm1 + 1 ∧ s.sameMemory t ∧
        s.onlyIssue t (.tile u 3) [R.VEC_VL u]) ∧
    (∀ gm line, (Instr.vsetvl u h gm true 0 line).wf = true → s.readReady u gm (64 * line) 4 = true → s.settledBy u s.chip.fcyc = true →
      let v := leNat (pdata (s.rd 0 u (64 * line) 4))
      Completes (exec (.vsetvl u h gm true 0 line) s) fun t =>
        t.pcOf (.tile u 3) = (s.pcOf (.tile u 3) + 1) % 4096 ∧ t.mem = s.mem ∧
        s.onlyIssue t (.tile u 3) ([R.VEC_VL u, R.VEC_STAT u] ++ accessRegs u) ∧
        (if 1 ≤ v ∧ v ≤ 16777216 then t.rf (R.VEC_VL u) F.VEC_VL_VL = v
          else t.reg (R.VEC_VL u) = s.reg (R.VEC_VL u) ∧ t.rb (R.VEC_STAT u) F.VEC_STAT_VL_RANGE = true))

/-! ### Frames, claps and the clock -/

/-- FRAME_TICK where the tick comes at cycle `a`: FRM_COUNT counts the frame, FRM_LAG grows by the stretch, and the next frame
has begun to issue. While the frame's work is not done the count stays, and a stretch above the allowed one is an overrun. -/
def Obligations.FrameTickResult : Prop :=
  ∀ s : State,
    (∀ a, s.ticks a = true → Completes (exec .frameTick s) fun t =>
      t.frame = (s.frame + 1) % 2 ^ 64 ∧ 16 ≤ t.chip.fcyc ∧
      t.rf R.FRM_LAG F.FRM_LAG_VALUE = (if s.frmLen < a then
        min (s.rf R.FRM_LAG F.FRM_LAG_VALUE + (a - s.frmLen)) (2 ^ F.FRM_LAG_VALUE.width - 1) else s.rf R.FRM_LAG F.FRM_LAG_VALUE)) ∧
    (s.tickAt = none → s.chip.halting = false → Completes (exec .frameTick s) fun t =>
      t.frame = s.frame ∧ t.mem = s.mem ∧ t.full = s.full ∧
        (s.released = true → s.chip.overrunDone = false → s.rf R.FRM_STRETCH_MAX F.FRM_STRETCH_MAX_CYCLES < s.chip.fcyc - s.frmLen →
          t.rb R.FRM_FAULT F.FRM_FAULT_OVERRUN = true))

/-- The ticks at which something armed takes effect. SLACK_WINDOW_END where FRM_COUNT ends a window: every tile's minimum of the
window, this frame's slack included, is latched. ROLL_SWITCH_APPLY: the armed roll is LIVE. SERVING_ROLL_CHANGE: the tile serves its next roll. CLOCK_STEP_APPLY:
the armed step is in effect; while a synthesiser is not locked the tick is held and LOCK_LATE set. -/
def Obligations.ArmedTicks : Prop :=
  ∀ (s : State) (a : Nat), s.ticks a = true →
    ((s.frame + 1) % 2 ^ s.chip.slackWin = 0 → s.frame + 1 < 2 ^ 64 → Completes (exec .slackWindowEnd s) fun t =>
      t.frame = s.frame + 1 ∧ ∀ u < s.numTiles, ∀ e, s.retiredAt u = some e → (t.tile u).winMin = none ∧
        (t.tile u).lastMin = some (match (s.tile u).winMin with
          | some m => min m ((s.frmLen : Int) - e) | none => (s.frmLen : Int) - e)) ∧
    (∀ x, x < 2 → s.chip.armedRoll = some x → (s.reg R.ROL_SWITCH_FRAME).toNat = s.frame + 1 → s.descState x = 3 →
      Completes (exec .rollSwitchApply s) fun t => t.frame = s.frame + 1 ∧ t.descState x = 4 ∧ t.chip.armedRoll = none) ∧
    (∀ u f x, u < s.numTiles → (s.tile u).servNext = some (f, x) → f ≤ s.frame + 1 → s.frame + 1 < 2 ^ 64 → s.chip.armedRoll = none →
      Completes (exec (.servingRollChange u) s) fun t => t.frame = s.frame + 1 ∧ (t.tile u).serving = some x) ∧
    (s.changeFrame = s.frame + 1 →
      Completes (exec (.clockStepApply true) s) (fun t => t.frame = s.frame + 1 ∧ t.curStep = s.armedStep) ∧
      Completes (exec (.clockStepApply false) s) fun t =>
        t.frame = s.frame ∧ t.rb R.CLK_STAT F.CLK_STAT_LOCK_LATE = true ∧ t.chip.tickHold = t.chip.fcyc + 1)

/-- FRAME_END_RETIRE of a tile whose enabled streams have all issued their markers and whose operations are complete: FRAME_END retires at the
latest of cycle 16, the end of its operations and its streams' last issue cycles; no register and no memory changes. STARVED at frame cycle FRM_LEN, once a
frame: the first granule that is not readable then, on which an instruction waits, is recorded, unless an earlier one stands. With none, FRM_FAULT stays. -/
def Obligations.FrameEndsAndStarves : Prop :=
  (∀ (s : State) (u : Nat), s.tileOk u = true → s.released = true → (s.tile u).retired = none → s.tileDone u = true →
    (∀ k < 4, s.enabled u k = true → ((s.tile u).stream k).eof = true) →
    Completes (exec (.frameEndRetire u) s) fun t => s.sameMemory t ∧ t.regs = s.regs ∧ t.chip = s.chip ∧
      ∃ e, (t.tile u).retired = some e ∧ 16 ≤ e ∧ (s.tile u).doneAt ≤ e ∧
        (∀ k < 4, s.enabled u k = true → ((s.tile u).stream k).last ≤ e) ∧
        (e = 16 ∨ e = (s.tile u).doneAt ∨ ∃ k < 4, s.enabled u k = true ∧ e = ((s.tile u).stream k).last)) ∧
  ∀ s : State, s.released = true → s.chip.starvedDone = false → s.endsOnTime = false → s.freezesBefore (s.frmLen + 1) = false →
    Completes (exec .starved s) fun t =>
      t.chip.starvedDone = true ∧ s.frmLen ≤ t.chip.fcyc ∧ t.mem = s.mem ∧
      match (run (elapseTo s.frmLen) s).starvedAt with
      | none => t.reg R.FRM_FAULT = s.reg R.FRM_FAULT
      | some a => t.rb R.FRM_FAULT F.FRM_FAULT_STARVED = true ∧
          (s.rb R.FRM_FAULT F.FRM_FAULT_STARVED = false → t.reg R.FRM_STARVED_ADDR = BitVec.ofNat 64 a) ∧
          (s.rb R.FRM_FAULT F.FRM_FAULT_STARVED = true → t.reg R.FRM_STARVED_ADDR = s.reg R.FRM_STARVED_ADDR)

/-- REALIGN_CALL at the manager; where FRM_LEN's halves agree, nothing else changes. With no realign pending, a spread above FRM_REALIGN_THRESH, or FRAME_OVERRUN raised here or on another chip, calls
one: for the frame that R389 chooses, four ahead or more and at most D ahead (R62), which is announced. A call while one is pending is merged into
it. A spread within the threshold, and no overrun, calls none. -/
def Obligations.RealignCallResult : Prop :=
  ∀ (s : State) (d : Nat) (raised : Bool), s.isManager = true → s.running = true →
    (s.rf R.FRM_REALIGN_THRESH F.FRM_REALIGN_THRESH_CYCLES < d ∨ raised = true ∨ s.chip.overrunCall = true → s.reg R.FRM_REALIGN_FRAME = 0 →
      Completes (exec (.realignCall d raised) s) fun t => ∃ f, s.frame + 4 ≤ f ∧ f ≤ s.frame + s.clapD ∧
        t.reg R.FRM_REALIGN_FRAME = BitVec.ofNat 64 f ∧ t.chip.tokensOut = s.chip.tokensOut ++ [⟨3, 0, s.position, s.chip.clapSeq, f⟩] ∧
        t.chip.overrunCall = false ∧
        (twAgree (s.reg R.FRM_LEN) = true → s.sameMemory t ∧ s.sameRegsBut t [R.FRM_REALIGN_FRAME])) ∧
    (s.reg R.FRM_REALIGN_FRAME ≠ 0 → Completes (exec (.realignCall d raised) s) fun t => t.regs = s.regs ∧ s.sameMemory t ∧
      t.chip.tokensOut = s.chip.tokensOut) ∧
    (d ≤ s.rf R.FRM_REALIGN_THRESH F.FRM_REALIGN_THRESH_CYCLES → s.chip.overrunCall = false →
      exec (.realignCall d false) s = .next s)

/-- CHIP_FREEZE at the freeze cycle: the clock is there, the chip is frozen, each tile whose break matched for this freeze shows the cycle, a
freeze of the domain sends one FREEZE token, and no other register and no memory changes. REF_CLOCK_LOST sets REF_LOST, and the chip
is to hold; FRAME_TICK of a chip that is to hold for its reference holds it there. REF_CLOCK_RESTORED ends the wait for the clock: of a chip that
holds for it the manager calls a resume clap, and another module asks the manager for one; of a chip that does not hold no register
changes. -/
def Obligations.FreezeAndReference : Prop :=
  ∀ s : State,
    (∀ f, s.chip.freezeAt = some f → s.running = true → s.frozen = false → s.chip.hold = none → s.tickBefore f = false →
      Completes (exec .chipFreeze s) fun t => t.frozen = true ∧ t.chip.freezeAt = none ∧ t.chip.freezeHits = [] ∧
        t.chip.fcyc = max f s.chip.fcyc ∧ s.sameMemory t ∧ t.tiles = s.tiles ∧
        s.sameRegsBut t (R.FRM_CTL :: s.chip.freezeHits.map R.STR_STAT) ∧
        (∀ u ∈ s.chip.freezeHits, t.rf (R.STR_STAT u) F.STR_STAT_FREEZE_CYC = min (max f s.chip.fcyc) 0xFFFFFF) ∧
        t.chip.tokensOut = s.chip.tokensOut ++
          if s.chip.freezeDomain then [⟨4, 0, s.position, s.chip.clapSeq, 0⟩] else []) ∧
    Completes (exec .refClockLost s) (fun t => t.rb R.CLK_STAT F.CLK_STAT_REF_LOST = true ∧ t.chip.refBack = false ∧
      t.chip.refHold = true ∧ s.sameMemory t ∧ s.sameRegsBut t [R.CLK_STAT] ∧ t.tiles = s.tiles) ∧
    (∀ a, s.ticks a = true → s.chip.refHold = true → Completes (exec .frameTick s) fun t => t.chip.hold = some .reference) ∧
    Completes (exec .refClockRestored s) (fun t => t.chip.refBack = true ∧ s.sameMemory t ∧ t.tiles = s.tiles ∧
      s.sameRegsBut t [R.AUD_CLAP_STAT, R.PWR_STATE] ∧
      (s.chip.hold ≠ some .reference → t.regs = s.regs ∧ t.chip.clap = s.chip.clap) ∧
      (s.chip.hold = some .reference → s.isManager = false → t.regs = s.regs ∧ t.chip.mgmtOut = s.chip.mgmtOut ++ [(5, s.position)]) ∧
      (s.chip.hold = some .reference → s.isManager = true → s.chip.clap = none → ∃ c, t.chip.clap = some c ∧ c.sub = 1))

/-- Tokens that leave a module as they arrived. GO at another module than the manager starts its countdown with the wire's latency and the
wait taken off, and goes on 8 cycles shorter. READY at another module than the manager goes up, and the module's own READY follows it once it and every module
below it are ready; at the manager it is noted once. FREEZE is passed on once per SEQ. -/
def Obligations.TokensPass : Prop :=
  ∀ (s : State) (tok : Token),
    (∀ p wait, p < 14 → tok.kind = 2 → tok.sub ≤ 3 → s.fromManager tok = true → Completes (exec (.goToken p tok wait) s) fun t =>
      ∃ c, t.chip.clap = some c ∧ c.sub = tok.sub ∧ c.seq = tok.seq ∧
        c.rem = some (tok.arg % 2 ^ 40 - s.latNow (s.port p).lat16 - s.waitNow wait) ∧
        t.chip.tokensOut = s.chip.tokensOut ++ [{ tok with arg := tok.arg % 2 ^ 40 - s.latNow (s.port p).lat16 - s.waitNow wait - 128 }]) ∧
    (tok.kind = 1 → s.isManager = false → Completes (exec (.readyToken tok) s) fun t =>
      s.sameMemory t ∧ t.regs = s.regs ∧ t.tiles = s.tiles ∧
        (s.chip.clap = none ∨ s.treeBelow.contains tok.origin = false → t.chip.tokensOut = s.chip.tokensOut ++ [tok]) ∧
        (∀ c, s.chip.clap = some c → c.seq = tok.seq → s.treeBelow.contains tok.origin = true → c.ready.contains tok.origin = false →
          (s.branchReady { c with ready := c.ready ++ [tok.origin] } = false → t.chip.tokensOut = s.chip.tokensOut ++ [tok]) ∧
          (s.branchReady { c with ready := c.ready ++ [tok.origin] } = true →
            t.chip.tokensOut = s.chip.tokensOut ++ [tok, ⟨1, 0, s.position, s.chip.clapSeq, 0⟩]))) ∧
    (∀ c, tok.kind = 1 → s.isManager = true → s.chip.clap = some c → c.seq = tok.seq → c.ready.contains tok.origin = false →
      Completes (exec (.readyToken tok) s) fun t => ∃ c', t.chip.clap = some c' ∧ c'.ready = c.ready ++ [tok.origin] ∧
        (s.allReady c' = true → c.rem = none → c'.rem = some (16 * s.clapDelay))) ∧
    (tok.kind = 4 → s.chip.freezeSeen.contains tok.seq = false → Completes (exec (.freezeToken tok) s) fun t =>
      t.chip.freezeSeen = s.chip.freezeSeen ++ [tok.seq] ∧ t.chip.tokensOut = s.chip.tokensOut ++ [tok] ∧
        (s.running = true → s.frozen = false → ∃ f, t.chip.freezeAt = some f ∧ f ≤ max (s.chip.fcyc + 64) 16)) ∧
    (tok.kind = 4 → s.chip.freezeSeen.contains tok.seq = true → exec (.freezeToken tok) s = .next s)

/-- ANNOUNCE from the manager: the realign frame, the roll-switch frame, the clock-change frame and the capture frame are the announced ones (the
switch of a running job whose new roll is ARMED; the step of a clock change and a park are what the manager's message told, log entry 70); a call
of a resume makes the module part of the clap, parked no more; an abort ends the clap that stands; the token goes on. -/
def Obligations.AnnounceResult : Prop :=
  ∀ (s : State) (tok : Token), tok.kind = 3 → s.fromManager tok = true →
    (tok.sub = 0 → Completes (exec (.announceToken tok) s) fun t => t.reg R.FRM_REALIGN_FRAME = BitVec.ofNat 64 tok.arg ∧
      t.chip.tokensOut = s.chip.tokensOut ++ [tok] ∧ s.sameRegsBut t [R.FRM_REALIGN_FRAME]) ∧
    (∀ x, tok.sub = 1 → s.running = true → x < 2 → s.descState x = 3 → (∀ y < x, s.descState y ≠ 3) →
      Completes (exec (.announceToken tok) s) fun t => t.reg R.ROL_SWITCH_FRAME = BitVec.ofNat 64 tok.arg ∧ t.chip.armedRoll = some x ∧
        t.descState x = 3 ∧ t.chip.tokensOut = s.chip.tokensOut ++ [tok] ∧ s.sameRegsBut t [R.ROL_SWITCH_FRAME, descKey x 0]) ∧
    (tok.sub = 2 → Completes (exec (.announceToken tok) s) fun t => t.reg R.CLK_CHANGE_FRAME = BitVec.ofNat 64 tok.arg ∧
      t.chip.tokensOut = s.chip.tokensOut ++ [tok] ∧ s.sameRegsBut t [R.CLK_CHANGE_FRAME, R.CLK_STEP] ∧
      ∀ v, s.chip.said.find? (·.1 == 2) = some (2, v) → t.armedStep = v % 128) ∧
    (tok.sub = 3 → Completes (exec (.announceToken tok) s) fun t =>
      t.chip.capture = some ⟨tok.arg, (s.chip.said.find? (·.1 == 3)).isSome, none⟩ ∧
      t.chip.tokensOut = s.chip.tokensOut ++ [tok] ∧ t.regs = s.regs) ∧
    (tok.sub = 4 → s.frozen = true → Completes (exec (.announceToken tok) s) fun t =>
      (∃ c, t.chip.clap = some c ∧ c.sub = 1 ∧ c.seq = tok.seq) ∧ t.chip.parked = false ∧
        (s.chip.parked = false → s.sameRegsBut t [R.PWR_STATE] ∧
          t.chip.tokensOut = s.chip.tokensOut ++ (if s.treeBelow = [] then [⟨1, 0, s.position, tok.seq, 0⟩] else []) ++ [tok])) ∧
    (tok.sub = 5 → Completes (exec (.announceToken tok) s) fun t => t.chip.clap = none ∧
      (∀ c, s.chip.clap = some c → c.sub = 0 → t.running = false))

/-- CLAP_EVENT when the countdown is over. A start begins frame 0 with RUN 1; a resume lets what was held go on, no tick firing; a realign
fires the tick and clears FRM_LAG. -/
def Obligations.ClapEventResult : Prop :=
  ∀ (s : State) (c : ClapS) (rem : Nat), s.chip.clap = some c → c.rem = some rem → s.chip.halting = false → s.replaying = false →
    (c.sub = 0 → s.chip.heldWrites = [] → Completes (exec .clapEvent s) fun t => t.running = true ∧ t.frame = 0) ∧
    (c.sub = 1 → Completes (exec .clapEvent s) fun t =>
      t.frozen = false ∧ t.chip.hold = none ∧ t.chip.clap = none ∧ t.frame = s.frame ∧ s.sameMemory t ∧ s.sameRegsBut t [R.FRM_CTL]) ∧
    (c.sub = 2 → ∀ a, s.tickAt = some a → (∀ x ∈ s.tiles, x.2.kvHeld = []) → Completes (exec .clapEvent s) fun t =>
      t.frame = (s.frame + 1) % 2 ^ 64 ∧ t.rf R.FRM_LAG F.FRM_LAG_VALUE = 0 ∧ t.reg R.FRM_REALIGN_FRAME = 0)

/-- CLAP_TIMEOUT at the manager, no GO raised: TIMEOUT and the lowest missing position are recorded, and the abort is announced; a resume or a
realign is called again under a new SEQ, a job that was to start does not (what it had replaced does not hold that record). CAPTURE_HOLD in the capture frame: the chip holds. CAPTURE_DRAINED with
nothing in flight: the manager's resume clap is called. -/
def Obligations.TimeoutAndCapture : Prop :=
  ∀ s : State,
    (∀ c p, s.chip.clap = some c → c.rem = none → s.isManager = true → p < s.chip.part.modules → p < 1024 →
      (∀ q < p, c.ready.contains q = true) → c.ready.contains p = false →
      (∀ b, s.chip.before = some b → ∀ x ∈ b.regs, x.1 ≠ R.AUD_CLAP_STAT) →
      Completes (exec .clapTimeout s) fun t => t.rb R.AUD_CLAP_STAT F.AUD_CLAP_STAT_TIMEOUT = true ∧
        t.rf R.AUD_CLAP_STAT F.AUD_CLAP_STAT_MISSING = p ∧ (∃ tok ∈ t.chip.tokensOut, tok.kind = 3 ∧ tok.sub = 5) ∧
        (c.sub = 1 ∨ c.sub = 2 → ∃ d, t.chip.clap = some d ∧ d.sub = c.sub ∧ d.seq = (s.chip.clapSeq + 1) % 0x100000000) ∧
        (c.sub = 0 → t.running = false)) ∧
    (∀ c, s.chip.capture = some c → s.running = true → s.frozen = false → s.chip.hold = none → s.chip.clap = none →
      s.frame = c.frame → Completes (exec .captureHold s) fun t =>
        t.chip.hold = some .capture ∧ 16 ≤ t.chip.fcyc ∧ t.chip.parked = (c.park || s.chip.parked) ∧ (c.park = false → s.sameMemory t ∧ t.regs = s.regs)) ∧
    (s.chip.hold = some .capture → s.chip.parked = false → s.chip.clap = none → s.drained = true → s.isManager = true →
      Completes (exec .captureDrained s) fun t =>
        (∃ c, t.chip.clap = some c ∧ c.sub = 1) ∧ t.mem = s.mem ∧
        (∀ k d, s.chip.capture = some ⟨k, false, some d⟩ → t.rb R.AUD_STAT F.AUD_STAT_SAVING = false))

/-- CLK_CHANGE, next of its queue. At the manager a step above DOMAIN_STEP is refused with the limiting position; with no job a step within it takes
effect at once; while a job runs and no change is armed it is armed for a frame at least four ahead (FRM_LEN's halves agreeing); one while a change is armed is refused. A worker
refuses every one. -/
def Obligations.ClkChangeResult : Prop :=
  ∀ (s : State) (c : Cmd), s.mayStart c = true → let step := c.w2.toNat % 128
    (s.isManager = false → Completes (exec (.clkChange c) s) fun t => s.answered t c 0x0103 0 0 ∧ t.regs = s.regs) ∧
    (s.isManager = true →
      (s.rf R.CLK_FMAX F.CLK_FMAX_DOMAIN_STEP < step → Completes (exec (.clkChange c) s) fun t =>
        s.answered t c 0x0103 (s.rf R.CLK_FMAX F.CLK_FMAX_LIMIT_POS) 0 ∧ t.regs = s.regs) ∧
      (step ≤ s.rf R.CLK_FMAX F.CLK_FMAX_DOMAIN_STEP → s.running = false → Completes (exec (.clkChange c) s) fun t =>
        s.answered t c 0 0 0 ∧ t.curStep = step ∧ t.armedStep = step ∧ t.changeFrame = 0 ∧
          s.sameRegsBut t [R.CLK_STEP, R.CLK_CUR, R.CLK_CHANGE_FRAME]) ∧
      (step ≤ s.rf R.CLK_FMAX F.CLK_FMAX_DOMAIN_STEP → s.running = true → s.changeArmed = true → Completes (exec (.clkChange c) s) fun t =>
        s.answered t c 0x0103 0xFFFF0002 0 ∧ t.regs = s.regs) ∧
      (step ≤ s.rf R.CLK_FMAX F.CLK_FMAX_DOMAIN_STEP → s.running = true → s.changeArmed = false → twAgree (s.reg R.FRM_LEN) = true →
        s.stepFrame c.w3.toNat (s.rf R.CLK_CTL F.CLK_CTL_LEAD_US) < 2 ^ 64 → Completes (exec (.clkChange c) s) fun t =>
        s.answered t c 0 0 0 ∧ t.curStep = s.curStep ∧ t.armedStep = step ∧ s.frame + 4 ≤ t.changeFrame ∧ c.w3.toNat ≤ t.changeFrame))

/-- CANARY_MEASURE shows the slack of its region and keeps the smallest; a slack below the WARN or CRIT threshold sets its bit. DOMAIN_STEP_GATHER
takes the lowest OWN_STEP of the domain as DOMAIN_STEP. AGE_REPLAN records the forecast, and flags a plan that falls short. -/
def Obligations.CanariesAndAgeing : Prop :=
  ∀ s : State,
    (∀ r slack pw pc, r < 64 → -32768 ≤ slack → slack ≤ 32767 → Completes (exec (.canaryMeasure r slack pw pc) s) fun t =>
      toSigned 16 (t.rf (R.CLK_CANARY_SLACK r) F.CLK_CANARY_SLACK_NOW) = slack ∧
      toSigned 16 (t.rf (R.CLK_CANARY_SLACK r) F.CLK_CANARY_SLACK_MIN) =
        min slack (toSigned 16 (s.rf (R.CLK_CANARY_SLACK r) F.CLK_CANARY_SLACK_MIN)) ∧
      (slack < s.cal16 (0x500 + 4 * r) → t.rb R.CLK_STAT F.CLK_STAT_WARN = true) ∧
      (slack < s.cal16 (0x502 + 4 * r) → t.rb R.CLK_STAT F.CLK_STAT_CRIT = true)) ∧
    (∀ steps : List (Nat × Nat × Nat), (∀ x ∈ steps, x.2.1 < 128) → Completes (exec (.domainStepGather steps) s) fun t =>
      let d := t.rf R.CLK_FMAX F.CLK_FMAX_DOMAIN_STEP
      d ≤ s.rf R.CLK_FMAX F.CLK_FMAX_OWN_STEP ∧ (∀ x ∈ steps, d ≤ x.2.1) ∧
        (d = s.rf R.CLK_FMAX F.CLK_FMAX_OWN_STEP ∨ ∃ x ∈ steps, d = x.2.1)) ∧
    (∀ hours eol left raises, hours < 2 ^ F.CLK_AGE_FORECAST_HOURS.width → eol < 128 → Completes (exec (.ageReplan hours eol left raises) s) fun t =>
      t.rf R.CLK_AGE_FORECAST F.CLK_AGE_FORECAST_HOURS = hours ∧ t.rf R.CLK_AGE_FORECAST F.CLK_AGE_FORECAST_EOL_STEP = eol ∧
        (hours < left → t.rb R.CLK_STAT F.CLK_STAT_REPLAN = true) ∧ s.sameMemory t)

/-! ### Maintenance, tests and retirement -/

/-- SCRUB_UNIT that is due and fits the slice, over storage without errors: the scrub moves on by 512 lines, fewer where a read of it would lose its
bank to a higher rank, and no further than the end of the column, where a pass is counted and the next begins at line 0; the pass is timed
from its first unit; no memory changes. A unit that the slice cannot hold only reports SLICE_SMALL. SCRUB_LATE reports a pass older than 24
hours. -/
def Obligations.ScrubResults : Prop :=
  ∀ (s : State) (u : Nat), s.tileOk u = true →
    (∀ c, s.scrubDue u = true → s.unitFits u 48 = true → s.unitStart u = some c → (∀ l ∈ s.unitsBefore u 4, s.unitFits u l = false) → s.err = [] →
      (s.tile u).scrubLine < 262144 → Completes (exec (.scrubUnit u) s) fun t =>
        (t.tile u).scrubLast = some s.frame ∧ t.mem = s.mem ∧ t.chip.fcyc = c ∧
        let n := min 262144 ((s.tile u).scrubLine + s.scrubRun u c (s.tile u).scrubLine)
        (t.tile u).scrubLine = (if n < 262144 then n else 0) ∧
        (t.tile u).scrubPasses = (s.tile u).scrubPasses + (if n < 262144 then 0 else 1) ∧
        (t.tile u).scrubStart = (if n < 262144 then some ((s.tile u).scrubStart.getD t.chip.ns) else none)) ∧
    (∀ c line, (∀ g ∈ (s.tile u).grants, g.sp ≠ 1) → s.scrubRun u c line = 512) ∧
    (s.scrubDue u = true → s.released = true → s.slice < 48 → Completes (exec (.scrubUnit u) s) fun t =>
      t.rb R.FRM_FAULT F.FRM_FAULT_SLICE_SMALL = true ∧ t.rf R.FRM_FAULT F.FRM_FAULT_SMALL_KIND = 0 ∧ s.sameMemory t ∧
        s.sameRegsBut t [R.FRM_FAULT]) ∧
    (∀ b, (s.tile u).scrubStart = some b → b + 86400000000000 < s.chip.ns → Completes (exec (.scrubLate u) s) fun t =>
      t.rb R.TIR_ECC_STAT F.TIR_ECC_STAT_SCRUB_LATE = true ∧ s.sameMemory t ∧ s.sameRegsBut t [R.TIR_ECC_STAT]) ∧
    ((∀ b, (s.tile u).scrubStart = some b → s.chip.ns ≤ b + 86400000000000) → exec (.scrubLate u) s = .next s)

/-- REFETCH_COMPLETE of a queued line of a region with a vault copy: the tier holds the vault's copy and the entry is gone; where the rewritten line is
uncorrectable again the entry is tried a second time. A line whose region has none any more is dropped. -/
def Obligations.RefetchResults : Prop :=
  ∀ (s : State) (u line : Nat), s.tileOk u = true →
    let o := 64 * line % 0x1000000
    ∀ r, s.chip.refetch.find? (fun r => r.tile == u && r.off == o) = some r →
    (s.hasCopy u o = true → (s.tile u).hardLines.contains o = false →
      Completes (exec (.refetchComplete u line false) s) fun t =>
        (∀ j < 64, some (t.byte (memKey 1 u (o + j))) = (s.vaultLine u o)[j]?) ∧ t.linePoison (memKey 1 u o / 64) = false ∧
        (∀ x ∈ t.chip.refetch, ¬ (x.tile = u ∧ x.off = o)) ∧
        t.rf R.TIR_REFETCH_CNT F.TIR_REFETCH_CNT_REFETCHES =
          min (s.rf R.TIR_REFETCH_CNT F.TIR_REFETCH_CNT_REFETCHES + 1) (2 ^ F.TIR_REFETCH_CNT_REFETCHES.width - 1)) ∧
    (s.hasCopy u o = true → (s.tile u).hardLines.contains o = false → r.tries = 0 →
      Completes (exec (.refetchComplete u line true) s) fun t =>
        ∃ x ∈ t.chip.refetch, x.tile = u ∧ x.off = o ∧ x.tries = 1) ∧
    (s.hasCopy u o = false → ∀ bad, Completes (exec (.refetchComplete u line bad) s) fun t =>
        (∀ x ∈ t.chip.refetch, ¬ (x.tile = u ∧ x.off = o)) ∧ s.sameMemory t ∧ t.regs = s.regs)

/-- GRAIN_FILL, a host access that is served and whose record has room, starts a fill of the inactive bank from the seed registers, or is
rejected and counted while a fill runs or a switch is pending, and nothing but GRN_STAT and the record's registers changes;
GRAIN_FILL_UNIT stores 16 blocks of it in the slice, the last unit block 128; GRAIN_FILL_COMPLETE makes the bank FILLED and records its seed,
table number and bank key. -/
def Obligations.GrainFillResults : Prop :=
  ∀ (s : State) (u : Nat), s.tileOk u = true →
    (s.served = true → let a := s.accessed true
      a.admits = true →
      ((a.tile u).fill = none → a.rb (R.GRN_STAT u) F.GRN_STAT_PENDING = false → a.grainActive u < 2 →
        Completes (exec (.grainFill u) s) fun t => ∃ f, (t.tile u).fill = some f ∧ f.bank = 1 - a.grainActive u ∧
          f.src = a.grainSeed u ∧ f.done = 0 ∧ t.rb (R.GRN_STAT u) F.GRN_STAT_FILL_BUSY = true ∧
          t.rb (R.GRN_STAT u) (grnFilled f.bank) = false ∧ a.sameRegsBut t (R.GRN_STAT u :: recRegs)) ∧
      ((a.tile u).fill.isSome = true ∨ a.rb (R.GRN_STAT u) F.GRN_STAT_PENDING = true →
        Completes (exec (.grainFill u) s) fun t => (t.tile u).fill = (a.tile u).fill ∧
          t.rf (R.GRN_STAT u) F.GRN_STAT_FILL_REJECT = a.plus (R.GRN_STAT u) F.GRN_STAT_FILL_REJECT 1 ∧
          a.sameRegsBut t (R.GRN_STAT u :: recRegs))) ∧
    (∀ f len, (s.tile u).fill = some f → s.fillUnit u = some len → s.unitFits u len = true →
      (∀ l ∈ s.unitsBefore u 1, s.unitFits u l = false) → Completes (exec (.grainFillUnit u) s) fun t =>
        ∃ g, (t.tile u).fill = some g ∧ g.done = (if f.done = 128 then 129 else f.done + 16) ∧ g.bank = f.bank ∧ g.src = f.src) ∧
    (∀ f, (s.tile u).fill = some f → f.bank < 2 → f.done = 129 → f.endNs = none → Completes (exec (.grainFillComplete u) s) fun t =>
      (t.tile u).fill = none ∧ t.rb (R.GRN_STAT u) (grnFilled f.bank) = true ∧ t.rb (R.GRN_STAT u) F.GRN_STAT_FILL_BUSY = false ∧
        t.reg (R.GRN_BANK_0 u f.bank) = BitVec.ofNat 64 f.src.lo ∧ t.reg (R.GRN_BANK_1 u f.bank) = BitVec.ofNat 64 f.src.hi ∧
        t.reg (R.GRN_BANK_2 u f.bank) = BitVec.ofNat 64 f.src.num ∧ t.grainBank u f.bank = some f.src)

/-- TEST_RUN of one tile within the slice, no other test running: the test is under way. TEST_UNIT of it in the tile's slice counts the unit and,
on a failure, the failure. AUTO_TEST_UNIT that is due counts its unit and takes its turn. -/
def Obligations.TestResults : Prop :=
  ∀ s : State,
    (∀ c : Cmd, s.mayStart c = true → c.w2.toNat.testBit 8 = false → c.w2.toNat / 65536 % 512 < s.numTiles → testLen (c.w2.toNat % 256) ≤ s.sliceNow →
      s.chip.test = none → Completes (exec (.testRun c) s) fun t =>
        t.rf R.DBG_TEST_STAT F.DBG_TEST_STAT_TEST = c.w2.toNat % 256 ∧ t.rf R.DBG_TEST_STAT F.DBG_TEST_STAT_TILE = c.w2.toNat / 65536 % 512 ∧
        ∃ x, t.chip.test = some x ∧ x.cmd = c ∧ x.full = false ∧ x.unitsRun = 0) ∧
    (∀ u fails ce x len, s.tileOk u = true → s.chip.test = some x → s.testWaits u = some len → s.unitFits u len = true →
      (∀ l ∈ s.unitsBefore u 3, s.unitFits u l = false) → x.unitsRun + 1 ≠ testUnits x.test →
      Completes (exec (.testUnit u fails ce) s) fun t => (∃ y, t.chip.test = some y ∧ y.unitsRun = x.unitsRun + 1 ∧
          y.failed = (x.failed || fails.contains u) ∧ y.ce = (x.ce || ce) ∧ y.lastFrame = some s.frame) ∧
        t.rf R.DBG_TEST_STAT F.DBG_TEST_STAT_FAILS =
          s.plus R.DBG_TEST_STAT F.DBG_TEST_STAT_FAILS (if fails.contains u then 1 else 0)) ∧
    (∀ u fail len, s.tileOk u = true → s.autoUnitLen u = some len → s.unitFits u len = true →
      (∀ l ∈ s.unitsBefore u 3, s.unitFits u l = false) → Completes (exec (.autoTestUnit u fail) s) fun t =>
        (t.tile u).autoTurn = !(s.tile u).autoTurn ∧ (t.tile u).autoLast = some s.frame ∧
        t.rf R.DBG_TEST_STAT F.DBG_TEST_STAT_AUTO_UNITS =
          min (s.rf R.DBG_TEST_STAT F.DBG_TEST_STAT_AUTO_UNITS + 1) (2 ^ F.DBG_TEST_STAT_AUTO_UNITS.width - 1))

/-- A retirement from its start to its end: RETIREMENT_START plans the oldest nomination; one for which there is no spare stays valid and becomes the
youngest (the model's order, log entry 60), with result 2. RETIRE_WAKE, RETIRE_WEIGHTS, RETIRE_COPY_UNIT and RETIRE_STATE_UNIT take the step from
phase to phase, a copy unit keeping which of its lines read uncorrectable, the last arming the new maps; OLD_SITE_POWER_DOWN after a switch begins the
next step, after the last one it marks the site bad and ends with result 1, the nomination valid no more where it still names the site;
RETIREMENT_ABANDON, no start clap waiting, ends a step that has not switched with result 3, and the row's staged map is what it was before the
step armed its own. -/
def Obligations.RetirementResults : Prop :=
  ∀ s : State,
    (∀ n, s.rb R.MSH_CTL F.MSH_CTL_AUTO_RETIRE = true → s.chip.retire = none →
      s.chip.noms.find? (fun n => s.rb (R.MSH_NOMINATE n) F.MSH_NOMINATE_VALID) = some n →
      let row := s.rf (R.MSH_NOMINATE n) F.MSH_NOMINATE_ROW
      let site := s.rf (R.MSH_NOMINATE n) F.MSH_NOMINATE_SITE
      (s.retirePlan row site = none → Completes (exec .retirementStart s) fun t => t.chip.retire = none ∧
        t.chip.noms = s.chip.noms.filter (· != n) ++ [n] ∧ s.sameRegsBut t [R.MSH_STAT] ∧
        t.rf R.MSH_STAT F.MSH_STAT_RETIRE_RESULT = 2 ∧ t.rb R.MSH_STAT F.MSH_STAT_RETIRE_BUSY = false) ∧
      (∀ a b rest, s.retirePlan row site = some ((a, b) :: rest) → Completes (exec .retirementStart s) fun t =>
        t.rb R.MSH_STAT F.MSH_STAT_RETIRE_BUSY = true ∧ ∃ r, t.chip.retire = some r ∧ r.nom = n ∧ r.row = row ∧ r.site = site ∧
          r.phase = 0 ∧ r.plan.length = rest.length + 1)) ∧
    (∀ r a b u rest, s.chip.retire = some r → r.plan = (a, b, u) :: rest →
      (r.phase = 0 → Completes (exec .retireWake s) fun t => t.chip.retire = some { r with phase := 1 } ∧ s.sameMemory t) ∧
      (r.phase = 1 → Completes (exec .retireWeights s) fun t =>
        t.chip.retire = some { r with phase := 2, unitsLeft := s.copyUnits u } ∧ s.sameMemory t) ∧
      (r.phase = 2 → s.unitFits u 128 = true → Completes (exec .retireCopyUnit s) fun t =>
        t.chip.retire = some { r with
          unitsLeft := r.unitsLeft - 1, phase := if r.unitsLeft ≤ 1 then 3 else 2
          bad := r.bad ++ match s.copySpan u r.unitsLeft with
            | some q => (((List.range (q.2.2 / 64)).map fun n => q.2.1 + 64 * n).filter (s.lineBad q.1 u)).map (q.1, ·)
            | none => [] } ∧ t.mem = s.mem ∧
          t.rf R.MSH_RETIRE F.MSH_RETIRE_UNITS = min (s.rf R.MSH_RETIRE F.MSH_RETIRE_UNITS + 1) (2 ^ F.MSH_RETIRE_UNITS.width - 1)) ∧
      (r.phase = 3 → s.unitFits u 64 = true → Completes (exec .retireStateUnit s) fun t =>
        t.chip.retire = some { r with phase := 4, staged := some (s.rowStaged r.row) } ∧ t.chip.armedMaps = some (s.stepMaps r.row a b) ∧
          t.rb R.MSH_STAT F.MSH_STAT_PENDING = true) ∧
      (r.phase = 5 → rest = [] → r.row < 16 → r.site < 34 → r.nom < 8 → Completes (exec .oldSitePowerDown s) fun t =>
        t.chip.retire = none ∧ t.siteBad r.row r.site = true ∧ t.rf R.MSH_STAT F.MSH_STAT_RETIRE_RESULT = 1 ∧
          (s.nomStands r = true → t.rb (R.MSH_NOMINATE r.nom) F.MSH_NOMINATE_VALID = false) ∧
          (s.nomStands r = false → t.reg (R.MSH_NOMINATE r.nom) = s.reg (R.MSH_NOMINATE r.nom))) ∧
      (∀ x rest', r.phase = 5 → rest = x :: rest' → Completes (exec .oldSitePowerDown s) fun t => ∃ v,
        t.chip.retire = some { r with plan := (x.1, x.2.1, v) :: rest', phase := 0, unitsLeft := 0, bad := [] } ∧ s.sameMemory t) ∧
      (r.phase ≠ 5 → (∀ c, s.chip.clap = some c → c.sub ≠ 0) → Completes (exec (.retirementAbandon true) s) fun t =>
        t.chip.retire = none ∧ t.rf R.MSH_STAT F.MSH_STAT_RETIRE_RESULT = 3 ∧ s.sameMemory t ∧
          (r.phase = 4 → r.row < 16 → t.chip.armedMaps = none ∧ t.rowStaged r.row = r.staged.getD (s.rowCur r.row) % 2 ^ 24)))

/-- ARM by the host, an access that is served: with no job, legal staged maps take effect in every row; maps already in effect leave every memory as
it is, and a tile that no tile's content moves to reads 0 (contents stay at their sites: the model's choice, log entry 49); illegal ones, or
with a running job (whose record has room), are rejected with the cause. A write of MSH_RETIRE nominates its site in the first free entry,
and is lost and noted where there is none. -/
def Obligations.ArmAndNominate : Prop :=
  ∀ s : State, s.served = true → let a := s.accessed false
    (a.running = false → a.mapsFault ((List.range 16).map a.rowStaged) = none → Completes (exec .arm s) fun t =>
      (∀ y < 16, t.rowCur y = a.rowStaged y) ∧
      ((List.range 16).map a.rowStaged = a.mapsCur → t.mem = a.mem ∧ t.full = a.full ∧ t.tiles = a.tiles) ∧
      ∀ u < a.numTiles, (∀ x < a.numTiles, a.tileAfter ((List.range 16).map a.rowStaged) x ≠ some u) → ∀ sp < 6, ∀ o < 0x40000000000,
        t.byte (memKey sp u o) = 0) ∧
    (a.running = false → ∀ rule row, a.mapsFault ((List.range 16).map a.rowStaged) = some (rule, row) → Completes (exec .arm s) fun t =>
      (∀ y < 16, t.rowCur y = a.rowCur y) ∧ t.rb R.MSH_STAT F.MSH_STAT_ARM_REJECT = true ∧ t.rf R.MSH_STAT F.MSH_STAT_CAUSE = rule ∧
        t.rf R.MSH_STAT F.MSH_STAT_CAUSE_ROW = row) ∧
    (a.running = true → a.admits = true → Completes (exec .arm s) fun t => (∀ y < 16, t.rowCur y = a.rowCur y) ∧
      t.rb R.MSH_STAT F.MSH_STAT_ARM_REJECT = true ∧ t.rf R.MSH_STAT F.MSH_STAT_CAUSE = 5) ∧
    (∀ row site, row < 16 → site < 64 →
      (∀ n < 8, (∀ m < n, a.rb (R.MSH_NOMINATE m) F.MSH_NOMINATE_VALID = true) → a.rb (R.MSH_NOMINATE n) F.MSH_NOMINATE_VALID = false →
        Completes (exec (.hostNominate row site) s) fun t =>
          t.rf (R.MSH_NOMINATE n) F.MSH_NOMINATE_ROW = row ∧ t.rf (R.MSH_NOMINATE n) F.MSH_NOMINATE_SITE = site ∧
          t.rf (R.MSH_NOMINATE n) F.MSH_NOMINATE_CAUSE = 3 ∧ t.rb (R.MSH_NOMINATE n) F.MSH_NOMINATE_VALID = true ∧
          a.sameRegsBut t [R.MSH_NOMINATE n, R.MSH_RETIRE]) ∧
      ((∀ n < 8, a.rb (R.MSH_NOMINATE n) F.MSH_NOMINATE_VALID = true) → Completes (exec (.hostNominate row site) s) fun t =>
        t.rb R.MSH_STAT F.MSH_STAT_NOM_LOST = true ∧ a.sameRegsBut t [R.MSH_STAT, R.MSH_RETIRE]))

/-! ### Cue streams and the host's queues -/

/-- CUE_NEXT takes the first waiting command as the stream's current one, or waits where none is there; a current one still owed its reply is
answered with the status of its last check (the model's choice, log entry 50). CUE_REPLY answers the current command, once, with a code that Table: Status
codes lists, PARAM_RANGE in place of another (log entry 50). CUE_RUN on a manager whose job may start calls the start clap and, the row maps settled, prepares it, else its
outcome is PARAM_RANGE. CUE_HALT stops frames at the next tick. -/
def Obligations.CueCommands : Prop :=
  ∀ (s : State) (k : Nat) (h : Hdr), s.fresh (.cue k) = true →
    ((Instr.cueNext k h).wf = true →
      (∀ c rest, (s.cue k).inq = c :: rest → Completes (exec (.cueNext k h) s) fun t =>
        t.pcOf (.cue k) = (s.pcOf (.cue k) + 1) % 4096 ∧ (t.cue k).cur = some c ∧ (t.cue k).owed = true ∧ (t.cue k).inq = rest ∧
          t.regs = s.regs ∧ ((s.cue k).owed = false → s.sameMemory t) ∧
          ∀ d, (s.cue k).owed = true → (s.cue k).cur = some d → s.answered t d (replyCode (s.cue k).status) 0 0) ∧
      ((s.cue k).inq = [] → Completes (exec (.cueNext k h) s) fun t =>
        t.waitq (.cue k) = [.cueNext k h] ∧ t.pcOf (.cue k) = s.pcOf (.cue k) ∧ (t.cue k).cur = (s.cue k).cur)) ∧
    (∀ st c, (Instr.cueReply k h st).wf = true → (s.cue k).cur = some c → Completes (exec (.cueReply k h st) s) fun t =>
      t.pcOf (.cue k) = (s.pcOf (.cue k) + 1) % 4096 ∧ (t.cue k).owed = false ∧ t.regs = s.regs ∧
      ((s.cue k).owed = true → s.answered t c (replyCode (if st = 0xFFFF then (s.cue k).status else st)) 0 0) ∧
      ((s.cue k).owed = false → s.sameMemory t)) ∧
    ((Instr.cueRun k h).wf = true →
      (s.isManager = true → s.running = false → s.startOk = true → Completes (exec (.cueRun k h) s) fun t =>
        (t.cue k).status = 0 ∧ t.running = true ∧ (s.chip.armedMaps = none → t.frame = 0) ∧ ∃ c, t.chip.clap = some c ∧ c.sub = 0 ∧ c.cmd = none) ∧
      (s.isManager = false ∨ s.running = true → Completes (exec (.cueRun k h) s) fun t =>
        (t.cue k).status = 0x0103 ∧ t.regs = s.regs ∧ s.sameMemory t ∧ t.chip.clap = s.chip.clap) ∧
      (s.isManager = true → s.running = false → s.startOk = false → Completes (exec (.cueRun k h) s) fun t =>
        (t.cue k).status = 0x0103 ∧ s.sameRegsBut t [R.MOD_ALERT, R.HIF_STAT] ∧ t.mem = s.mem ∧ t.chip.clap = s.chip.clap)) ∧
    ((Instr.cueHalt k h).wf = true → s.chip.record.active = false →
      (s.isManager = true → Completes (exec (.cueHalt k h) s) fun t => (t.cue k).status = 0 ∧
        t.chip.halting = (s.running || s.chip.halting) ∧ t.regs = s.regs ∧ s.sameMemory t) ∧
      (s.isManager = false → Completes (exec (.cueHalt k h) s) fun t => (t.cue k).status = 0x0103 ∧
        t.chip.halting = s.chip.halting ∧ t.regs = s.regs ∧ s.sameMemory t))

/-- CUE_WR writes the word that the command names into the register that the command names, here a seed word of a tile; CUE_INJECT sends the
payload to its place as an unscheduled transfer, one flit for each 64 bytes, in order (that the flits enter the mesh at tile 0 is the model's
choice, log entry 53); a target that they may not name is not written and the command is answered PARAM_RANGE. CUE_ADMIT takes the lowest free slot
for a request that passes the checks, and latches the outcome. No recording is on that could make them wait. -/
def Obligations.CueWrites : Prop :=
  ∀ (s : State) (k : Nat) (h : Hdr) (c : Cmd), s.sound = true → s.fresh (.cue k) = true → (s.cue k).cur = some c → s.chip.record.active = false →
    (∀ aw vw, (Instr.cueWr k h aw vw).wf = true → let g := (cmdWord c aw).toNat
      (s.cueWrOk g = false → Completes (exec (.cueWr k h aw vw) s) fun t => (t.cue k).status = 0x0103 ∧ t.regs = s.regs ∧
        ((s.cue k).owed = true → s.answered t c 0x0103 0 0)) ∧
      (∀ u, s.cueWrOk g = true → gKey g = R.GRN_SEED_LO u → Completes (exec (.cueWr k h aw vw) s) fun t =>
        t.pcOf (.cue k) = (s.pcOf (.cue k) + 1) % 4096 ∧ (t.cue k).status = 0 ∧ t.reg (R.GRN_SEED_LO u) = cmdWord c vw ∧
          s.sameRegsBut t [R.GRN_SEED_LO u] ∧ s.sameMemory t)) ∧
    (∀ aw wm, (Instr.cueInject k h aw wm).wf = true → let g := (cmdWord c aw).toNat
      (s.cueInjectOk g = false → Completes (exec (.cueInject k h aw wm) s) fun t => (t.cue k).status = 0x0103 ∧ t.mem = s.mem ∧
        ((s.cue k).owed = true → s.answered t c 0x0103 0 0)) ∧
      (s.cueInjectOk g = true → Completes (exec (.cueInject k h aw wm) s) fun t => let bs := s.cueInput k
        t.pcOf (.cue k) = (s.pcOf (.cue k) + 1) % 4096 ∧ (t.cue k).status = 0 ∧ t.mem = s.mem ∧ t.full = s.full ∧
        (bs ≠ [] → t.chip.xfers.length = s.chip.xfers.length + 1) ∧
        ∃ fs : List Flit, t.chip.flits = s.chip.flits ++ fs ∧ fs.map (·.data) = pieces 64 bs ∧
          fs.map (·.g) = ((List.range ((bs.length + 63) / 64)).map fun i => gAdd g (64 * i)) ∧
          ∀ f ∈ fs, f.sched = false ∧ f.wm = wm ∧ f.dstTile = gTile g ∧ f.dstPort = none)) ∧
    ((Instr.cueAdmit k h).wf = true →
      (∀ n, (s.at_ (s.issueCycle (.cue k))).admitCheck c = none → s.freeSlot = some n → Completes (exec (.cueAdmit k h) s) fun t =>
        (t.cue k).admitted = true ∧ (t.cue k).status = 0 ∧ t.cmp (.cue k) 3 = ⟨10, 0, 1, true⟩ ∧
        t.rf R.HIF_ADM_STAT F.HIF_ADM_STAT_ACCEPTED = s.plus R.HIF_ADM_STAT F.HIF_ADM_STAT_ACCEPTED 1 ∧
        ∃ x ∈ t.chip.slots, x.slot = n ∧ x.tag = c.tag.toNat ∧ x.queue = c.queue ∧ x.pkey = c.pkey ∧ x.dueNs = c.arrival + c.w3.toNat ∧
          x.aFrame = s.frame ∧ x.desc = s.active ∧ x.open = true) ∧
      (∀ st, (s.at_ (s.issueCycle (.cue k))).admitCheck c = some st → Completes (exec (.cueAdmit k h) s) fun t =>
        (t.cue k).admitted = false ∧ (t.cue k).status = st ∧ t.chip.slots = s.chip.slots ∧
          s.sameRegsBut t [R.MOD_ALERT, R.HIF_STAT]))

/-- The commands about a queue pair. While the endpoint is not served they do nothing. QUEUE_ENABLE starts a disabled one with its pointers at 0 and its
phase 1; QUEUE_DISABLE discards what has not been written; no other queue changes. A doorbell of the function that owns the queue moves its pointer (a
result window's head drops the records it passes); one that would pass the other end, of a disabled queue or of one that is not the function's, is counted and changes no queue. STATUS_REPLY writes the oldest
reply into the ring. COMMAND_FETCH takes the command at the head, once the tail covers it and, for a FENCE, once no earlier one of its queue is
outstanding: one that passes the checks is fetched, another is answered with what failed; a LEN of 0 or past the ring takes one slot. -/
def Obligations.QueueCommands : Prop :=
  ∀ (s : State) (n : Nat), n < 8192 → let q := s.queue n
    (s.served = false → ∀ f v, ∀ i ∈ [Instr.queueEnable n, .queueDisable n, .doorbellSqTail f n v, .doorbellCqHead f n v, .doorbellResHead f n v,
      .statusReply n, .commandFetch n], exec i s = .next s) ∧
    (s.served = true →
    (q.en = false → Completes (exec (.queueEnable n) s) fun t => let x := t.queue n
      x.en = true ∧ x.sqHead = 0 ∧ x.sqTail = 0 ∧ x.cqHead = 0 ∧ x.cqTail = 0 ∧ x.resHead = 0 ∧ x.resTail = 0 ∧ x.phase = true ∧ x.seq = 0 ∧
        x.base = q.base ∧ (∀ m, m ≠ n → t.queue m = s.queue m) ∧ t.regs = s.regs) ∧
    Completes (exec (.queueDisable n) s) (fun t => let x := t.queue n
      x.en = false ∧ x.replies = [] ∧ x.records = [] ∧ (∀ m, m ≠ n → t.queue m = s.queue m) ∧ t.regs = s.regs) ∧
    (∀ f k, let rejected (i : Instr) : Prop := Completes (exec i s) fun t => t.queues = s.queues ∧
        t.rf R.HIF_STAT F.HIF_STAT_DB_REJECT = s.plus R.HIF_STAT F.HIF_STAT_DB_REJECT 1 ∧
        s.sameRegsBut t [R.PWR_STATE, R.HIF_STAT] ∧ t.mem = s.mem
      let moved (m : Option QueueS) (i : Instr) : Prop :=
        (∀ x, q.en = true → fget q.cfg F.HIF_Q_CFG_FUNC = f → m = some x → Completes (exec i s) fun t =>
          t.queue n = x ∧ (∀ j, j ≠ n → t.queue j = s.queue j) ∧ s.sameRegsBut t [R.PWR_STATE] ∧ t.mem = s.mem) ∧
        (q.en = false ∨ fget q.cfg F.HIF_Q_CFG_FUNC ≠ f ∨ m = none → rejected i)
      ∀ v, (s.queueOf f k = some n → moved (moveSqTail v q) (.doorbellSqTail f k v) ∧ moved (moveCqHead v q) (.doorbellCqHead f k v) ∧
          moved (moveResHead v q) (.doorbellResHead f k v)) ∧
        ((∀ m, s.queueOf f k = some m → 8192 ≤ m) → rejected (.doorbellSqTail f k v) ∧ rejected (.doorbellCqHead f k v) ∧
          rejected (.doorbellResHead f k v))) ∧
    (∀ v x, (moveSqTail v q = some x → x = { q with sqTail := v }) ∧ (moveCqHead v q = some x → x = { q with cqHead := v }) ∧
      (moveResHead v q = some x → x.resHead = v % 0x100000000 ∧ { x with resHead := q.resHead, records := q.records } = q)) ∧
    (∀ r rest, q.en = true → q.replies = r :: rest → q.cqFree ≠ 0 → Completes (exec (.statusReply n) s) fun t => let x := t.queue n
      t.hostBytes (q.cqAt q.cqTail) 32 = r.bytes q.phase ∧ x.replies = rest ∧ x.cqTail = (q.cqTail + 1) % q.cqSize ∧
        x.phase = (if (q.cqTail + 1) % q.cqSize = 0 then !q.phase else q.phase) ∧ t.mem = s.mem ∧ s.sameRegsBut t [R.PWR_STATE]) ∧
    (let c := s.headCmd n
     let odd := c.len = 0 ∨ q.sqSize ≤ c.len
     let avail := (q.sqTail + q.sqSize - q.sqHead) % q.sqSize
     let d := { c with sqHead := if odd then (q.sqHead + 1) % q.sqSize else c.sqHead }
     let failed := s.checkCmd d (field (s.sqSlot q q.sqHead) 0 8)
     q.en = true → q.cqRoom ≠ 0 → avail ≠ 0 → (odd ∨ c.len ≤ avail) → (c.fence = true → ∀ e ∈ s.chip.fetched, e.queue ≠ n) →
      Completes (exec (.commandFetch n) s) fun t => (t.queue n).sqHead = d.sqHead ∧ t.mem = s.mem ∧ s.sameRegsBut t [R.PWR_STATE] ∧
        (failed = none → t.chip.fetched = s.chip.fetched ++ [d] ∧ (t.queue n).replies = q.replies) ∧
        (∀ st x, failed = some (st, x) → s.answered t d st x 0 ∧ t.chip.fetched = s.chip.fetched) ∧
        (odd → ∃ st, failed = some (st, 0) ∧ st ≤ 0x0102)))

/-! ### Requests and results -/

/-- REQ_SUBMIT gives the command, next of its queue, to its queue's cue stream. REQ_CANCEL, next of its queue, ends the open request of its tag
and queue, and is refused where there is none or it is complete; a replay refuses both. With no replay, DEADLINE_EXPIRY ends the request whose deadline comes. REQ_SLOT_FREE frees the slot of a drained request, and of an ended one after
its last frame. -/
def Obligations.RequestsEnd : Prop :=
  ∀ s : State, (s.replaying = true → ∀ c : Cmd, s.mayStart c = true → ∀ i ∈ [Instr.reqSubmit c, .reqCancel c],
      Completes (exec i s) fun t => s.answered t c 0x0103 0 0 ∧ t.regs = s.regs ∧ t.chip.slots = s.chip.slots) ∧
    (s.replaying = false →
    (∀ c : Cmd, s.mayStart c = true → Completes (exec (.reqSubmit c) s) fun t =>
      let k := fget (s.queue c.queue).cfg F.HIF_Q_CFG_CUE
      (t.cue k).inq = (s.cue k).inq ++ [c] ∧ s.sameMemory t ∧ t.regs = s.regs) ∧
    (∀ c : Cmd, s.mayStart c = true →
      (∀ x, s.chip.slots.filter (fun y => y.tag == c.w2.toNat && y.queue == c.queue) = [x] → x.ended = false → x.drained = false →
        x.complete = false → Completes (exec (.reqCancel c) s) fun t =>
          s.answered t c 0 0 0 ∧ ∀ y ∈ t.chip.slots, y.slot = x.slot → y.ended = true) ∧
      (let mine := s.chip.slots.filter (fun y => y.tag == c.w2.toNat && y.queue == c.queue && !y.ended)
       (∀ y ∈ mine, y.complete = true ∨ y.drained = true) → Completes (exec (.reqCancel c) s) fun t =>
        s.answered t c 0x0103 (if mine = [] then 0 else 1) 0 ∧ t.regs = s.regs ∧ t.chip.slots = s.chip.slots)) ∧
    (∀ n x, n < 256 → s.slot n = some x → x.open = true → x.complete = false → x.timed = true → x.desc < 2 →
      Completes (exec (.deadlineExpiry n) s) fun t => x.dueNs ≤ t.chip.ns ∧ (∀ y ∈ t.chip.slots, y.slot = n → y.ended = true) ∧
        t.rf R.HIF_ADM_STAT F.HIF_ADM_STAT_DEADLINE_FAULTS = s.plus R.HIF_ADM_STAT F.HIF_ADM_STAT_DEADLINE_FAULTS 1 ∧
        ((s.queue x.queue).en = true → ∃ r, (t.queue x.queue).records = (s.queue x.queue).records ++ [r] ∧ r.tag = x.tag ∧
          r.status = 0x0801 ∧ r.final = true ∧ r.plen = 0)) ∧
    (∀ n x, n < 256 → s.slot n = some x →
      (x.drained = true ∨ (x.ended = true ∧ x.aFrame + x.n + 1 ≤ s.frame) → Completes (exec (.reqSlotFree n) s) fun t =>
        t.slot n = none ∧ (∀ m, m ≠ n → t.slot m = s.slot m) ∧ s.sameMemory t) ∧
      (x.drained = false → x.ended = false → exec (.reqSlotFree n) s = .next s)))

/-- RESULT_DRAIN of an open request whose result area is full: its record, with length, FINAL and poison as the area says, enters the result buffer,
the area is empty again, and a FINAL record completes the request; it waits while the area is empty or the buffer has no room, and empties an ended request's area. While
the endpoint is served, RESULT_RING_WRITE writes the oldest record's header and body at the ring's tail, after a pad record where it would wrap, and moves
the tail on; and RESULT_WINDOW_READ gives the bytes of the oldest held record's page of the queue that the function's page names, or NOT_READY, which it
counts; a page past a function's own queues reads 0. -/
def Obligations.ResultsLeave : Prop :=
  ∀ s : State,
    (∀ n x, n < 256 → s.slot n = some x → let a := s.resArea n
      let head := s.rd 0 a.1 a.2 64
      let plen := min (leNat (pdata (head.take 4))) 16064
      let size := 64 + pad64 plen + (if x.crec then 256 else 0)
      let final := ((pdata head).getD 4 0).toNat.testBit 0
      (s.isFull a.1 (a.2 / 256) = false ∨ x.drained = true ∨ (x.ended = false ∧ s.bufferRoom < size) →
        exec (.resultDrain n) s = .next s) ∧
      (s.isFull a.1 (a.2 / 256) = true → x.drained = false → x.ended = true → Completes (exec (.resultDrain n) s) fun t =>
        t.isFull a.1 (a.2 / 256) = false ∧ t.mem = s.mem ∧ t.queues = s.queues) ∧
      (s.isFull a.1 (a.2 / 256) = true → x.drained = false → x.ended = false → size ≤ s.bufferRoom →
        Completes (exec (.resultDrain n) s) fun t => t.isFull a.1 (a.2 / 256) = false ∧ t.mem = s.mem ∧
          (final = true → ∀ y ∈ t.chip.slots, y.slot = n → y.complete = true ∧ y.drained = true) ∧
          ((s.queue x.queue).en = true → ∃ r, (t.queue x.queue).records = (s.queue x.queue).records ++ [r] ∧ r.tag = x.tag ∧ r.final = final ∧
            r.plen = plen ∧ r.status = (if ppoison (head ++ s.rd 0 a.1 (a.2 + 64) plen) then 0x0802 else 0)))) ∧
    (s.served = true →
    (∀ n r rest, n < 8192 → let q := s.queue n
      let need := r.bytes64 / 64
      let left := q.resSize - q.resTail
      let written (t : State) (at_ seq : Nat) : Prop := let x := t.queue n
        t.hostBytes (q.resAt at_) 64 = r.header seq false ∧ t.hostBytes (q.resAt at_ + 64) r.body.length = r.body ∧ x.records = rest ∧
          x.resTail = (at_ + need) % q.resSize ∧ x.seq = (seq + 1) % 0x100000000 ∧ s.sameRegsBut t [R.PWR_STATE] ∧ t.mem = s.mem
      q.records = r :: rest → q.en = true → fget q.cfg F.HIF_Q_CFG_RMODE ≠ 1 → r.body.length % 64 = 0 →
      (need ≤ left → need ≤ q.resRoom → Completes (exec (.resultRingWrite n) s) fun t => written t q.resTail q.seq) ∧
      (q.resHead < q.resSize → q.resTail < q.resSize → left < need → left ≤ q.resRoom → need ≤ (q.advance left).resRoom →
        Completes (exec (.resultRingWrite n) s) fun t =>
          t.hostBytes (q.resAt q.resTail) 64 = padHeader q.seq ∧ written t 0 ((q.seq + 1) % 0x100000000))) ∧
    (∀ f p off len, f ≤ 64 → p < 8192 → off + len ≤ 16384 →
      (∀ n, s.queueOf f p = some n → let q := s.queue n
        (∀ r rest, q.en = true → fget q.cfg F.HIF_Q_CFG_RMODE = 1 → q.records = r :: rest →
          Completes (exec (.resultWindowRead ⟨f, p⟩ off len) s) fun t => t.chip.window.length = len ∧ (t.queue n).records = q.records ∧
            ∀ i < len, t.chip.window[i]? = some ((r.page q.resHead (q.rereadSeq == some q.resHead)).getD (off + i) 0)) ∧
        (q.en = false ∨ fget q.cfg F.HIF_Q_CFG_RMODE ≠ 1 ∨ q.records = [] → Completes (exec (.resultWindowRead ⟨f, p⟩ off len) s) fun t =>
          t.chip.window.length = len ∧ (∀ i < len, t.chip.window[i]? = some ((List.replicate 8 0 ++ [1, 3]).getD (off + i) 0)) ∧
            t.rf R.HIF_RESULT_WIN F.HIF_RESULT_WIN_NOT_READY_CNT =
              s.plus R.HIF_RESULT_WIN F.HIF_RESULT_WIN_NOT_READY_CNT (if off < 16 ∧ 0 < len then 1 else 0))) ∧
      (s.queueOf f p = none → Completes (exec (.resultWindowRead ⟨f, p⟩ off len) s) fun t =>
        t.chip.window = List.replicate len 0 ∧ s.sameRegsBut t [R.PWR_STATE] ∧ s.sameMemory t)))

/-! ### Jobs, replays and contexts -/

/-- The job commands, each the next of its queue; another module than the manager refuses them. JOB_LOAD_REEL, no clap open, refuses a reel that
fails a check, with status, entry and step, and loads one that passes: FRM_LEN and the enabled streams are the reel's (here of a reel without
presets). JOB_START calls the start clap of a job whose checks pass and, the row maps settled, prepares it; it refuses one whose checks fail (here with the
twin-written registers that they use intact). JOB_STOP stops frames at the next tick. CMAP_READ writes the asked map's blocks. -/
def Obligations.JobCommands : Prop :=
  ∀ (s : State) (c : Cmd), s.mayStart c = true →
    (s.isManager = false → ∀ i ∈ [Instr.jobLoadReel c, .jobStart c, .jobStop c, .cmapRead c], Completes (exec i s) fun t =>
      s.answered t c 0x0103 0 0 ∧ t.regs = s.regs ∧ t.mem = s.mem) ∧
    (s.isManager = true →
    (s.running = false → s.chip.clap = none → c.w4.toNat.testBit 0 = (c.w2 == 0) →
      let r := s.reelOf c
      (∀ e, s.reelFault r = some e → Completes (exec (.jobLoadReel c) s) fun t =>
        s.answered t c e.status e.entry (e.step * 2 ^ 26 + min e.item 0xFFFF * 2 ^ 10 + s.position) ∧ t.regs = s.regs ∧ t.mem = s.mem ∧
          t.chip.reel = s.chip.reel) ∧
      (s.reelFault r = none → let xs := ((List.range (field r 0x1C 4)).map (sectionAt r)).filter (·.modl == s.position)
        (∀ x ∈ xs, x.typ ≠ 0x50) → Completes (exec (.jobLoadReel c) s) fun t =>
          s.answered t c 0 0 0 ∧ t.chip.reel = some r ∧ t.frmLen = field r 0x10 4 ∧
            ∀ u < s.numTiles, t.rf (R.STR_CTL u) F.STR_CTL_STREAM_EN = enabledBy xs u)) ∧
    (s.running = true ∨ c.w4.toNat.testBit 0 ≠ (c.w2 == 0) → Completes (exec (.jobLoadReel c) s) fun t =>
      s.answered t c 0x0103 0 0 ∧ t.regs = s.regs ∧ t.mem = s.mem) ∧
    (s.running = false → s.startOk = true → Completes (exec (.jobStart c) s) fun t =>
      t.running = true ∧ (s.chip.armedMaps = none → t.frame = 0 ∧ t.chip.slots = []) ∧
        ∃ k, t.chip.clap = some k ∧ k.sub = 0 ∧ k.cmd = some c) ∧
    (s.running = true ∨ (s.startOk = false ∧ twAgree (s.reg R.FRM_LEN) = true ∧ twAgree (s.reg R.FAB_JOB_PKEY) = true) →
      Completes (exec (.jobStart c) s) fun t => s.answered t c 0x0103 0 0 ∧ t.regs = s.regs) ∧
    (s.running = true → Completes (exec (.jobStop c) s) fun t =>
      t.chip.halting = true ∧ t.chip.haltCmds = s.chip.haltCmds ++ [c] ∧ t.regs = s.regs ∧ s.sameMemory t) ∧
    (s.running = false → Completes (exec (.jobStop c) s) fun t => s.answered t c 0 0 0 ∧ t.regs = s.regs) ∧
    (let n := s.chip.part.modules
     let e := c.w4.toNat % 0x100000000
     let m := if e = 0 then s.chip.cmaps.head? else s.chip.cmaps.find? (·.1 == e)
     (c.w3.toNat < 8704 * n → Completes (exec (.cmapRead c) s) fun t => s.answered t c 0x0103 0 0 ∧ t.regs = s.regs ∧ t.host = s.host) ∧
     (8704 * n ≤ c.w3.toNat →
      (∀ x, m = some x → Completes (exec (.cmapRead c) s) fun t => s.answered t c 0 0 0 ∧ t.regs = s.regs ∧
        ∀ p < n, t.hostBytes (c.w2.toNat + 8704 * p) 8704 = cmapBlock p x.1 (s.cmapBin p x.1 x.2)) ∧
      (m = none → Completes (exec (.cmapRead c) s) fun t => s.answered t c 0x0301 0 0 ∧ t.regs = s.regs))))

/-- At the manager, each the next of its queue. REPLAY_RECORD arms a recording while no job runs, hands the one that a job makes its next buffer, or ends the one there is
(here with nothing waiting for room). REPLAY_RUN of a recording that passes its checks, and those of a start, starts the replay;
one that fails a check, or is empty, is refused. CTX_SAVE of a running job without a roll on its way announces a capture frame; with no job it is refused; while a capture
is open it waits (the model's choice, log entry 61). CTX_RESTORE of an image that passes its checks, and then those of a start, writes the context and calls the restore clap for
its frame. Another module refuses them. -/
def Obligations.ReplayAndContext : Prop :=
  ∀ (s : State) (c : Cmd), s.mayStart c = true →
    (s.isManager = false → ∀ i ∈ [Instr.replayRecord c, .replayRun c, .ctxSave c, .ctxRestore c], (i = .ctxSave c → s.chip.capture = none) →
      Completes (exec i s) fun t => s.answered t c 0x0103 0 0 ∧ t.regs = s.regs ∧ t.mem = s.mem) ∧
    (s.isManager = true →
    (c.w4.toNat.testBit 0 = true →
      (s.running = false → s.chip.record.active = false ∨ s.chip.backlog = [] → Completes (exec (.replayRecord c) s) fun t =>
        t.chip.record = { armed := true, addr := c.w2.toNat, len := c.w3.toNat } ∧ s.answered t c 0 0 0 ∧ t.mem = s.mem) ∧
      (s.running = true → s.chip.record.on = true → s.chip.backlog = [] → s.chip.heldWrites = [] →
        Completes (exec (.replayRecord c) s) fun t => t.chip.record = { s.chip.record with next := some (c.w2.toNat, c.w3.toNat) } ∧
          t.rb R.AUD_REPLAY_CTL F.AUD_REPLAY_CTL_NEXT = true ∧ s.answered t c 0 0 0 ∧ t.mem = s.mem) ∧
      (s.running = true → s.chip.record.active = false → Completes (exec (.replayRecord c) s) fun t =>
        s.answered t c 0x0103 0 0 ∧ t.regs = s.regs)) ∧
    (c.w4.toNat.testBit 0 = false → s.chip.heldWrites = [] → s.chip.backlog = [] → Completes (exec (.replayRecord c) s) fun t =>
      t.chip.record = {} ∧ t.rb R.AUD_REPLAY_CTL F.AUD_REPLAY_CTL_EN = false ∧ s.answered t c 0 0 0) ∧
    (let es := entriesOf (c.w3.toNat / 64) (s.hostBytes c.w2.toNat c.w3.toNat)
     (∀ start rest, s.running = false → es = start :: rest → start.kind = 1 →
      (s.replayCheck start rest = none → s.startOk = true → Completes (exec (.replayRun c) s) fun t =>
        t.replaying = true ∧ t.running = true ∧ t.chip.replay = rest ∧ t.chip.replayCmd = some c ∧
          ∃ k, t.chip.clap = some k ∧ k.sub = if start.frame = 0 then 0 else 3) ∧
      (∀ st d, s.replayCheck start rest = some (st, d) → Completes (exec (.replayRun c) s) fun t =>
        s.answered t c st d 0 ∧ t.regs = s.regs)) ∧
     (s.running = true ∨ es = [] ∨ (∃ start, es.head? = some start ∧ start.kind ≠ 1) → Completes (exec (.replayRun c) s) fun t =>
      s.answered t c 0x0103 0 0 ∧ t.regs = s.regs)) ∧
    (s.chip.capture ≠ none → exec (.ctxSave c) s = .next s) ∧
    (s.chip.capture = none →
      let free := s.chip.armedRoll = none ∧ s.reg R.ROL_SWITCH_FRAME = 0 ∧
        ∀ x < 2, s.descState x ≠ 1 ∧ s.descState x ≠ 3 ∧ s.descState x ≠ 5
      let f := s.announceFrame (s.frame + 1)
      (s.running = true → free → Completes (exec (.ctxSave c) s) fun t =>
        t.rb R.AUD_STAT F.AUD_STAT_SAVING = true ∧ t.mem = s.mem ∧ t.full = s.full ∧ t.chip.capture = some ⟨f, false, some c⟩ ∧
          t.chip.tokensOut = s.chip.tokensOut ++ [⟨3, 3, s.position, s.chip.clapSeq, f⟩]) ∧
      (s.running = false ∨ ¬ free → Completes (exec (.ctxSave c) s) fun t => s.answered t c 0x0103 0 0 ∧ t.regs = s.regs)) ∧
    (let img := s.hostBytes c.w2.toNat c.w3.toNat
     (∀ st, s.ctxCheck img = some st → Completes (exec (.ctxRestore c) s) fun t => s.answered t c st 0 0 ∧ t.regs = s.regs) ∧
     (s.ctxCheck img = none → Completes (exec (.ctxRestore c) s) fun t =>
      if (s.restoring c).startOk then
        t.running = true ∧ t.rb R.AUD_STAT F.AUD_STAT_RESTORING = true ∧ t.chip.restored = some (field img 0x10 8) ∧
          ∃ k, t.chip.clap = some k ∧ k.sub = 3 ∧ k.frame = field img 0x10 8 ∧ k.cmd = some c
      else t.running = false ∧ t.rb R.AUD_STAT F.AUD_STAT_RESTORING = false ∧ t.chip.clap = s.chip.clap)))

/-! ### Rolls and loading -/

/-- The commands on rolls and adapters, each the next of its queue; another module than the manager refuses them. ROLL_LOAD and ADAPTER_LOAD begin a load of the
descriptor or entry that is free for it, of the image, source and root they name; behind a load that runs they wait; one that fails a check is
refused. Source 4 fills its descriptor at once. ROLL_ARM arms the descriptor of its root that is BUILT on every module; ROLL_SWITCH switches the ARMED one at once with no job, else
announces the frame, or begins the load it names; ROLL_FREE and OLD_ROLL_FREE empty a descriptor that nothing binds. -/
def Obligations.RollCommands : Prop :=
  ∀ (s : State) (c : Cmd), s.mayStart c = true →
    (s.isManager = false → ∀ x ∈ [(Instr.rollLoad c, 0x0201), (.rollArm c, c.opcode), (.rollSwitch c, 0x0203), (.rollFree c, c.opcode), (.adapterLoad c, 0x0210)],
      c.opcode = x.2 → Completes (exec x.1 s) fun t => s.answered t c 0x0103 0 0 ∧ t.regs = s.regs ∧ s.sameMemory { t with queues := s.queues }) ∧
    (s.isManager = true →
    let begun (x : Nat) (a : LoadAsk) (t : State) : Prop :=
      t.queues = s.queues ∧ ∃ l, t.chip.load = some l ∧ l.desc = x ∧ l.ask = a ∧ l.root = cmdRoot c
    (c.opcode = 0x0201 →
      (s.askStatus (askOf c true) ≠ 0 → Completes (exec (.rollLoad c) s) fun t =>
        s.answered t c (s.askStatus (askOf c true)) 0 0 ∧ t.regs = s.regs) ∧
      (s.loadDesc = none → c.w6.toNat % 8 ≠ 2 → c.w6.toNat % 8 ≤ 4 → s.askStatus (askOf c true) = 0x0404) ∧
      (c.w6.toNat % 8 < 4 → (c.w6.toNat % 8 = 2 → s.portState (if c.w6.toNat.testBit 4 then 13 else 12) = 6) →
        ∀ x, s.loadDesc = some x →
        (s.chip.load = none → Completes (exec (.rollLoad c) s) fun t => t.rf R.ROL_LOAD_STAT F.ROL_LOAD_STAT_PHASE = 1 ∧
          begun x ⟨c, true, false, c.w6.toNat % 8, c.w6.toNat.testBit 3 && decide (c.w6.toNat % 8 < 3), false⟩ t) ∧
        (s.chip.load.isSome = true → Completes (exec (.rollLoad c) s) fun t =>
          t.chip.load = s.chip.load ∧ t.chip.loadWait = s.chip.loadWait ++ [askOf c true] ∧ t.regs = s.regs ∧ s.sameMemory t)) ∧
      (∀ x, c.w6.toNat % 8 = 4 → s.mirrorHolds (cmdRoot c) = true → s.chip.load = none → s.loadDesc = some x → x < 2 →
        (∃ q ∈ s.chip.lastRoll.regions, s.mirrored q = true ∧ ∀ y, s.live = some y → q ∉ (s.roll y).regions) →
        Completes (exec (.rollLoad c) s) fun t => begun x ⟨c, true, false, 4, false, false⟩ t ∧
          t.descState x = 1 ∧ t.descRoot x = cmdRoot c)) ∧
    (∀ x, [0, 1].find? (fun x => s.descState x == 2 && s.descRoot x == cmdRoot c) = some x →
      ((∀ l, s.chip.load = some l → l.ask.adapter = true ∨ l.desc ≠ x) → Completes (exec (.rollArm c) s) fun t =>
        t.descState x = 3 ∧ t.descRoot x = cmdRoot c ∧ s.answered t c 0 0 0 ∧ s.sameRegsBut t [descKey x 0]) ∧
      (∀ l, s.chip.load = some l → l.ask.adapter = false → l.desc = x → Completes (exec (.rollArm c) s) fun t =>
        s.answered t c 0x0203 0 0 ∧ t.regs = s.regs)) ∧
    ([0, 1].find? (fun x => s.descState x == 2 && s.descRoot x == cmdRoot c) = none → Completes (exec (.rollArm c) s) fun t =>
      s.answered t c 0x0203 0 0 ∧ t.regs = s.regs) ∧
    (c.opcode = 0x0203 → c.w7.toNat.testBit 0 = false →
      let armed := [0, 1].find? (fun x => s.descState x == 3 && s.descRoot x == cmdRoot c)
      (∀ x, armed = some x → twAgree (s.reg R.FRM_LEN) = true → Completes (exec (.rollSwitch c) s) fun t => s.answered t c 0 0 0 ∧
        (s.running = false → t.descState x = 4 ∧ ∀ u < s.numTiles, (t.tile u).serving = some x) ∧
        (s.running = true → t.chip.armedRoll = some x ∧
          let f := s.announceFrame (max c.w6.toNat (s.frame + 4))
          t.reg R.ROL_SWITCH_FRAME = BitVec.ofNat 64 f ∧ t.chip.tokensOut = s.chip.tokensOut ++ [⟨3, 1, s.position, s.chip.clapSeq, f⟩])) ∧
      (armed = none → Completes (exec (.rollSwitch c) s) fun t => s.answered t c 0x0203 0 0 ∧ t.regs = s.regs)) ∧
    (c.opcode = 0x0203 → c.w7.toNat.testBit 0 = true → let src := c.w7.toNat / 2 % 8
      (src = 1 ∨ src = 3 → s.chip.load = none → ∀ x, s.loadDesc = some x → Completes (exec (.rollSwitch c) s) fun t =>
        begun x ⟨c, true, false, src, c.w7.toNat.testBit 4 && decide (src < 3), true⟩ t) ∧
      (src ≠ 1 → src ≠ 3 → src ≠ 4 → Completes (exec (.rollSwitch c) s) fun t => s.answered t c 0x0103 0 0 ∧ t.regs = s.regs)) ∧
    (∀ x, s.byRoot (cmdRoot c) = some x → let st := s.descState x
      (st ≠ 1 → st ≠ 4 → st ≠ 5 → Completes (exec (.rollFree c) s) fun t => t.descState x = 0 ∧ s.answered t c 0 0 0) ∧
      (st = 4 → Completes (exec (.rollFree c) s) fun t => s.answered t c 0x0103 0 0 ∧ t.regs = s.regs) ∧
      (st = 1 ∨ (st = 5 ∧ 0 < s.bound x) → Completes (exec (.rollFree c) s) fun t => s.answered t c 0x0404 0 0 ∧ t.regs = s.regs) ∧
      (st = 5 → s.bound x = 0 → Completes (exec (.rollFree c) s) fun t => s.answered t c 0 0 0 ∧
        (t.descState x = 0 ∨ (t.roll x).freeNamed = true))) ∧
    (s.byRoot (cmdRoot c) = none → Completes (exec (.rollFree c) s) fun t => s.answered t c 0x0103 0 0 ∧ t.regs = s.regs) ∧
    (let e := c.w6.toNat % 32
     c.opcode = 0x0210 →
      (s.askStatus (askOf c true) ≠ 0 → Completes (exec (.adapterLoad c) s) fun t =>
        s.answered t c (s.askStatus (askOf c true)) 0 0 ∧ t.regs = s.regs) ∧
      (c.w6.toNat / 256 % 8 ≤ 3 → (c.w6.toNat / 256 % 8 = 2 → s.portState 12 = 6) → c.w6.toNat / 2 ^ 16 % 2 ^ 16 ≠ 0 → s.chip.load = none →
        (∀ u < s.numTiles, ∀ n < 16, s.rf (R.MXA_ADP_SLOT u n) F.MXA_ADP_SLOT_PKEY = 0 ∨ s.rf (R.MXA_ADP_SLOT u n) F.MXA_ADP_SLOT_ENTRY ≠ e) →
        Completes (exec (.adapterLoad c) s) fun t => begun e ⟨c, true, true, c.w6.toNat / 256 % 8, false, false⟩ t)) ∧
    (∀ x, x < 2 → s.freeable x = true → (∀ r ∈ s.ownRegions x, s.refetchIn r.1 r.2 = false) → (x = 1 → s.freeable 0 = false) →
      Completes (exec .oldRollFree s) fun t => t.descState x = 0) ∧
    (s.freeable 0 = false → s.freeable 1 = false → exec .oldRollFree s = .next s))

/-- A load under way, with none waiting behind it. ROLL_TABLE_RECEIVE with a table that fails its checks, or whose changes find no room, ends the load and answers it; a roll's table
that passes makes the descriptor the roll's, an adapter's goes on to its shards; at another module than the manager it begins the load that the command
names. SHARD_RECEIVE of a shard that verifies writes its bytes into each tile's tier and counts it, or fails the load where its transform fails; one that does not verify is asked for
again, three times, and then fails the load where it is not stored. LOAD_TIMEOUT with a shard missing that is not stored fails the load. VAULT_ACCESS_COMPLETE of a mirror read
restores the region, of a mirror write keeps it. CODEBOOK_UNIT writes one codebook into the inactive bank. With no load under way none of them does anything at the manager. -/
def Obligations.LoadProgress : Prop :=
  (∀ s : State, s.isManager = true → s.chip.load = none → s.chip.loadWait = [] → ∀ m i bytes, ∀ j ∈ [Instr.rollTableReceive m, .shardReceive i bytes,
    .loadTimeout], exec j s = .next s) ∧
  (∀ (s : State) (c : Cmd) (bytes : List Byte), s.isManager = false → s.chip.load = none → s.chip.loadWait = [] →
    (askOf c false).source ≠ 4 → s.askStatus (askOf c false) = 0 →
    let b := run (askLoad (askOf c false)) s
    (∃ l, b.chip.load = some l ∧ l.ask = askOf c false ∧ l.root = cmdRoot c ∧ l.table = []) ∧
      exec (.rollTableReceive ⟨c, bytes⟩) s = exec (.rollTableReceive ⟨c, bytes⟩) b) ∧
  (∀ (s : State) (l : LoadS), s.chip.load = some l → s.chip.loadWait = [] → l.desc < (if l.ask.adapter then 32 else 2) →
    let failed (status detail : Nat) (t : State) : Prop := t.chip.load = none ∧ (l.ask.own = true → s.answered t l.ask.cmd status detail s.position) ∧
      (l.ask.adapter = false → t.descState l.desc = 6)
    (∀ c bytes, l.ask.source ≠ 4 → l.table = [] → let r := cutTable (s.imageOf l.ask bytes)
      let room := s.noSlot r = false ∧ (l.ask.store = true → s.storeFits l r = true)
      let ended (status : Nat) : Prop := Completes (exec (.rollTableReceive ⟨c, bytes⟩) s) fun t => t.chip.load = none ∧
        t.rf R.ROL_LOAD_STAT F.ROL_LOAD_STAT_PHASE = 0 ∧ (l.ask.own = true → s.answered t l.ask.cmd status 0 0) ∧ t.mem = s.mem
      (s.tableOk l r = false → ended 0x0103) ∧
      (s.tableOk l r = true → l.ask.adapter = false → ¬ room → ended 0x0403) ∧
      (s.tableOk l r = true → l.ask.adapter = false → room → l.root.length = 32 →
        Completes (exec (.rollTableReceive ⟨c, bytes⟩) s) fun t => t.descRoot l.desc = l.root ∧ t.descState l.desc ≠ 0) ∧
      (s.tableOk l r = true → l.ask.adapter = true → l.ownDone = false →
        (∃ i ∈ s.needed { l with table := r.table, shards := field r.head 0xC 4 }, i ∉ l.done) →
        Completes (exec (.rollTableReceive ⟨c, bytes⟩) s) fun t => t.mem = s.mem ∧ t.rf R.ROL_LOAD_STAT F.ROL_LOAD_STAT_PHASE = 2 ∧
          (∃ m, t.chip.load = some m ∧ m.table = r.table ∧ m.shards = field r.head 0xC 4) ∧
          ∀ u < s.numTiles, t.rb (R.MXA_ADP_TBL_0 u l.desc) F.MXA_ADP_TBL_0_VALID = false)) ∧
    (∀ i bytes b, l.table ≠ [] → (s.needed l).contains i = true → l.done.contains i = false → l.ownDone = false →
      let x := l.shard i
      s.shardBytes l x bytes = some b →
      let good := b.length = x.length ∧ sha256 b = x.digest
      (∀ p, good → x.payload b = some p → Completes (exec (.shardReceive i bytes) s) fun t =>
        t.rf R.ROL_LOAD_STAT F.ROL_LOAD_STAT_SHARDS_DONE = s.plus R.ROL_LOAD_STAT F.ROL_LOAD_STAT_SHARDS_DONE 1 ∧
        ∀ j < x.ntile, let d := (x.tierBytes (s.shardBooks l x (x.tile + j)) ((p.drop (j * x.perTile)).take x.perTile)).1
          let o := (x.toff * 1024 + s.slotShift l x) % 0x1000000
          d.length % 64 = 0 → o + d.length ≤ 0x1000000 → ∀ k < d.length, some (t.byte (memKey 1 (x.tile + j) (o + k))) = d[k]?) ∧
      (good → x.payload b = none → Completes (exec (.shardReceive i bytes) s) fun t => failed 0x0401 (i + 0x80000000) t ∧
        t.rb R.ROL_LOAD_STAT F.ROL_LOAD_STAT_XFORM_FAIL = true) ∧
      (¬ good → (∀ e ∈ l.resent, e.1 = i → e.2 < 3) → Completes (exec (.shardReceive i bytes) s) fun t =>
        t.rf R.ROL_LOAD_STAT F.ROL_LOAD_STAT_RESENDS = s.plus R.ROL_LOAD_STAT F.ROL_LOAD_STAT_RESENDS 1 ∧ t.mem = s.mem ∧
          t.chip.load.isSome = true) ∧
      (¬ good → (∃ n, l.resent.find? (·.1 == i) = some (i, n) ∧ 3 ≤ n) → s.storedShard l x = none →
        Completes (exec (.shardReceive i bytes) s) fun t => failed 0x0401 i t ∧
          t.rb R.ROL_LOAD_STAT F.ROL_LOAD_STAT_DIGEST_FAIL = true)) ∧
    (∀ i rest, l.table ≠ [] → (s.needed l).filter (fun i => !l.done.contains i) = i :: rest → s.storedShard l (l.shard i) = none →
      Completes (exec .loadTimeout s) fun t => failed 0x0402 i t ∧ t.rb R.ROL_LOAD_STAT F.ROL_LOAD_STAT_TIMEOUT = true ∧
        l.startNs + s.rf R.ROL_LOAD_TIMEOUT F.ROL_LOAD_TIMEOUT_MS * 1000000 ≤ t.chip.ns) ∧
    (∀ u r, s.tileOk u = true → r < 256 → l.vault.contains (u, r) = true → let va := (256 * u + r) * 0x10000
      Completes (exec (.vaultAccessComplete u r) s) fun t => t.weightRegion u r = true ∧
        (∀ m, t.chip.load = some m → m.vault.contains (u, r) = false) ∧
        (l.ask.source = 4 → ∀ j < 0x10000, t.byte (memKey 1 u (r * 0x10000 + j)) = Sparse.get byte0 s.vault (va + j)) ∧
        (l.ask.source ≠ 4 → (256 * u + r, s.regionDigest l r) ∈ t.chip.mirror ∧
          ∀ j < 0x10000, some (Sparse.get byte0 t.vault (va + j)) = (s.regionContent u r)[j]?)) ∧
    (∀ u, s.tileOk u = true → 0 < (s.tile u).cbUnits → (s.tile u).cbUnits ≤ 4 → s.unitFits u 128 = true →
      (∀ n ∈ s.unitsBefore u 2, s.unitFits u n = false) →
      let k := 4 - (s.tile u).cbUnits
      let sec := (s.roll l.desc).cbData
      let b := 1 - s.rf (R.WPA_CB_STAT u) F.WPA_CB_STAT_ACTIVE
      Completes (exec (.codebookUnit u) s) fun t => (t.tile u).cbUnits = (s.tile u).cbUnits - 1 ∧
        (0x8000 * (k + 1) ≤ sec.length →
          t.bytes (memKey 5 u (b * 0x20000 + k * 0x8000)) 0x8000 = (sec.drop (0x8000 * k)).take 0x8000)))

/-! ### Registers and data ports -/

/-- A TW register reads as both halves stand, and its halves agree after reset. A write of it takes effect only with a high half that is the
complement of the low half: any other is ignored and counted in MOD_TW_REJECT_CNT; an agreeing one leaves the written word, or, where
another rule ignores it, the old one. FRM_LEN is one that is written while no job runs, and ignored while one does. -/
def Obligations.TwinWrites : Prop :=
  ∀ (s : State) (k : Nat) (r : RegDef) (v : Word), regOf k = some r → r.twin = true → (isTileKey k = true → tileOf k < s.numTiles) →
    s.readReg k = s.reg k ∧ twAgree (resetWord k) = true ∧
    (twAgree v = false → let t := run (writeReg k v) s
      t.rf R.MOD_TW_REJECT_CNT F.MOD_TW_REJECT_CNT_COUNT = s.plus R.MOD_TW_REJECT_CNT F.MOD_TW_REJECT_CNT_COUNT 1 ∧
        s.sameRegsBut t [R.MOD_TW_REJECT_CNT] ∧ s.sameMemory t ∧ t.tiles = s.tiles ∧ t.chip = s.chip) ∧
    (twAgree v = true → let t := run (writeReg k v) s
      (t.reg k = v ∨ t.reg k = s.reg k) ∧
        (k = R.FRM_LEN → s.running = true → t = s) ∧
        (k = R.FRM_LEN → s.running = false → t.reg k = v ∧ s.sameRegsBut t [k] ∧ s.sameMemory t))

/-- Accesses of registers by the host, in the state in which an access acts (stalled writes applied, what it wakes awake); none acts while the
endpoint is not served. One that is not 64 bits wide and aligned only counts itself, and reads 0. An aligned one of the PF names the register at its offset in BAR0, or
of the tile that HIF_TILE_WIN names in BAR2, or none, where a write does nothing and a read answers 0. A write writes the register, and is recorded
where a running job's recording takes it; it stalls while the buffer has no room. A read answers the register as it reads; a VF reads HIF_TIME and nothing else, and its writes reach the
doorbell only. An access takes the host domain out of IDLE. A write where no register is defined is ignored. W1C bits are cleared where 1 is written, a read-only register
keeps its value, a read-write one takes it. RESUME through any tile, not stalled, clears every matched break; at the manager of a frozen chip without a clap it calls the
resume clap, at a frozen worker it asks the manager for one. -/
def Obligations.RegisterAccesses : Prop :=
  ∀ (s : State) (v : Word),
    (∀ (a : HostAcc) w, a.func ≤ 64 → s.served = false → exec (.registerWrite a w) s = .next s) ∧
    (s.chip.heldWrites = [] → s.entering = [] → s.dropped = [] → ∀ core,
      (s.accessed core).domState 1 = if s.domState 1 = 2 then 3 else s.domState 1) ∧
    (s.served = true →
    (∀ (a : HostAcc) w, a.func ≤ 64 → a.width ≠ 8 ∨ a.off % 8 ≠ 0 → Completes (exec (.registerWrite a w) s) fun t =>
      let b := s.accessed (a.bar == 2)
      t.rf R.HIF_STAT F.HIF_STAT_BAD_ACCESS = b.plus R.HIF_STAT F.HIF_STAT_BAD_ACCESS 1 ∧ b.sameRegsBut t [R.HIF_STAT] ∧
        b.sameMemory t ∧ t.tiles = b.tiles ∧ t.chip = if w = none then { b.chip with readData := 0 } else b.chip) ∧
    (∀ a : HostAcc, a.func = 0 → a.width = 8 → a.off % 8 = 0 → let b := s.accessed (a.bar == 2)
      let w := b.rf R.HIF_TILE_WIN F.HIF_TILE_WIN_TILE
      (b.accKey a = if a.bar = 0 ∧ a.off < 0x100000 then some a.off
        else if a.bar = 2 ∧ a.off < 0x4000 ∧ w < b.numTiles then some (tileKey w a.off) else none) ∧
      (b.accKey a = none → exec (.registerWrite a (some v)) s = .next b ∧ Completes (exec (.registerWrite a none) s) fun t =>
        t.chip.readData = 0 ∧ t.regs = b.regs ∧ b.sameMemory t) ∧
      (∀ k, b.accKey a = some k → let written := run (asWriter 0x100 (writeReg k v)) b
        (b.running = false ∨ (b.recKind k v = none ∧ (bankSelector k = true → b.admits = true)) →
          exec (.registerWrite a (some v)) s = .next written) ∧
        (∀ kind, b.running = true → b.recKind k v = some kind → b.admits = true → exec (.registerWrite a (some v)) s =
          .next (run (recordEntry ⟨kind, 0x100, b.frame, 0, b.regAddr k, b.recValue k v kind, 0, []⟩) written)) ∧
        (b.running = true → b.recKind k v ≠ none ∨ bankSelector k = true → b.admits = false →
          Completes (exec (.registerWrite a (some v)) s) fun t =>
            t.chip.heldWrites = b.chip.heldWrites ++ [.registerWrite ⟨0, 0, k, 8⟩ (some v)] ∧ b.sameMemory t ∧
            t.rb R.AUD_REPLAY_CTL F.AUD_REPLAY_CTL_FULL = true ∧
            t.rf R.AUD_REPLAY_STAT F.AUD_REPLAY_STAT_STALLS = b.plus R.AUD_REPLAY_STAT F.AUD_REPLAY_STAT_STALLS 1 ∧
            b.sameRegsBut t [R.AUD_REPLAY_CTL, R.AUD_REPLAY_STAT]) ∧
        Completes (exec (.registerWrite a none) s) fun t => t.chip.readData = b.readReg k ∧ b.sameMemory t ∧
          b.sameRegsBut t [R.SPK_TBL_ADDR, R.TIR_CLASS_ADDR, R.FAB_CMAP_ADDR, R.WPA_CB_ADDR (tileOf k), R.SFU_TBL_ADDR (tileOf k)])) ∧
    (∀ a : HostAcc, 1 ≤ a.func → a.func ≤ 64 → a.width = 8 → a.off % 8 = 0 → let b := s.accessed (a.bar == 2)
      (Completes (exec (.registerWrite a none) s) fun t =>
        t.chip.readData = (if a.bar = 0 ∧ a.off = 8 then BitVec.ofNat 64 b.chip.ns else 0) ∧ t.regs = b.regs ∧ b.sameMemory t) ∧
      exec (.registerWrite a (some v)) s = .next (if a.bar = 0 ∧ a.off = 0 then run (doorbellWrite a.func v) b else b)) ∧
    (∀ u, s.tileOk u = true → let b := s.accessed true
      b.running = false ∨ b.admits = true → Completes (exec (.resume u) s) fun t => t.mem = b.mem ∧ t.full = b.full ∧
      (∀ w < b.numTiles, t.rb (R.STR_STAT w) F.STR_STAT_HIT = false ∧ ∀ k < 4, ((t.tile w).stream k).broken = false) ∧
      b.sameRegsBut t ([R.AUD_CLAP_STAT] ++ recRegs ++ b.tileList.map R.STR_STAT) ∧
      (b.frozen = false → t.chip.clap = b.chip.clap ∧ t.chip.mgmtOut = b.chip.mgmtOut) ∧
      (b.frozen = true → b.isManager = false → t.chip.clap = b.chip.clap ∧ t.chip.mgmtOut = b.chip.mgmtOut ++ [(5, b.position)]) ∧
      (b.frozen = true → b.isManager = true → b.chip.clap = none → ∃ c, t.chip.clap = some c ∧ c.sub = 1))) ∧
    (∀ k, regOf k = none → run (writeReg k v) s = s) ∧
    (let t := run (writeReg R.MOD_ALERT v) s
     t.reg R.MOD_ALERT = s.reg R.MOD_ALERT &&& ~~~(v &&& 0x7F) ∧ s.sameRegsBut t [R.MOD_ALERT] ∧ s.sameMemory t) ∧
    (∀ k, (run (writeReg R.FRM_COUNT v) s).reg k = s.reg k) ∧
    (∀ u, s.tileOk u = true → let t := run (writeReg (R.GRN_SEED_LO u) v) s
      t.reg (R.GRN_SEED_LO u) = v ∧ s.sameRegsBut t [R.GRN_SEED_LO u] ∧ s.sameMemory t)

/-- The data ports, in the state in which the access acts; none acts while the endpoint is not served. A write, where no recording stalls it, stores the word where the
address register points (the sprocket store's unused places take 0, the class map of absent tiles nothing); while a job runs a write into the active
bank is refused and counted, and one into the class map is ignored. A read gives the word there: the codebook and table words as the SEC-DED decoder
delivers them, unused places as 0, the congestion count of the word asked for. Each access moves the address on by one word.
The bank selectors. A write whose halves agree is stored and its PENDING says whether it asks for the other bank; halves that disagree change nothing but
the count of such writes. A grain selector write for a bank that is not filled is refused and counted. -/
def Obligations.DataPortsAndSelectors : Prop :=
  ∀ (s : State) (v : Word),
    (s.served = false → ∀ w u, s.tileOk u = true → ∀ i ∈ [Instr.spkTblDataAccess w, .tirClassDataAccess w, .wpaCbDataAccess u w, .sfuTblDataAccess u w,
      .fabCmapDataRead, .spkSelWrite v, .wpaCbSelWrite u v, .sfuTblSelWrite u v, .grnTblSelWrite u v], exec i s = .next s) ∧
    (s.served = true →
    (let a := s.accessed false
     let next (k : Nat) (f : Fld) (t : State) : Prop := t.rf k f = (a.rf k f + 1) % 2 ^ f.width
     (let o := 8 * a.rf R.SPK_TBL_ADDR F.SPK_TBL_ADDR_ADDR
      let next := next R.SPK_TBL_ADDR F.SPK_TBL_ADDR_ADDR
      let busy := a.running = true ∧ a.inSpkBank a.spkActive o = true
      (a.running = false ∨ a.admits = true →
       (¬ busy → Completes (exec (.spkTblDataAccess (some v)) s) fun t => next t ∧ a.sameRegsBut t (R.SPK_TBL_ADDR :: recRegs) ∧
         t.bytes (sprocketKey o) 8 = leBytes 8 (if a.spkDead o then 0 else v.toNat)) ∧
       (busy → Completes (exec (.spkTblDataAccess (some v)) s) fun t => next t ∧ t.mem = a.mem ∧
         t.rf R.SPK_STAT F.SPK_STAT_WR_REJECT = a.plus R.SPK_STAT F.SPK_STAT_WR_REJECT 1)) ∧
      Completes (exec (.spkTblDataAccess none) s) fun t => next t ∧ t.mem = a.mem ∧
        t.chip.readData = if a.spkDead o then 0 else BitVec.ofNat 64 (leNat (a.bytes (sprocketKey o) 8))) ∧
     (let o := 8 * a.rf R.TIR_CLASS_ADDR F.TIR_CLASS_ADDR_ADDR
      let next := next R.TIR_CLASS_ADDR F.TIR_CLASS_ADDR_ADDR
      (a.running = false → Completes (exec (.tirClassDataAccess (some v)) s) fun t => next t ∧
        t.bytes (classKey o) 8 = if a.classUsed then leBytes 8 v.toNat else a.bytes (classKey o) 8) ∧
      (a.running = true → a.admits = true → Completes (exec (.tirClassDataAccess (some v)) s) fun t => next t ∧ t.mem = a.mem) ∧
      Completes (exec (.tirClassDataAccess none) s) fun t => next t ∧ t.mem = a.mem ∧
        t.chip.readData = if a.classUsed then BitVec.ofNat 64 (leNat (a.bytes (classKey o) 8)) else 0) ∧
     Completes (exec .fabCmapDataRead s) (fun t => t.chip.readData = BitVec.ofNat 64 a.cmapWord ∧ a.sameMemory t ∧
       next R.FAB_CMAP_ADDR F.FAB_CMAP_ADDR_WORD t)) ∧
    (∀ u, s.tileOk u = true → let a := s.accessed true
      let port (i : Option Word → Instr) (ka : Nat) (fa : Fld) (key : Nat) (bank : Nat) (kr : Nat) (act rej : Fld) : Prop :=
        let next (t : State) : Prop := t.rf ka fa = (a.rf ka fa + 1) % 2 ^ fa.width
        let busy := a.running = true ∧ 8 * a.rf ka fa / bank = a.rf kr act
        (a.running = false ∨ a.admits = true →
          (¬ busy → Completes (exec (i (some v)) s) fun t => next t ∧ t.bytes key 8 = leBytes 8 v.toNat ∧ a.sameRegsBut t (ka :: recRegs)) ∧
          (busy → Completes (exec (i (some v)) s) fun t => next t ∧ t.mem = a.mem ∧ t.rf kr rej = a.plus kr rej 1)) ∧
        Completes (exec (i none) s) fun t => next t ∧ t.mem = a.mem ∧ t.chip.readData = BitVec.ofNat 64 (a.fixedWord key)
      port (.wpaCbDataAccess u) (R.WPA_CB_ADDR u) F.WPA_CB_ADDR_ADDR (a.cbPort u) 0x20000 (R.WPA_CB_STAT u) F.WPA_CB_STAT_ACTIVE
          F.WPA_CB_STAT_WR_REJECT ∧
        port (.sfuTblDataAccess u) (R.SFU_TBL_ADDR u) F.SFU_TBL_ADDR_ADDR (a.sfuPort u) 0x8000 (R.SFU_STAT u) F.SFU_STAT_ACTIVE
          F.SFU_STAT_WR_REJECT) ∧
    (let rejected (a t : State) : Prop := a.sameRegsBut t [R.MOD_TW_REJECT_CNT] ∧ a.sameMemory t ∧
       t.rf R.MOD_TW_REJECT_CNT F.MOD_TW_REJECT_CNT_COUNT = a.plus R.MOD_TW_REJECT_CNT F.MOD_TW_REJECT_CNT_COUNT 1
     let chosen (a : State) (k stat : Nat) (act pend : Fld) (t : State) : Prop := t.reg k = v ∧ t.rb stat pend = (v.toNat % 2 != a.rf stat act) ∧
       t.rf stat act = a.rf stat act ∧ a.sameRegsBut t [k, stat] ∧ a.sameMemory t
     (let a := s.accessed false
      a.running = false ∨ a.admits = true → Completes (exec (.spkSelWrite v) s) (fun t =>
        if twAgree v then chosen a R.SPK_SEL R.SPK_STAT F.SPK_STAT_ACTIVE F.SPK_STAT_PENDING t else rejected a t)) ∧
     ∀ u, s.tileOk u = true → let a := s.accessed true
      a.running = false ∨ a.admits = true →
      Completes (exec (.wpaCbSelWrite u v) s) (fun t =>
        if twAgree v then chosen a (R.WPA_CB_SEL u) (R.WPA_CB_STAT u) F.WPA_CB_STAT_ACTIVE F.WPA_CB_STAT_PENDING t else rejected a t) ∧
      Completes (exec (.sfuTblSelWrite u v) s) (fun t =>
        if twAgree v then chosen a (R.SFU_TBL_SEL u) (R.SFU_STAT u) F.SFU_STAT_ACTIVE F.SFU_STAT_PENDING t else rejected a t) ∧
      Completes (exec (.grnTblSelWrite u v) s) (fun t =>
        if twAgree v = false then rejected a t
        else if a.rb (R.GRN_STAT u) (grnFilled (v.toNat % 2)) then
          chosen a (R.GRN_TBL_SEL u) (R.GRN_STAT u) F.GRN_STAT_ACTIVE F.GRN_STAT_PENDING t
        else t.reg (R.GRN_TBL_SEL u) = a.reg (R.GRN_TBL_SEL u) ∧
          t.rb (R.GRN_STAT u) F.GRN_STAT_PENDING = a.rb (R.GRN_STAT u) F.GRN_STAT_PENDING ∧
          t.rf (R.GRN_STAT u) F.GRN_STAT_SEL_REJECT = a.plus (R.GRN_STAT u) F.GRN_STAT_SEL_REJECT 1)))

/-- The host's small services, each command the next of its queue. TEL_READ writes the slack telemetry, or the registers asked for as they read (each
up to the first data port, which moves on as it is read), into the host's buffer; out of bounds it is refused. CAL_WRITE keeps the page as the newest of the two vault copies beside
the newest before it, answers how many values are clamped, and applies a valid page at once where APPLY is 1, else at the next boot. DBG_BREAK_SET arms or clears
the break it names. -/
def Obligations.HostServices : Prop :=
  ∀ (s : State) (c : Cmd), s.mayStart c = true →
    (telOk c = true → c.w2.toNat % 256 = 0 → Completes (exec (.telRead c) s) fun t =>
      s.answered t c 0 0 0 ∧ t.hostBytes c.w3.toNat 2064 = s.slackTelemetry ∧ t.regs = s.regs ∧ t.mem = s.mem) ∧
    (telOk c = true → c.w2.toNat % 256 = 1 → Completes (exec (.telRead c) s) fun t => s.answered t c 0 0 0 ∧ t.mem = s.mem ∧
      s.sameRegsBut t [R.SPK_TBL_ADDR, R.TIR_CLASS_ADDR, R.FAB_CMAP_ADDR] ∧
      ∀ i, 8 * i < c.w4.toNat → (∀ j < i, ∀ k ∈ [R.SPK_TBL_DATA, R.TIR_CLASS_DATA, R.FAB_CMAP_DATA], c.w5.toNat + 8 * j ≠ k) →
        t.hostBytes (c.w3.toNat + 8 * i) 8 = leBytes 8 (s.readReg (c.w5.toNat + 8 * i)).toNat) ∧
    (telOk c = false → Completes (exec (.telRead c) s) fun t => s.answered t c 0x0103 0 0 ∧ t.host = s.host ∧ t.regs = s.regs) ∧
    Completes (exec (.calWrite c) s) (fun t => s.answered t c 0 (calClamped c.payload) 0 ∧
      (∃ n, (n, c.payload) ∈ t.chip.calCopies ∧ ∀ x ∈ s.chip.calCopies, x.1 < n) ∧ t.chip.calCopies.length ≤ 2 ∧
      (∀ x ∈ s.chip.calCopies, (∀ y ∈ s.chip.calCopies, y.1 < x.1 ∨ y = x) → x ∈ t.chip.calCopies) ∧
      s.sameRegsBut t ([R.CAL_STAT] ++ (List.range 512).map R.CAL_USER ++ (List.range 512).map R.CAL_EFFECTIVE ++ (List.range 73).map R.CLK_VF) ∧
      (c.w2.toNat.testBit 0 = false → t.rb R.CAL_STAT F.CAL_STAT_USER_PENDING = true) ∧
      (c.w2.toNat.testBit 0 = true → t.rb R.CAL_STAT F.CAL_STAT_USER_PENDING = false ∧ (calValid c.payload = true →
        t.rf R.CAL_STAT F.CAL_STAT_CLAMPED = calClamped c.payload % 2 ^ F.CAL_STAT_CLAMPED.width ∧
        ∀ w < 512, (t.reg (R.CAL_USER w)).toNat = field c.payload (8 * w) 8 % 2 ^ 64))) ∧
    (let w := c.w2.toNat
     let u := w % 512
     let k := w / 512 % 4
     Completes (exec (.dbgBreakSet c) s) fun t => s.answered t c 0 0 0 ∧ t.rb (R.STR_CTL u) F.STR_CTL_BRK_DOMAIN = w.testBit 12 ∧
      (w.testBit 11 = false → t.rb (R.STR_BRK_COUNT u k) F.STR_BRK_COUNT_EN = !w.testBit 13 ∧
        t.rf (R.STR_BRK_COUNT u k) F.STR_BRK_COUNT_COUNT = c.w3.toNat % 2 ^ 63) ∧
      (w.testBit 11 = true → t.rb (R.STR_BRK_TAG u k) F.STR_BRK_TAG_EN = !w.testBit 13 ∧
        t.rf (R.STR_BRK_TAG u k) F.STR_BRK_TAG_TAG = c.w3.toNat % 64 ∧
        t.rf (R.STR_BRK_TAG u k) F.STR_BRK_TAG_AFTER = c.w3.toNat / 65536 % 65536 % 2 ^ F.STR_BRK_TAG_AFTER.width ∧ ((t.tile u).stream k).tagSeen = 0) ∧
      s.sameRegsBut t [R.STR_CTL u, R.STR_BRK_COUNT u k, R.STR_BRK_TAG u k])

/-- An instruction that names an address with space code 6 or of a tile that the part does not have stops before it issues, here DMOV and
KV_COMMIT with an address of this module: it has no effect, it is not counted, the program counter stays, and the stream issues nothing more. The fault
and the stream are recorded; of the chip's record only the in-band interrupts that its alert raises can grow. -/
def Obligations.AddressFaults : Prop :=
  ∀ s : State,
    let halted (u : Nat) (t : State) : Prop := t.mem = s.mem ∧ t.err = s.err ∧ t.poison = s.poison ∧ t.full = s.full ∧
      t.chip = { s.chip with ibis := t.chip.ibis } ∧
      s.sameRegsBut t [R.STR_STAT u, R.MOD_ALERT, R.HIF_STAT] ∧ t.rb (R.STR_STAT u) F.STR_STAT_ADDR_FAULT = true ∧
      t.rf (R.STR_STAT u) F.STR_STAT_FAULT_STREAM = 1 ∧ t.canIssue (.tile u 1) = false ∧ ((t.tile u).stream 1).eof = false
    (∀ a : DmovArgs, s.fresh (.tile a.tile 1) = true → (Instr.dmov a).wf = true →
      let n := 64 * a.len
      let k := if a.step then n * s.cnt (.tile a.tile 1) a.ctr else 0
      s.badAddr (gAdd a.g k) = true → gMod (gAdd a.g k) = s.position → a.wm < 2 →
      (a.dir = false → s.readReady a.tile a.gm ((64 * a.loc + k) % 0x180000) n = true) →
      Completes (exec (.dmov a) s) (halted a.tile)) ∧
    (∀ a : KvArgs, s.fresh (.tile a.tile 1) = true → (Instr.kvCommit a).wf = true → a.ntf = true → s.badAddr a.g = true →
      gMod a.g = s.position → s.readReady a.tile a.gm (64 * a.path) 64 = true →
      (∀ bs, ∀ x ∈ s.kvCopies a bs, s.needsRefetch 1 a.tile x.1 64 = false) → Completes (exec (.kvCommit a) s) (halted a.tile))

/-! ### Power and sensors -/

/-- Each command the next of its queue: PWR_VOTE makes the domain ACTIVE with the vote placed, or is refused with its reason where the domain would have to be brought up; at the
manager of a parked job a vote of slot 6 unparks it. PWR_UNVOTE takes the vote back, and the last one makes a drop due; the job's own vote parks the job that runs, and the command waits while a capture is open (the
model's choice, log entry 61). What they may not name is PARAM_RANGE. While there is power, POWER_DROP and DROP_RECHECK enter the target state, or record who refuses, and
IDLE_ENTRY, WAKE and WAKE_HOLD_EXPIRY move a domain and firmware's votes; without it these five do nothing. -/
def Obligations.PowerDomains : Prop :=
  ∀ s : State,
    (∀ c : Cmd, let d := (voteArgs c).1
      let n := (voteArgs c).2
      s.mayStart c = true →
      let refused (i : Instr) : Prop := Completes (exec i s) fun t => s.answered t c 0x0103 0 0 ∧ t.regs = s.regs
      (voteRange d n = false → refused (.pwrVote c) ∧ ((n = 6 → s.chip.capture = none) → refused (.pwrUnvote c))) ∧
      (voteRange d n = true →
      ((s.domState d < 2 → s.voteRefused d = none) →
        ((n = 6 → s.isManager = true ∧ s.chip.parked = false) → Completes (exec (.pwrVote c) s) fun t => s.answered t c 0 0 0 ∧
          t.domState d = 3 ∧ (t.votes d).testBit n = true ∧ (d = 2 → t.domState 3 = 3) ∧
          s.sameRegsBut t ([R.PWR_STATE, R.PWR_VOTE d] ++ if 2 ≤ s.domState d then [] else (domPorts d).map R.FAB_PORT_STAT ++
            if d = 2 then [R.CLK_FMAX, R.CLK_CUR, R.CLK_STEP] ++ s.tileList.map R.SFU_STAT else [])) ∧
        (n = 6 → s.isManager = false → refused (.pwrVote c)) ∧
        (n = 6 → s.isManager = true → s.chip.parked = true → s.chip.clap = none → Completes (exec (.pwrVote c) s) fun t =>
          s.answered t c 0 0 0 ∧ t.chip.parked = false ∧ ∃ k, t.chip.clap = some k ∧ k.sub = 1)) ∧
      (∀ w, s.domState d < 2 → s.voteRefused d = some w → Completes (exec (.pwrVote c) s) fun t => s.answered t c 0x0501 w 0 ∧
        t.rb R.PWR_STAT F.PWR_STAT_VOTE_REFUSED = true ∧ s.sameRegsBut t [R.PWR_STAT]) ∧
      (n ≠ 6 → (s.votes d).testBit n = true → Completes (exec (.pwrUnvote c) s) fun t => s.answered t c 0 0 0 ∧
        (t.votes d).testBit n = false ∧ (t.votes d = 0 → d ∈ t.chip.dropDue) ∧ s.sameRegsBut t [R.PWR_VOTE d]) ∧
      (n = 6 → s.chip.capture ≠ none → exec (.pwrUnvote c) s = .next s) ∧
      ((s.votes d).testBit n = false → (n = 6 → s.chip.capture = none) → refused (.pwrUnvote c)) ∧
      (n = 6 → (s.votes d).testBit n = true → s.chip.capture = none →
        (s.isManager = false ∨ (∃ x ∈ s.chip.slots, x.ended = false ∧ x.drained = false) → refused (.pwrUnvote c)) ∧
        (s.isManager = true → (∀ x ∈ s.chip.slots, x.ended = true ∨ x.drained = true) →
          (s.running = true → Completes (exec (.pwrUnvote c) s) fun t => let f := s.announceFrame (s.frame + 1)
            t.chip.capture = some ⟨f, true, some c⟩ ∧ t.chip.tokensOut = s.chip.tokensOut ++ [⟨3, 3, s.position, s.chip.clapSeq, f⟩] ∧
              s.sameRegsBut t [R.MOD_ALERT, R.HIF_STAT] ∧ t.mem = s.mem) ∧
          (s.running = false → Completes (exec (.pwrUnvote c) s) fun t => s.answered t c 0 0 0 ∧
            (t.votes d).testBit n = false ∧ s.sameRegsBut t [R.PWR_VOTE d]))))) ∧
    (s.powered = false → ∀ d src port, d < 10 → src < 4 → port < 14 →
      ∀ i ∈ [Instr.powerDrop d, .dropRecheck d, .idleEntry d, .wake src port, .wakeHoldExpiry], exec i s = .next s) ∧
    (s.powered = true →
    (∀ d, d < 10 → s.votes d = 0 → s.chip.dropDue.contains d = true →
      (s.refuser d = none → Completes (exec (.powerDrop d) s) fun t => t.domState d = s.dropTarget d ∧ d ∉ t.chip.dropDue) ∧
      (∀ w, s.refuser d = some w → s.chip.refused.contains d = false → Completes (exec (.powerDrop d) s) fun t =>
        t.domState d = s.domState d ∧ d ∈ t.chip.refused ∧ t.rf R.PWR_REFUSE_LAST F.PWR_REFUSE_LAST_WHO = w ∧
          t.rf R.PWR_REFUSE_LAST F.PWR_REFUSE_LAST_DOMAIN = d ∧
          t.rf R.PWR_REFUSE_CNT F.PWR_REFUSE_CNT_COUNT = s.plus R.PWR_REFUSE_CNT F.PWR_REFUSE_CNT_COUNT 1)) ∧
    (∀ d, d < 10 → s.votes d ≠ 0 ∨ s.chip.dropDue.contains d = false → exec (.powerDrop d) s = .next s) ∧
    (∀ d, d < 10 → s.votes d = 0 → s.chip.refused.contains d = true →
      (s.refuser d = none → Completes (exec (.dropRecheck d) s) fun t => t.domState d = s.dropTarget d ∧ d ∉ t.chip.refused) ∧
      (s.refuser d ≠ none → Completes (exec (.dropRecheck d) s) fun t => t.regs = s.regs ∧ s.sameMemory t ∧ d ∈ t.chip.refused)) ∧
    (∀ d, d < 10 → s.votes d ≠ 0 → s.domState d = 3 → (domStates d).contains 2 = true →
      (s.domBusy d = false → Completes (exec (.idleEntry d) s) fun t =>
        t.domState d = 2 ∧ s.sameRegsBut t [R.PWR_STATE] ∧ s.sameMemory t) ∧
      (s.domBusy d = true → exec (.idleEntry d) s = .next s)) ∧
    (∀ src port, src < 4 → port < 14 →
      ((src = 0 → s.rb R.PWR_CTL F.PWR_CTL_CUE_EN = true) → (src = 1 → s.domState (portDom port) = 1) →
        (Completes (exec (.wake src port) s) fun t => t.rb R.PWR_WAKE_SRC ⟨src, src⟩ = true) ∧
        ∀ d, d < 10 → s.domState d < 2 → s.chip.heldDown.contains d = false → Completes (exec (.wake src port) s) fun t => t.domState d = 3 ∧
          (t.votes d).testBit 1 = true ∧ t.chip.wakeUntil = s.chip.ns + s.rf R.PWR_CTL F.PWR_CTL_WAKE_HOLD * 1000000) ∧
      ((src = 0 ∧ s.rb R.PWR_CTL F.PWR_CTL_CUE_EN = false) ∨ (src = 1 ∧ s.domState (portDom port) ≠ 1) →
        exec (.wake src port) s = .next s)) ∧
    (s.chip.wakeUntil ≠ 0 → Completes (exec .wakeHoldExpiry s) fun t => t.chip.wakeUntil = 0 ∧ s.chip.wakeUntil ≤ t.chip.ns ∧
      (∀ d < 10, (t.votes d).testBit 1 = false) ∧ s.sameMemory t))

/-- While there is power: POWER_SAMPLE in range enters the samples and shows the voltage; one above PEAK puts the module into recovery.
THERMAL_SAMPLE in range of a sensor that has not read before is taken; at 100 °C or more with its offset the throttle reports. Without power
neither does anything. -/
def Obligations.Samples : Prop :=
  ∀ s : State,
    (s.powered = false → ∀ w v i q, i < 72 → exec (.powerSample w v) s = .next s ∧ exec (.thermalSample i q) s = .next s) ∧
    (s.powered = true →
    (∀ w v, w ≤ 2500 → 4000 ≤ v → v ≤ 6600 → s.chip.powerSensor.failed = false → 0 ≤ s.chip.powerSensor.last →
      s.chip.powerSensor.last ≤ 2500 → Completes (exec (.powerSample w v) s) fun t =>
        t.rf R.PWR_IN F.PWR_IN_VOLTS = v ∧ t.chip.samples.head? = some w ∧ t.chip.powerSensor.last = w ∧
          (s.rf R.PWR_LIMIT F.PWR_LIMIT_PEAK < w → t.rb R.PWR_STAT F.PWR_STAT_RECOVERY = true ∧
            t.rb R.PWR_STAT F.PWR_STAT_LIMIT_HIT = true ∧ t.rb R.MOD_ALERT F.MOD_ALERT_LIMIT = true)) ∧
    (∀ i v, i < 72 → (s.sensor i).seen = false → (s.sensor i).failed = false → -160 ≤ v → v ≤ 600 →
      Completes (exec (.thermalSample i v) s) fun t => (t.sensor i).last = v ∧ (t.sensor i).seen = true ∧
        (∀ j, j ≠ i → t.sensor j = s.sensor j) ∧
        (400 ≤ v + toSigned 8 (s.calByte (0x300 + i)) → t.rb R.PWR_STAT F.PWR_STAT_THERMAL = true ∧
          t.rb R.MOD_ALERT F.MOD_ALERT_THERMAL = true)))

/-! ### Mesh and fabric -/

/-- The hop of the one flit in the mesh, in a frame whose tick is not yet known. One whose cycle may already belong to the next frame waits. On
the way it is at the next router three cycles after it passes its output: an unscheduled one passes in the cycle in which the output serves it; a
scheduled one in its own, or it is demoted and counted, as a miss where its slot is not marked. At its tile a write's 64 bytes land.
HELD_WRITE_LAND of a tile's one waiting write of a line: it lands once its granules are empty, and waits while one is full. -/
def Obligations.FlitsMoveAndLand : Prop :=
  (∀ (s : State) (f : Flit), s.chip.flits = [f] → s.meshHeld = false → s.tickAt = none → f.inPort < 5 → f.wait = false →
    let q := s.outPort f
    let o := 8 * f.cur + q
    (s.undecided f (if f.sched then f.cyc else s.hopAt f) = true → exec (.flitHop f.id) s = .next s) ∧
    (f.cur ≠ f.dstTile →
      (f.sched = false → s.undecided f (s.hopAt f) = false → Completes (exec (.flitHop f.id) s) fun t => s.sameMemory t ∧ t.regs = s.regs ∧
        f.cyc ≤ s.hopAt f ∧ (o, s.hopAt f) ∈ t.chip.taken ∧ ∃ b, t.chip.flits =
          [{ f with cur := s.nextTile f.cur q, inPort := farSide q, ce := b, cyc := s.hopAt f + 3 }]) ∧
      (f.sched = true → s.undecided f f.cyc = false →
        let demoted (miss : Nat) (t : State) : Prop := s.sameMemory t ∧ t.chip.flits = [{ f with sched := false, demoted := true, cyc := f.cyc + 1 }] ∧
          t.rf R.SPK_MISS_CNT F.SPK_MISS_CNT_MISS = s.plus R.SPK_MISS_CNT F.SPK_MISS_CNT_MISS miss ∧
          t.rf R.MSH_DEMOTE_CNT F.MSH_DEMOTE_CNT_DEMOTED = s.plus R.MSH_DEMOTE_CNT F.MSH_DEMOTE_CNT_DEMOTED 1 ∧
          s.sameRegsBut t [R.SPK_MISS_CNT, R.MSH_DEMOTE_CNT, R.MSH_DEMOTE_LAST]
        (s.openSlots f f.cyc = true → Completes (exec (.flitHop f.id) s) (demoted 0)) ∧
        (s.openSlots f f.cyc = false → s.slotMarked o f.cyc = false → Completes (exec (.flitHop f.id) s) (demoted 1)) ∧
        (s.openSlots f f.cyc = false → s.slotMarked o f.cyc = true → (o, f.cyc) ∉ s.chip.taken →
          Completes (exec (.flitHop f.id) s) fun t => s.sameMemory t ∧ t.regs = s.regs ∧
            t.chip.flits = [{ f with cur := s.nextTile f.cur q, inPort := farSide q, cyc := f.cyc + 3 }]))) ∧
    (f.cur = f.dstTile → f.dstPort = none → f.sched = false → f.kind = 0 → gSpace f.g = 0 → f.wm = 0 → f.data.length = 64 →
      gOff f.g % 64 = 0 → s.landingFull f.cur = false → s.undecided f (s.hopAt f) = false →
      Completes (exec (.flitHop f.id) s) fun t => t.chip.flits = [] ∧ t.holds f.cur (gOff f.g % 0x180000) f.data)) ∧
  (∀ (s : State) (u : Nat) (l : Landing), s.tileOk u = true → s.meshHeld = false → (s.tile u).landing = [l] → l.data.length = 64 →
    l.off % 64 = 0 → let gs := granulesOf (l.off % 0x180000) 64
    ((∀ g ∈ gs, s.fullNow u g = false) → Completes (exec (.heldWriteLand u) s) fun t =>
      (t.tile u).landing = [] ∧ t.holds u (l.off % 0x180000) l.data) ∧
    (∀ g ∈ gs, s.fullNow u g = true → exec (.heldWriteLand u) s = .next s))

/-- A packet that arrives at a port that is up: with a good CRC and a key the port allows, a scheduled one waits in the buffer for its release position;
with a bad CRC, over an uncorrectable codeword, or with a key that is not allowed, it is dropped and counted. PACKET_RELEASE takes the packet
whose position comes first: a job's write for this module puts its payload into the mesh at the port's attachment tile, a flit for every 64
bytes; a packet of key 0 that is no message of the model's form (log entry 70) goes to the management and does no more. COMPLETION frees its
transfer's tracker. -/
def Obligations.PacketsArrive : Prop :=
  ∀ (s : State) (p : Nat) (k : Packet), p < 12 → s.portUp p = true →
    (s.keyAllowed p k.pkey = true → k.ptype < 5 → k.hops ≠ 15 → k.sched = true → (s.port p).rxRoom k = true →
      Completes (exec (.fabricPacketArrive p k (packetCrc k) 0) s) fun t =>
        (t.port p).rx = (s.port p).rx ++ [⟨s.releasePos p k, false, k⟩] ∧ (t.port p).lastRx = k.lseq ∧ t.mem = s.mem) ∧
    (∀ crc ue, crc ≠ packetCrc k → Completes (exec (.fabricPacketArrive p k crc ue) s) fun t => (t.port p).rx = (s.port p).rx ∧ s.sameMemory t ∧
      t.rf (R.FAB_PORT_DROP p) F.FAB_PORT_DROP_CRC_FAIL = s.plus (R.FAB_PORT_DROP p) F.FAB_PORT_DROP_CRC_FAIL 1 ∧
      t.rf (R.FAB_PORT_DROP p) F.FAB_PORT_DROP_FEC_UE = s.plus (R.FAB_PORT_DROP p) F.FAB_PORT_DROP_FEC_UE ue ∧
      s.sameRegsBut t [R.FAB_PORT_DROP p, R.PWR_STATE] ∧ (t.port p).losses ≠ []) ∧
    (∀ ue, ue ≠ 0 → Completes (exec (.fabricPacketArrive p k (packetCrc k) ue) s) fun t =>
      (t.port p).rx = (s.port p).rx ∧ s.sameMemory t ∧
      t.rf (R.FAB_PORT_DROP p) F.FAB_PORT_DROP_FEC_UE = s.plus (R.FAB_PORT_DROP p) F.FAB_PORT_DROP_FEC_UE ue ∧
      s.sameRegsBut t [R.FAB_PORT_DROP p, R.PWR_STATE] ∧ (t.port p).losses ≠ [] ∧
      t.rf (R.FAB_PORT_DROP p) F.FAB_PORT_DROP_CRC_FAIL = s.rf (R.FAB_PORT_DROP p) F.FAB_PORT_DROP_CRC_FAIL) ∧
    (s.keyAllowed p k.pkey = false → Completes (exec (.fabricPacketArrive p k (packetCrc k) 0) s) fun t =>
      (t.port p).rx = (s.port p).rx ∧ t.mem = s.mem ∧
        t.rf (R.FAB_PORT_DROP p) F.FAB_PORT_DROP_PKEY_DROP = s.plus (R.FAB_PORT_DROP p) F.FAB_PORT_DROP_PKEY_DROP 1) ∧
    (∀ e, firstRelease ((s.port p).rx.filter fun e => !s.mustWait p e.pkt) = some e → s.meshHeld = false → s.releaseCyc e.pos ≤ s.chip.fcyc →
      s.shardOf p e.pkt = none → gMod e.pkt.dst = s.position →
      (e.pkt.pkey ≠ 0 → e.pkt.ptype = 0 → s.badAddr e.pkt.dst = false → gSpace e.pkt.dst ≠ 7 →
        Completes (exec (.packetRelease p) s) fun t => (t.port p).rx = (s.port p).rx.erase e ∧ t.mem = s.mem ∧
          ∃ fs : List Flit, t.chip.flits = s.chip.flits ++ fs ∧ fs.map (·.data) = pieces 64 e.pkt.payload ∧
            ∀ f ∈ fs, f.cur = s.attach p ∧ f.dstTile = gTile e.pkt.dst ∧ f.dstPort = none ∧ f.inbound = true) ∧
      (e.pkt.pkey = 0 → e.pkt.ptype ≠ 0 → mgmtMessage e.pkt = none → Completes (exec (.packetRelease p) s) fun t => (t.port p).rx = (s.port p).rx.erase e ∧
        t.chip.mgmtIn = s.chip.mgmtIn ++ [e.pkt] ∧ t.chip.flits = s.chip.flits ∧ t.regs = s.regs ∧ s.sameMemory t)) ∧
    (∀ x, s.keyAllowed p k.pkey = true → k.ptype = 3 → k.pkey ≠ 0 → k.sched = false → s.meshHeld = false →
      gMod k.dst = s.position → s.chip.xfers.find? (fun x => x.tracked && x.ttag == k.ttag && x.dstMod == k.srcMod) = some x →
      Completes (exec (.completion p k) s) fun t => ∀ y ∈ t.chip.xfers, y.id ≠ x.id)

/-- CONTROL_SYMBOL_RECEIVE: this end's own symbol goes out; of an intact one the credit returned since the last is added, acknowledged packets leave
the retransmit buffer, packets reported lost are resent and counted; one with a bad CRC is else ignored. ECN_RATE_PERIOD raises a limit that no
mark held down, keeps none while EN is 0, and counts only what is sent from the new period on. CMAP_EPOCH begins a new set of counts at the next millisecond. -/
def Obligations.LinksAndRates : Prop :=
  ∀ s : State,
    (∀ p (c : CtlSym), p < 12 → s.portUp p = true → Completes (exec (.controlSymbolReceive p c) s) fun t =>
      (t.port p).symbol = symbolBytes (s.symbolOut p) ∧
      (symbolIntact c = false → (t.port p).credit = (s.port p).credit ∧ (t.port p).tx = (s.port p).tx ∧ t.regs = s.regs ∧ s.sameMemory t ∧
        (∀ q, q ≠ p → t.port q = s.port q)) ∧
      (symbolIntact c = true → c.token.kind = 0 → c.lossCount = 0 → (s.port p).queue = [] →
        (t.port p).credit = (s.port p).credit + (c.credit + 2 ^ 32 - (s.port p).creditIn) % 2 ^ 32 ∧ (t.port p).creditIn = c.credit ∧
          (t.port p).tx = (s.port p).tx.filter (fun k => !lseqIn (c.ack + 32769) 32768 k.lseq) ∧ t.regs = s.regs ∧ s.sameMemory t) ∧
      (symbolIntact c = true → c.token.kind = 0 → c.lossCount ≠ 0 →
        t.rf (R.FAB_RETX_CNT p) F.FAB_RETX_CNT_LOSS_NOTICES = s.plus (R.FAB_RETX_CNT p) F.FAB_RETX_CNT_LOSS_NOTICES 1 ∧
          t.rf (R.FAB_RETX_CNT p) F.FAB_RETX_CNT_RESENT = s.plus (R.FAB_RETX_CNT p) F.FAB_RETX_CNT_RESENT
            ((s.port p).tx.filter fun k => lseqIn c.lossFirst c.lossCount k.lseq).length ∧
          s.sameRegsBut t [R.FAB_RETX_CNT p, R.PWR_STATE] ∧ s.sameMemory t)) ∧
    (s.rb R.FAB_ECN_CTL F.FAB_ECN_CTL_EN = false → Completes (exec .ecnRatePeriod s) fun t => t.chip.rate = [] ∧ t.regs = s.regs ∧ s.sameMemory t) ∧
    (∀ d r, s.rb R.FAB_ECN_CTL F.FAB_ECN_CTL_EN = true → s.chip.rate = [(d, r)] → Completes (exec .ecnRatePeriod s) fun t => t.chip.marked = [] ∧
      t.chip.sent = s.chip.sent.filter (fun x => decide (t.chip.fcyc / 1024 ≤ x.2.1)) ∧
      t.regs = s.regs ∧ s.sameMemory t ∧
      t.chip.rate = [(d, if d ∈ s.chip.marked then r else
        min (64 * s.rf R.FAB_ECN_CTL F.FAB_ECN_CTL_MAX) (r + 64 * s.rf R.FAB_ECN_CTL F.FAB_ECN_CTL_INC))]) ∧
    Completes (exec .cmapEpoch s) (fun t => t.chip.histCount = [] ∧ t.chip.histCycles = 0 ∧ s.chip.histCycles ≤ t.chip.readCycles ∧
      (s.chip.ns / 1000000 + 1) * 1000000 ≤ t.chip.ns ∧ s.sameMemory t ∧ s.sameRegsBut t [R.FAB_CMAP_CTL] ∧
      t.rf R.FAB_CMAP_CTL F.FAB_CMAP_CTL_EPOCH = (s.rf R.FAB_CMAP_CTL F.FAB_CMAP_CTL_EPOCH + 1) % 2 ^ F.FAB_CMAP_CTL_EPOCH.width)

/-- A port's training: PORT_TRAINING_DONE with the neighbour of the manifest and a depth that covers the latency brings it up, at half width
behind two bypassed modules; a wrong neighbour or a depth too small refuses it and closes the switches it stands behind; behind closed
switches it has trained in loopback, or over lane 4; a root port shows its PCIe link. TRAINING_TIMEOUT leaves it down. LANE_SWAP exchanges the
spare where the lane passes the threshold and the latency still fits, on no link through bypassed modules. RETRAIN and PORT_LINK_LOST train it again.
The bypass switches. OPEN_REQ begins the joining sequence: the ports train in loopback, then lane 4 opens and trains, then the opening is requested,
or every switch opens where no port has a good lane 4. A request without an answer is repeated a second later; a BYPASS_OPEN_GRANT opens. BYPASS_CLOSE
closes them, not while a job runs. In the power-up sequence the last port's training opens lane 4 as step 7, and lane 4's last result is step 8. The
module opens nothing in reset, without power or after a fault, and the commands that are register writes act as one does, where the endpoint is served. -/
def Obligations.PortsAndBypass : Prop :=
  (∀ (s : State) (p : Nat), p < 14 →
    let joins : Prop := s.chip.upSeq = none ∨ 8 ≤ s.upStep
    (∀ i : TrainInfo, s.portState p = 1 →
      (s.pcie p = true → Completes (exec (.portTrainingDone p i) s) fun t => t.portState p = 6 ∧ s.sameMemory t ∧
        (s.chip.upSeq = none → s.chip.openWait = false → s.sameRegsBut t [R.FAB_PORT_STAT p])) ∧
      (s.pcie p = false → 8 ≤ p ∨ s.switchesOpen = true →
        (s.nbMatch p i = false → Completes (exec (.portTrainingDone p i) s) fun t => t.portState p = 5 ∧ s.sameMemory t ∧
          t.rb (R.FAB_PORT_STAT p) F.FAB_PORT_STAT_NB_MISMATCH = true ∧ (p < 8 → t.switchesOpen = false)) ∧
        (∀ e, s.nbMatch p i = true → s.nbEntry p i.byp = some e →
          (latCycles i.lat16 + 8 ≤ e.2.2 → (p < 8 → s.chip.upSeq = none ∨ s.chip.upSeq = some 0 ∧ s.upStep = 8) →
            Completes (exec (.portTrainingDone p i) s) fun t => s.sameMemory t ∧
            t.portState p = (if i.byp = 2 then 4 else 3) ∧
            t.rf (R.FAB_LINK_DEPTH p) F.FAB_LINK_DEPTH_DEPTH = e.2.2 % 2 ^ F.FAB_LINK_DEPTH_DEPTH.width ∧
            t.rf (R.FAB_LINK_MEAS p) F.FAB_LINK_MEAS_MEAS = latCycles i.lat16 % 2 ^ F.FAB_LINK_MEAS_MEAS.width) ∧
          (e.2.2 < latCycles i.lat16 + 8 → Completes (exec (.portTrainingDone p i) s) fun t => t.portState p = 5 ∧
            t.rb (R.FAB_PORT_STAT p) F.FAB_PORT_STAT_DEPTH_FAIL = true ∧ (p < 8 → t.switchesOpen = false)))) ∧
      (p < 8 → s.switchesOpen = false → s.lane4Open = false →
        (s.chip.openWait = false → s.chip.upSeq = none → Completes (exec (.portTrainingDone p i) s) fun t => t.portState p = 0 ∧
          p ∈ t.chip.loopback ∧ s.sameRegsBut t [R.FAB_PORT_STAT p, R.FAB_LINK_MEAS p] ∧ s.sameMemory t) ∧
        (s.chip.openWait = true → joins → (∀ q ∈ s.bypassPorts, q = p ∨ q ∈ s.chip.loopback) →
          Completes (exec (.portTrainingDone p i) s) fun t => t.lane4Open = true ∧ t.switchesOpen = false ∧
            ∀ q ∈ s.bypassPorts, t.portState q = 1) ∧
        (s.chip.upSeq = some 0 → s.upStep = 6 → p ∈ s.bypassPorts →
          (∀ q < 14, q ≠ p → s.rb (R.FAB_PORT_CTL q) F.FAB_PORT_CTL_EN = true → s.portState q ≠ 1) →
          Completes (exec (.portTrainingDone p i) s) fun t => t.upStep = 7 ∧ t.lane4Open = true ∧ t.switchesOpen = false)) ∧
      (p ∈ s.bypassPorts → s.switchesOpen = false → s.lane4Open = true →
        (∀ e, s.nbMatch p i = true → s.nbEntry p i.byp = some e →
          (latCycles i.lat16 + 8 ≤ e.2.2 → (∀ q ∈ s.bypassPorts, q ≠ p → ∃ b, (q, b) ∈ s.chip.lane4) → s.isManager = false →
            (s.chip.openWait = true ∧ joins) ∨ (s.chip.upSeq = some 0 ∧ s.upStep = 7 ∧ s.rb R.MOD_BYPASS F.MOD_BYPASS_AUTO = true) →
            Completes (exec (.portTrainingDone p i) s) fun t => t.portState p = 2 ∧ t.chip.grantWait = true ∧
              t.rb R.MOD_BYPASS F.MOD_BYPASS_GRANT_WAIT = true ∧ t.switchesOpen = false ∧
              (s.chip.upSeq = some 0 → s.upStep = 7 → t.upStep = 8)) ∧
          (e.2.2 < latCycles i.lat16 + 8 → Completes (exec (.portTrainingDone p i) s) fun t => t.portState p = 5 ∧ t.lane4Open = false ∧
            t.switchesOpen = false ∧ t.rb (R.FAB_PORT_STAT p) F.FAB_PORT_STAT_DEPTH_FAIL = true)) ∧
        (s.nbMatch p i = false → Completes (exec (.portTrainingDone p i) s) fun t => t.portState p = 5 ∧ t.lane4Open = false ∧
          t.switchesOpen = false ∧ t.rb (R.FAB_PORT_STAT p) F.FAB_PORT_STAT_NB_MISMATCH = true))) ∧
    (s.portState p = 1 → Completes (exec (.trainingTimeout p) s) fun t => s.sameMemory t ∧
      t.rb (R.FAB_PORT_STAT p) F.FAB_PORT_STAT_TIMEOUT = true ∧
      (8 ≤ p ∨ s.switchesOpen = true → t.portState p = 0 ∧ (p < 8 → t.switchesOpen = false))) ∧
    (∀ lane (m : LaneMeasure), s.portUp p = true → s.rb (R.FAB_PORT_CTL p) F.FAB_PORT_CTL_SPARE_EN = true → lane ≤ 4 →
      s.rf (R.FAB_PORT_STAT p) F.FAB_PORT_STAT_SPARE_LANE ≠ lane →
      (s.passesSwap m.corrected m.symbols = true → latCycles m.lat16 + 8 ≤ s.rf (R.FAB_LINK_DEPTH p) F.FAB_LINK_DEPTH_DEPTH →
        (p < 8 → s.bypassed p = 0) → Completes (exec (.laneSwap p lane m) s) fun t =>
        t.rb (R.FAB_PORT_STAT p) F.FAB_PORT_STAT_LANE_SWAPPED = true ∧ t.rf (R.FAB_PORT_STAT p) F.FAB_PORT_STAT_SPARE_LANE = lane ∧
          t.portState p = s.portState p ∧ s.sameRegsBut t [R.FAB_PORT_STAT p, R.FAB_LINK_MEAS p] ∧ s.sameMemory t) ∧
      (s.passesSwap m.corrected m.symbols = false ∨ s.rf (R.FAB_LINK_DEPTH p) F.FAB_LINK_DEPTH_DEPTH < latCycles m.lat16 + 8 ∨
        (p < 8 ∧ s.bypassed p ≠ 0) → exec (.laneSwap p lane m) s = .next s)) ∧
    (s.served = false → exec (.retrain p) s = .next s) ∧
    (s.served = true → let a := s.accessed false
      (a.running = false → a.rb (R.FAB_PORT_CTL p) F.FAB_PORT_CTL_EN = true → Completes (exec (.retrain p) s) fun t => t.portState p = 1 ∧
        a.sameRegsBut t [R.FAB_PORT_STAT p, R.PWR_STATE] ∧ a.sameMemory t) ∧
      (a.running = true → a.admits = true → Completes (exec (.retrain p) s) fun t => a.sameRegsBut t recRegs ∧ t.mem = a.mem)) ∧
    (s.rb (R.FAB_PORT_CTL p) F.FAB_PORT_CTL_EN = true → s.portUp p = true →
      Completes (exec (.portLinkLost p) s) fun t => t.portState p = 1 ∧ s.sameRegsBut t [R.FAB_PORT_STAT p, R.PWR_STATE] ∧ s.sameMemory t) ∧
    (s.portState p = 6 → s.chip.load = none → Completes (exec (.portLinkLost p) s) fun t => t.portState p = 0 ∧
      s.sameRegsBut t [R.FAB_PORT_STAT p] ∧ s.sameMemory t)) ∧
  (∀ s : State,
    (s.served = false → exec .openReq s = .next s ∧ exec .bypassClose s = .next s) ∧
    (s.served = true → let a := s.accessed false
      (a.running = false ∨ a.admits = true →
        (a.mayOpen = true → a.switchesOpen = false → a.noLane4 = true → a.chip.upSeq = none ∨ a.bypassPorts ≠ [] →
          Completes (exec .openReq s) fun t => t.switchesOpen = true ∧
          t.chip.grantWait = false ∧ t.mem = a.mem ∧ ∀ p ∈ a.bypassPorts, t.portState p = 1) ∧
        (a.mayOpen = true → a.switchesOpen = false → a.noLane4 = false → a.chip.grantWait = false → a.lane4Open = false →
          a.chip.upSeq = none ∨ 8 ≤ a.upStep →
          ((∀ p ∈ a.bypassPorts, p ∈ a.chip.loopback) → Completes (exec .openReq s) fun t => t.lane4Open = true ∧ t.switchesOpen = false ∧
            t.mem = a.mem ∧ ∀ p ∈ a.bypassPorts, t.portState p = 1) ∧
          ((∃ p ∈ a.bypassPorts, p ∉ a.chip.loopback) → Completes (exec .openReq s) fun t => t.chip.openWait = true ∧
            t.lane4Open = false ∧ t.switchesOpen = false ∧ t.mem = a.mem ∧
            ∀ p ∈ a.bypassPorts, p ∉ a.chip.loopback → t.portState p = 1)) ∧
        (a.mayOpen = false ∨ a.switchesOpen = true → Completes (exec .openReq s) fun t => a.sameRegsBut t recRegs ∧ t.mem = a.mem)) ∧
      (a.running = false → Completes (exec .bypassClose s) fun t => t.switchesOpen = false ∧ t.lane4Open = false ∧
        ∀ p < 8, t.portState p = if a.portState p = 5 then 5 else 0) ∧
      (a.running = true → a.admits = true → Completes (exec .bypassClose s) fun t => a.sameRegsBut t recRegs ∧ t.mem = a.mem)) ∧
    (s.mayOpen = true → s.chip.grantWait = true →
      (s.chip.upSeq = none ∨ s.bypassPorts ≠ [] → Completes (exec (.bypassOpenGrant true) s) fun t => t.switchesOpen = true ∧
        t.chip.grantWait = false ∧ ∀ p ∈ s.bypassPorts, t.portState p = 1) ∧
      (s.isManager = false ∨ s.running = true → Completes (exec .bypassGrantRetry s) fun t =>
        s.chip.ns + 1000000000 ≤ t.chip.ns ∧ t.chip.grantWait = true ∧ s.sameMemory t)) ∧
    (exec (.bypassOpenGrant false) s = .next s) ∧
    (s.mayOpen = false → exec (.bypassOpenGrant true) s = .next s ∧ exec .bypassGrantRetry s = .next s))

/-! ### The module -/

/-- POWER_ON boots the preferred image, else the other, else the vault's, and where RESET_N is released the power-up steps follow; without a good
image the module stays at step 1. POWER_FAIL loses every memory and register but PREFER and the manifest's role, and keeps the vault. RESET_ASSERT
keeps the memories, the class map apart, and of the registers what no reset clears (where the maps in effect are those a reset puts).
RESET_RELEASE runs steps 3 to 6 and the enabled ports train; a step that fails stops there; before step 2 and while a trip still holds it
starts nothing, nor for a main group that a fault took down and no RESET_N since. A main-group rail fault and a
thermal trip take the main group down with their mark; a standby rail fault is a power failure. -/
def Obligations.PowerAndReset : Prop :=
  ∀ s : State,
    (let recorded : Prop := (∀ m, s.chip.retMaps = some m → m.length ≤ 16) ∧ ∀ x ∈ s.chip.retSites, x.1 < 16
     (∀ a b v, s.chip.vin = false → recorded → let p := s.rf R.MOD_BOOT F.MOD_BOOT_PREFER
      let good := fun n : Nat => if n = 0 then a else b
      let booted (n : Nat) (fallback repaired : Bool) (t : State) : Prop := t.chip.vin = true ∧ s.sameMemory t ∧
        t.rf R.MOD_BOOT F.MOD_BOOT_RUNNING = n ∧ t.rb R.MOD_BOOT F.MOD_BOOT_FALLBACK = fallback ∧
        t.rb R.MOD_BOOT F.MOD_BOOT_SPI_REPAIRED = repaired ∧ (s.chip.inReset = true → t.upStep = 2)
      (good p = true ∨ good (1 - p) = true → Completes (exec (.powerOn a b v) s) (booted (if good p then p else 1 - p) (!good p) false)) ∧
      (good p = false → good (1 - p) = false → v = true → Completes (exec (.powerOn a b v) s) fun t => booted 0 true true t ∧
        t.chip.fwA = s.chip.vaultFwA ∧ t.chip.fwB = s.chip.vaultFwA) ∧
      (s.chip.inReset = false → s.chip.releaseWaits = none → good p = true →
        Completes (exec (.powerOn a b v) s) fun t => t.chip.mainUp = true ∧ 6 ≤ t.upStep) ∧
      (good p = false → good (1 - p) = false → v = false → Completes (exec (.powerOn a b v) s) fun t =>
        t.chip.vin = true ∧ t.upStep = 1 ∧ t.rb R.MOD_BOOT F.MOD_BOOT_FALLBACK = true ∧ s.sameMemory t)) ∧
     ∀ n, n = 0 ∨ 3 ≤ n ∧ n ≤ 10 →
      s.needsReset = false → s.chip.vin = true → s.upStep ≠ 1 → s.tripHolds = false → recorded →
        Completes (exec (.resetRelease n) s) fun t => t.chip.inReset = false ∧ t.chip.mainUp = true ∧
          t.rb R.MOD_STAT F.MOD_STAT_WARM = !s.chip.cold ∧
          (3 ≤ n → n ≤ 6 → t.upStep = n - 1 ∧ t.rb R.MOD_STAT F.MOD_STAT_STEP_FAIL = true) ∧
          (n < 3 ∨ 6 < n → (∃ p < 14, s.rb (R.FAB_PORT_CTL p) F.FAB_PORT_CTL_EN = true) → t.upStep = 6 ∧ t.chip.upSeq = some n ∧
            t.rb R.MOD_STAT F.MOD_STAT_STEP_FAIL = false ∧
            ∀ p < 14, s.rb (R.FAB_PORT_CTL p) F.FAB_PORT_CTL_EN = true → t.portState p = 1)) ∧
    (s.chip.vin = true → ∀ a b v, exec (.powerOn a b v) s = .next s) ∧
    (Completes (exec .powerFail s) fun t => t.mem = [] ∧ t.full = [] ∧ t.tiles = [] ∧ t.queues = [] ∧ t.vault = s.vault ∧ t.chip.vin = false ∧
      t.rf R.MOD_BOOT F.MOD_BOOT_PREFER = s.rf R.MOD_BOOT F.MOD_BOOT_PREFER ∧ t.position = s.position ∧
      t.role = (if s.position = s.chip.part.manifestManager then 1 else if s.chip.part.manifestStandby = some s.position then 2 else 0) ∧
      ∀ k, k ≠ R.MOD_BOOT → k ≠ R.MOD_ROLE → t.reg k = s.resetTo k) ∧
    (s.sound = true → s.chip.vin = true → Completes (exec .resetAssert s) fun t => t.chip.inReset = true ∧ t.full = [] ∧ t.queues = [] ∧
      t.upStep = (if s.upStep = 1 then 1 else 2) ∧
      (s.mapsCur = s.recordMaps → (∀ a, a < classKey 0 ∨ classKey 0 + 0x4000 ≤ a → t.byte a = s.byte a) ∧
        ∀ k, k ≠ R.MOD_STAT → (k = R.PWR_STATE → s.chip.mainUp = true) →
          t.reg k = (s.reg k &&& keptBits k) ||| (s.resetTo k &&& ~~~keptBits k))) ∧
    (s.chip.vin = false → Completes (exec .resetAssert s) fun t => t.regs = s.regs ∧ s.sameMemory t ∧ t.chip.inReset = true ∧
      t.chip.releaseWaits = none) ∧
    (∀ n, n = 0 ∨ 3 ≤ n ∧ n ≤ 10 →
      (s.needsReset = true → exec (.resetRelease n) s = .next s) ∧
      (s.needsReset = false → s.chip.vin = false ∨ s.upStep = 1 → Completes (exec (.resetRelease n) s) fun t => t.chip.inReset = false ∧
        t.chip.releaseWaits = some n ∧ t.regs = s.regs ∧ s.sameMemory t) ∧
      (s.needsReset = false → s.chip.vin = true → s.upStep ≠ 1 → s.tripHolds = true → Completes (exec (.resetRelease n) s) fun t =>
        t.chip.inReset = false ∧ t.chip.mainUp = s.chip.mainUp ∧ t.regs = s.regs ∧ s.sameMemory t)) ∧
    (s.chip.vin = true → (∀ v, v < 4 → Completes (exec (.railFault v) s) fun t => t.mem = [] ∧ t.chip.mainUp = false ∧
        t.rb R.MOD_STAT F.MOD_STAT_RAIL_FAULT = true ∧ t.rf R.MOD_STAT F.MOD_STAT_FAULT_RAIL = v ∧
        t.upStep = (if s.upStep = 1 then 1 else 2) ∧ t.rb R.MOD_ALERT F.MOD_ALERT_RAIL = true ∧ t.vault = s.vault) ∧
      (∀ v, 4 ≤ v → v < 8 → exec (.railFault v) s = exec .powerFail s) ∧
      (s.tripHot = true → Completes (exec .thermalTrip s) fun t => t.chip.mainUp = false ∧
        t.rb R.MOD_STAT F.MOD_STAT_TRIP = true ∧ t.rb R.MOD_ALERT F.MOD_ALERT_TRIP = true ∧
        (s.chip.mainUp = true → t.mem = [] ∧ t.upStep = if s.upStep = 1 then 1 else 2))) ∧
    (s.chip.vin = false → ∀ v, v < 8 → exec (.railFault v) s = .next s) ∧
    (s.tripHot = false ∨ s.chip.vin = false → exec .thermalTrip s = .next s)

/-- While there is standby power. FW_UPDATE writes the image that does not run; FW_ACTIVATE runs it where it passed its digest and nothing blocks it,
else it is answered as blocked. A PLDM message is served, a sensor read with the sensor's reading (the numbers are the model's, log entry 69), another
answered as invalid (the answer is the model's choice of two, log entry 64). The
manager's HEARTBEAT goes to the standby a millisecond after the last; the standby notes one. Of a descriptor's new state and of an ANNOUNCE the
manager tells the standby. MANAGER_TAKEOVER makes the standby the manager
3 ms after the last heartbeat and tells every module, a former manager never; TAKEOVER_MESSAGE names the new one. Without power they do nothing. -/
def Obligations.Management : Prop :=
  ∀ s : State,
    (s.powered = false → (∀ image digest, exec (.fwUpdate image digest) s = .next s) ∧ (∀ m, exec (.pldmMessage m) s = .next s) ∧
      (∀ p, exec (.takeoverMessage p) s = .next s) ∧ ∀ i ∈ [Instr.fwActivate, .heartbeat, .managerTakeover], exec i s = .next s) ∧
    (s.powered = true →
    (let b := s.onBus
     (∀ image digest, Completes (exec (.fwUpdate image digest) s) fun t => t.regs = b.regs ∧ b.sameMemory t ∧
       t.chip.fwBad = (sha256 image != digest) ∧
       t.chip.pldmReplies = b.chip.pldmReplies ++ [if sha256 image = digest then PldmCode.success else .verificationFailed] ∧
       (b.fwRunning = 0 → t.chip.fwB = image ∧ t.chip.fwA = b.chip.fwA) ∧ (b.fwRunning ≠ 0 → t.chip.fwA = image ∧ t.chip.fwB = b.chip.fwB)) ∧
     (b.chip.fwBad = false → b.fwBlocked = false → Completes (exec .fwActivate s) fun t =>
       t.fwRunning = 1 - b.fwRunning ∧ t.rf R.MOD_BOOT F.MOD_BOOT_PREFER = 1 - b.fwRunning ∧ b.sameRegsBut t [R.MOD_BOOT] ∧
         b.sameMemory t ∧ t.chip = { b.chip with pldmReplies := b.chip.pldmReplies ++ [.success] }) ∧
     (b.chip.fwBad = true ∨ b.fwBlocked = true → Completes (exec .fwActivate s) fun t => t.regs = b.regs ∧
       b.sameMemory t ∧ t.chip = { b.chip with pldmReplies := b.chip.pldmReplies ++ [.activationBlocked] }) ∧
     let answers (m : PldmMsg) (r : PldmCode) : Prop := Completes (exec (.pldmMessage m) s) fun t => t.regs = b.regs ∧ b.sameMemory t ∧
       t.chip.pldmReplies = b.chip.pldmReplies ++ [r]
     answers .bad .errorInvalidData ∧ answers .served .success ∧ answers .identify (.provisionedId s.chip.part.provId) ∧
     (∀ n, answers (.sensor n) (if n < 82 then .reading (b.pldmReading n) else .errorInvalidData)) ∧
     ∀ addr, Completes (exec (.pldmMessage (.assign addr)) s) fun t => t.regs = b.regs ∧ b.sameMemory t ∧
       t.chip = { b.chip with i3cAddr := some (addr % 128) }) ∧
    (∀ q, s.isManager = true → s.chip.part.standbyPos = some q → Completes (exec .heartbeat s) fun t =>
      t.chip.mgmtOut = s.chip.mgmtOut ++ [(0, q)] ∧ s.chip.heartbeatNs + 1000000 ≤ t.chip.heartbeatNs ∧ t.regs = s.regs) ∧
    (s.role = 2 → Completes (exec .heartbeat s) fun t => t.chip.heartbeatNs = s.chip.ns ∧ t.regs = s.regs ∧ t.chip.mgmtOut = s.chip.mgmtOut) ∧
    (let settled : Prop := (∀ l, s.chip.load = some l → l.desc < 2) ∧ ∀ b, s.chip.before = some b → ∀ x ∈ b.regs, x.1 ≠ R.MOD_ROLE
     (s.role = 2 → s.chip.wasManager = false → settled → Completes (exec .managerTakeover s) fun t => t.isManager = true ∧
       t.rb R.MOD_ROLE F.MOD_ROLE_TAKEN_OVER = true ∧ s.chip.heartbeatNs + 3000000 ≤ t.chip.ns ∧ t.chip.load = none ∧
       t.chip.part.managerPos = s.position ∧ ∀ q < s.chip.part.modules, q ≠ s.position → (1, q) ∈ t.chip.mgmtOut) ∧
     ∀ p, settled → Completes (exec (.takeoverMessage p) s) fun t => t.chip.part.managerPos = p ∧
       t.rb R.MOD_ROLE F.MOD_ROLE_TAKEN_OVER = true ∧ t.isManager = false ∧ t.chip.load = none ∧
       (s.isManager = true → t.chip.wasManager = true) ∧ t.role = if s.isManager then 2 else s.role) ∧
    (s.role ≠ 2 ∨ s.chip.wasManager = true → exec .managerTakeover s = .next s)) ∧
    (∀ q, s.isManager = true → s.chip.part.standbyPos = some q →
      (∀ x st, x < 2 → st < 8 → let t := run (setDesc x st) s
        t.descState x = st ∧ t.chip.mgmtOut = s.chip.mgmtOut ++ [(7, q)] ∧ s.sameRegsBut t [descKey x 0] ∧ s.sameMemory t) ∧
      (∀ sub arg, let t := run (announce sub arg) s
        t.chip.mgmtOut = s.chip.mgmtOut ++ [(7, q)] ∧ t.chip.tokensOut = s.chip.tokensOut ++ [⟨3, sub, s.position, s.chip.clapSeq, arg⟩] ∧
          t.regs = s.regs ∧ s.sameMemory t))

/-- TRIGGER_EDGE on an input pin records its time or freezes a running chip, as DBG_TRIG names; on an output pin it does nothing. JTAG_INSTRUCTION
takes the instructions that only observe at any time, and those that drive pins while the module is held in reset; else they act as BYPASS and are
counted. The pins follow: a rail fault and a reset take the observation pins low, the trigger pins to inputs and the transmitters to idle, and close the
bypass; PWR_GOOD falls with a fault of the main group, and a reset after step 2 leaves it high; without power the pins float. -/
def Obligations.DebugPins : Prop :=
  ∀ s : State,
    (∀ n, n < 4 → s.rb (R.DBG_TRIG n) F.DBG_TRIG_DIR = false →
      (s.rf (R.DBG_TRIG n) F.DBG_TRIG_ACT = 3 → Completes (exec (.triggerEdge n) s) fun t =>
        t.reg R.DBG_TRIG_TIME = BitVec.ofNat 64 s.chip.ns ∧ s.sameRegsBut t [R.DBG_TRIG_TIME] ∧ s.sameMemory t ∧ t.chip = s.chip) ∧
      (s.rf (R.DBG_TRIG n) F.DBG_TRIG_ACT = 1 ∨ s.rf (R.DBG_TRIG n) F.DBG_TRIG_ACT = 2 → s.running = true → s.frozen = false →
        Completes (exec (.triggerEdge n) s) fun t => t.rb R.DBG_STAT F.DBG_STAT_TRIG_FREEZE = true ∧
          s.sameRegsBut t [R.DBG_STAT] ∧ s.sameMemory t ∧ ∃ f, t.chip.freezeAt = some f ∧ f ≤ max (s.chip.fcyc + 64) 16)) ∧
    (∀ n, n < 4 → s.rb (R.DBG_TRIG n) F.DBG_TRIG_DIR = true → exec (.triggerEdge n) s = .next s) ∧
    (∀ code, code ≤ 2 ∨ (code ≤ 5 ∧ s.chip.inReset = true) → Completes (exec (.jtagInstruction code) s) fun t =>
      t.chip.jtag = code ∧ t.regs = s.regs ∧ s.sameMemory t) ∧
    (∀ code, 3 ≤ code → code ≤ 5 → s.chip.inReset = false → Completes (exec (.jtagInstruction code) s) fun t => t.chip.jtag = 0 ∧
      t.rf R.DBG_STAT F.DBG_STAT_JTAG_REFUSED = s.plus R.DBG_STAT F.DBG_STAT_JTAG_REFUSED 1 ∧ s.sameRegsBut t [R.DBG_STAT]) ∧
    (∀ code, 5 < code → Completes (exec (.jtagInstruction code) s) fun t => t.chip.jtag = 0 ∧ t.regs = s.regs) ∧
    (let rest (t : State) : Prop := (∀ n, t.obsPin n = .low ∧ t.trigPin n = .input) ∧ (∀ p l, t.txPin p l = .idle) ∧ (∀ l, t.switchOpen l = false) ∧
       ∀ q, t.perstPin q = .low
     s.chip.vin = true →
      (∀ v, v < 4 → Completes (exec (.railFault v) s) fun t => rest t ∧ t.pwrGood = .low ∧ (∀ r < 4, t.railUp r = false) ∧
        (∀ r, 4 ≤ r → t.railUp r = true)) ∧
      Completes (exec .resetAssert s) (fun t => rest t ∧ (s.upStep ≠ 1 → s.chip.mainUp = true → t.pwrGood = .high)) ∧
      Completes (exec .powerFail s) fun t => (∀ n, t.obsPin n = .highZ ∧ t.trigPin n = .highZ) ∧ (∀ p l, t.txPin p l = .highZ) ∧
        (∀ l, t.switchOpen l = false) ∧ t.pwrGood = .low ∧ t.alertN = .highZ ∧ t.sdaPin = .highZ ∧ ∀ r, t.railUp r = false)
end

