-- ==== Sys2Proof/Laws/Sparse.lean ====
section
/-! SUPPORT. Sparse stores: what a read gives after a write, and that every operation keeps the canonical form. -/

namespace Sys2Proof.Machine.Sparse

variable {α : Type}

theorem get_insert_same (d : Nat → α) (k : Nat) (v : α) (m : List (Nat × α)) : get d (insert k v m) k = v := by
  induction m with
  | nil => simp [insert, get]
  | cons e m ih =>
    obtain ⟨j, w⟩ := e
    rw [insert]
    split
    · simp [get]
    · split
      · simp [get]
      · simp [get, *]

theorem get_insert_ne (d : Nat → α) {k j : Nat} (h : j ≠ k) (v : α) (m : List (Nat × α)) :
    get d (insert k v m) j = get d m j := by
  induction m with
  | nil => simp [insert, get, h]
  | cons e m ih =>
    obtain ⟨i, w⟩ := e
    rw [insert]
    split
    · simp [get, h]
    · split
      · subst_vars; simp [get, h]
      · simp [get, ih]

theorem get_erase_same (d : Nat → α) (k : Nat) (m : List (Nat × α)) : get d (erase k m) k = d k := by
  induction m with
  | nil => rfl
  | cons e m ih =>
    obtain ⟨j, w⟩ := e
    rw [erase]
    split
    · exact ih
    · simp [get, *]

theorem get_erase_ne (d : Nat → α) {k j : Nat} (h : j ≠ k) (m : List (Nat × α)) : get d (erase k m) j = get d m j := by
  induction m with
  | nil => rfl
  | cons e m ih =>
    obtain ⟨i, w⟩ := e
    rw [erase]
    split
    · subst_vars; simp [get, h, ih]
    · simp [get, ih]

@[simp] theorem get_nil (d : Nat → α) (k : Nat) : get d [] k = d k := rfl

theorem above_mono {a b : Nat} (h : a ≤ b) {m : List (Nat × α)} (hm : above b m = true) : above a m = true := by
  cases m with
  | nil => rfl
  | cons e m => simp [above] at *; omega

theorem above_insert {b k : Nat} (hk : b < k) (v : α) {m : List (Nat × α)} (hm : above b m = true) :
    above b (insert k v m) = true := by
  cases m with
  | nil => simpa [insert, above] using hk
  | cons e m =>
    simp only [insert]
    split
    · simpa [above] using hk
    · split
      · simpa [above] using hk
      · simpa [above] using hm

theorem erase_eq_filter (k : Nat) (m : List (Nat × α)) : erase k m = m.filter fun e => !(k == e.1) := by
  induction m with
  | nil => rfl
  | cons e m ih =>
    obtain ⟨j, w⟩ := e
    rw [erase, List.filter_cons]
    split <;> simp_all

variable [DecidableEq α]

/-- A read at the key just written gives the value written. -/
@[simp] theorem get_set_same (d : Nat → α) (k : Nat) (v : α) (m : List (Nat × α)) : get d (set d k v m) k = v := by
  rw [set]
  split
  · rw [get_erase_same, ‹v = d k›]
  · exact get_insert_same d k v m

/-- A read at another key gives what it gave before. -/
theorem get_set_ne (d : Nat → α) {k j : Nat} (h : j ≠ k) (v : α) (m : List (Nat × α)) : get d (set d k v m) j = get d m j := by
  rw [set]
  split
  · exact get_erase_ne d h m
  · exact get_insert_ne d h v m

omit [DecidableEq α] in
/-- A filter that keeps every entry of a key keeps its value. -/
theorem get_filter (d : Nat → α) {k : Nat} {p : Nat × α → Bool} (m : List (Nat × α)) (h : ∀ v, p (k, v) = true) :
    get d (m.filter p) k = get d m k := by
  induction m with
  | nil => rfl
  | cons e m ih =>
    obtain ⟨j, v⟩ := e
    by_cases hk : k = j
    · subst hk; simp [get, h]
    · by_cases hp : p (j, v) = true <;> simp [get, hp, hk, ih]

theorem get_set (d : Nat → α) (k j : Nat) (v : α) (m : List (Nat × α)) :
    get d (set d k v m) j = if j = k then v else get d m j := by
  split
  · subst_vars; simp
  · exact get_set_ne d ‹_› v m

theorem wf_above (d : Nat → α) {j : Nat} {v : α} {m : List (Nat × α)} (h : wf d ((j, v) :: m) = true) :
    v ≠ d j ∧ above j m = true ∧ wf d m = true := by
  simpa [wf, and_assoc] using h

/-- Where a canonical list's keys are above a bound, so are a sublist's. -/
theorem above_filter (d : Nat → α) {b : Nat} {m : List (Nat × α)} (hm : above b m = true) (hw : wf d m = true)
    (p : Nat × α → Bool) : above b (m.filter p) = true := by
  induction m generalizing b with
  | nil => rfl
  | cons e m ih =>
    obtain ⟨j, v⟩ := e
    obtain ⟨-, ha, hw'⟩ := wf_above d hw
    have hb : b < j := by simpa [above] using hm
    rw [List.filter_cons]
    split
    · simpa [above] using hb
    · exact ih (above_mono (Nat.le_of_lt hb) ha) hw'

/-- Dropping entries keeps the canonical form. -/
theorem wf_filter (d : Nat → α) {m : List (Nat × α)} (h : wf d m = true) (p : Nat × α → Bool) : wf d (m.filter p) = true := by
  induction m with
  | nil => rfl
  | cons e m ih =>
    obtain ⟨j, v⟩ := e
    obtain ⟨hv, ha, hw⟩ := wf_above d h
    rw [List.filter_cons]
    split
    · simp [wf, hv, ih hw, above_filter d ha hw]
    · exact ih hw

theorem wf_insert (d : Nat → α) {k : Nat} {v : α} (hv : v ≠ d k) {m : List (Nat × α)} (h : wf d m = true) :
    wf d (insert k v m) = true := by
  induction m with
  | nil => simp [insert, wf, above, hv]
  | cons e m ih =>
    obtain ⟨j, w⟩ := e
    obtain ⟨hw, ha, hm⟩ := wf_above d h
    rw [insert]
    split
    · simp [wf, hv, hw, ha, hm]; simpa [above]
    · split
      · subst_vars; simp [wf, hv, ha, hm]
      · simp [wf, hw, ih hm, above_insert (by omega : j < k) v ha]

/-- A write keeps the canonical form. -/
theorem wf_set (d : Nat → α) (k : Nat) (v : α) {m : List (Nat × α)} (h : wf d m = true) : wf d (set d k v m) = true := by
  rw [set]
  split
  · rw [erase_eq_filter]; exact wf_filter d h _
  · exact wf_insert d ‹_› h

end Sys2Proof.Machine.Sparse
end

