-- ==== Sys2Proof/Laws/State.lean ====
section
/-! SUPPORT. Every field of the state after every primitive update: one lemma each, true by definition. -/

namespace Sys2Proof.Machine

variable (s : State)

@[simp] theorem reg_regs (k : Nat) (v : Word) : ((Upd.reg k v).apply s).regs = Sparse.set resetWord k v s.regs := rfl
@[simp] theorem reg_mem (k : Nat) (v : Word) : ((Upd.reg k v).apply s).mem = s.mem := rfl
@[simp] theorem reg_err (k : Nat) (v : Word) : ((Upd.reg k v).apply s).err = s.err := rfl
@[simp] theorem reg_poison (k : Nat) (v : Word) : ((Upd.reg k v).apply s).poison = s.poison := rfl
@[simp] theorem reg_full (k : Nat) (v : Word) : ((Upd.reg k v).apply s).full = s.full := rfl
@[simp] theorem reg_host (k : Nat) (v : Word) : ((Upd.reg k v).apply s).host = s.host := rfl
@[simp] theorem reg_vault (k : Nat) (v : Word) : ((Upd.reg k v).apply s).vault = s.vault := rfl
@[simp] theorem reg_tiles (k : Nat) (v : Word) : ((Upd.reg k v).apply s).tiles = s.tiles := rfl
@[simp] theorem reg_queues (k : Nat) (v : Word) : ((Upd.reg k v).apply s).queues = s.queues := rfl
@[simp] theorem reg_chip (k : Nat) (v : Word) : ((Upd.reg k v).apply s).chip = s.chip := rfl
@[simp] theorem reg_pending (k : Nat) (v : Word) : ((Upd.reg k v).apply s).pending = s.pending := rfl

@[simp] theorem mem_regs (k : Nat) (bs : List Byte) : ((Upd.mem k bs).apply s).regs = s.regs := rfl
@[simp] theorem mem_mem (k : Nat) (bs : List Byte) : ((Upd.mem k bs).apply s).mem = putBytes s.mem k bs := rfl
@[simp] theorem mem_err (k : Nat) (bs : List Byte) : ((Upd.mem k bs).apply s).err = s.err := rfl
@[simp] theorem mem_poison (k : Nat) (bs : List Byte) : ((Upd.mem k bs).apply s).poison = s.poison := rfl
@[simp] theorem mem_full (k : Nat) (bs : List Byte) : ((Upd.mem k bs).apply s).full = s.full := rfl
@[simp] theorem mem_host (k : Nat) (bs : List Byte) : ((Upd.mem k bs).apply s).host = s.host := rfl
@[simp] theorem mem_vault (k : Nat) (bs : List Byte) : ((Upd.mem k bs).apply s).vault = s.vault := rfl
@[simp] theorem mem_tiles (k : Nat) (bs : List Byte) : ((Upd.mem k bs).apply s).tiles = s.tiles := rfl
@[simp] theorem mem_queues (k : Nat) (bs : List Byte) : ((Upd.mem k bs).apply s).queues = s.queues := rfl
@[simp] theorem mem_chip (k : Nat) (bs : List Byte) : ((Upd.mem k bs).apply s).chip = s.chip := rfl
@[simp] theorem mem_pending (k : Nat) (bs : List Byte) : ((Upd.mem k bs).apply s).pending = s.pending := rfl

@[simp] theorem err_regs (k : Nat) (bs : List Byte) : ((Upd.err k bs).apply s).regs = s.regs := rfl
@[simp] theorem err_mem (k : Nat) (bs : List Byte) : ((Upd.err k bs).apply s).mem = s.mem := rfl
@[simp] theorem err_err (k : Nat) (bs : List Byte) : ((Upd.err k bs).apply s).err = putBytes s.err k bs := rfl
@[simp] theorem err_poison (k : Nat) (bs : List Byte) : ((Upd.err k bs).apply s).poison = s.poison := rfl
@[simp] theorem err_full (k : Nat) (bs : List Byte) : ((Upd.err k bs).apply s).full = s.full := rfl
@[simp] theorem err_host (k : Nat) (bs : List Byte) : ((Upd.err k bs).apply s).host = s.host := rfl
@[simp] theorem err_vault (k : Nat) (bs : List Byte) : ((Upd.err k bs).apply s).vault = s.vault := rfl
@[simp] theorem err_tiles (k : Nat) (bs : List Byte) : ((Upd.err k bs).apply s).tiles = s.tiles := rfl
@[simp] theorem err_queues (k : Nat) (bs : List Byte) : ((Upd.err k bs).apply s).queues = s.queues := rfl
@[simp] theorem err_chip (k : Nat) (bs : List Byte) : ((Upd.err k bs).apply s).chip = s.chip := rfl
@[simp] theorem err_pending (k : Nat) (bs : List Byte) : ((Upd.err k bs).apply s).pending = s.pending := rfl

@[simp] theorem poison_regs (l : Nat) (c : BitVec 3) : ((Upd.poison l c).apply s).regs = s.regs := rfl
@[simp] theorem poison_mem (l : Nat) (c : BitVec 3) : ((Upd.poison l c).apply s).mem = s.mem := rfl
@[simp] theorem poison_err (l : Nat) (c : BitVec 3) : ((Upd.poison l c).apply s).err = s.err := rfl
@[simp] theorem poison_poison (l : Nat) (c : BitVec 3) : ((Upd.poison l c).apply s).poison = Sparse.set pois0 l c s.poison := rfl
@[simp] theorem poison_full (l : Nat) (c : BitVec 3) : ((Upd.poison l c).apply s).full = s.full := rfl
@[simp] theorem poison_host (l : Nat) (c : BitVec 3) : ((Upd.poison l c).apply s).host = s.host := rfl
@[simp] theorem poison_vault (l : Nat) (c : BitVec 3) : ((Upd.poison l c).apply s).vault = s.vault := rfl
@[simp] theorem poison_tiles (l : Nat) (c : BitVec 3) : ((Upd.poison l c).apply s).tiles = s.tiles := rfl
@[simp] theorem poison_queues (l : Nat) (c : BitVec 3) : ((Upd.poison l c).apply s).queues = s.queues := rfl
@[simp] theorem poison_chip (l : Nat) (c : BitVec 3) : ((Upd.poison l c).apply s).chip = s.chip := rfl
@[simp] theorem poison_pending (l : Nat) (c : BitVec 3) : ((Upd.poison l c).apply s).pending = s.pending := rfl

@[simp] theorem full_regs (g : Nat) (b : Bool) : ((Upd.full g b).apply s).regs = s.regs := rfl
@[simp] theorem full_mem (g : Nat) (b : Bool) : ((Upd.full g b).apply s).mem = s.mem := rfl
@[simp] theorem full_err (g : Nat) (b : Bool) : ((Upd.full g b).apply s).err = s.err := rfl
@[simp] theorem full_poison (g : Nat) (b : Bool) : ((Upd.full g b).apply s).poison = s.poison := rfl
@[simp] theorem full_full (g : Nat) (b : Bool) : ((Upd.full g b).apply s).full = Sparse.set empty0 g b s.full := rfl
@[simp] theorem full_host (g : Nat) (b : Bool) : ((Upd.full g b).apply s).host = s.host := rfl
@[simp] theorem full_vault (g : Nat) (b : Bool) : ((Upd.full g b).apply s).vault = s.vault := rfl
@[simp] theorem full_tiles (g : Nat) (b : Bool) : ((Upd.full g b).apply s).tiles = s.tiles := rfl
@[simp] theorem full_queues (g : Nat) (b : Bool) : ((Upd.full g b).apply s).queues = s.queues := rfl
@[simp] theorem full_chip (g : Nat) (b : Bool) : ((Upd.full g b).apply s).chip = s.chip := rfl
@[simp] theorem full_pending (g : Nat) (b : Bool) : ((Upd.full g b).apply s).pending = s.pending := rfl

@[simp] theorem host_regs (a : Nat) (bs : List Byte) : ((Upd.host a bs).apply s).regs = s.regs := rfl
@[simp] theorem host_mem (a : Nat) (bs : List Byte) : ((Upd.host a bs).apply s).mem = s.mem := rfl
@[simp] theorem host_err (a : Nat) (bs : List Byte) : ((Upd.host a bs).apply s).err = s.err := rfl
@[simp] theorem host_poison (a : Nat) (bs : List Byte) : ((Upd.host a bs).apply s).poison = s.poison := rfl
@[simp] theorem host_full (a : Nat) (bs : List Byte) : ((Upd.host a bs).apply s).full = s.full := rfl
@[simp] theorem host_host (a : Nat) (bs : List Byte) : ((Upd.host a bs).apply s).host = putBytes s.host a bs := rfl
@[simp] theorem host_vault (a : Nat) (bs : List Byte) : ((Upd.host a bs).apply s).vault = s.vault := rfl
@[simp] theorem host_tiles (a : Nat) (bs : List Byte) : ((Upd.host a bs).apply s).tiles = s.tiles := rfl
@[simp] theorem host_queues (a : Nat) (bs : List Byte) : ((Upd.host a bs).apply s).queues = s.queues := rfl
@[simp] theorem host_chip (a : Nat) (bs : List Byte) : ((Upd.host a bs).apply s).chip = s.chip := rfl
@[simp] theorem host_pending (a : Nat) (bs : List Byte) : ((Upd.host a bs).apply s).pending = s.pending := rfl

@[simp] theorem vault_regs (a : Nat) (bs : List Byte) : ((Upd.vault a bs).apply s).regs = s.regs := rfl
@[simp] theorem vault_mem (a : Nat) (bs : List Byte) : ((Upd.vault a bs).apply s).mem = s.mem := rfl
@[simp] theorem vault_err (a : Nat) (bs : List Byte) : ((Upd.vault a bs).apply s).err = s.err := rfl
@[simp] theorem vault_poison (a : Nat) (bs : List Byte) : ((Upd.vault a bs).apply s).poison = s.poison := rfl
@[simp] theorem vault_full (a : Nat) (bs : List Byte) : ((Upd.vault a bs).apply s).full = s.full := rfl
@[simp] theorem vault_host (a : Nat) (bs : List Byte) : ((Upd.vault a bs).apply s).host = s.host := rfl
@[simp] theorem vault_vault (a : Nat) (bs : List Byte) : ((Upd.vault a bs).apply s).vault = putBytes s.vault a bs := rfl
@[simp] theorem vault_tiles (a : Nat) (bs : List Byte) : ((Upd.vault a bs).apply s).tiles = s.tiles := rfl
@[simp] theorem vault_queues (a : Nat) (bs : List Byte) : ((Upd.vault a bs).apply s).queues = s.queues := rfl
@[simp] theorem vault_chip (a : Nat) (bs : List Byte) : ((Upd.vault a bs).apply s).chip = s.chip := rfl
@[simp] theorem vault_pending (a : Nat) (bs : List Byte) : ((Upd.vault a bs).apply s).pending = s.pending := rfl

@[simp] theorem tile_regs (t : Nat) (v : TileS) : ((Upd.tile t v).apply s).regs = s.regs := rfl
@[simp] theorem tile_mem (t : Nat) (v : TileS) : ((Upd.tile t v).apply s).mem = s.mem := rfl
@[simp] theorem tile_err (t : Nat) (v : TileS) : ((Upd.tile t v).apply s).err = s.err := rfl
@[simp] theorem tile_poison (t : Nat) (v : TileS) : ((Upd.tile t v).apply s).poison = s.poison := rfl
@[simp] theorem tile_full (t : Nat) (v : TileS) : ((Upd.tile t v).apply s).full = s.full := rfl
@[simp] theorem tile_host (t : Nat) (v : TileS) : ((Upd.tile t v).apply s).host = s.host := rfl
@[simp] theorem tile_vault (t : Nat) (v : TileS) : ((Upd.tile t v).apply s).vault = s.vault := rfl
@[simp] theorem tile_tiles (t : Nat) (v : TileS) : ((Upd.tile t v).apply s).tiles = Sparse.set tile0 t v s.tiles := rfl
@[simp] theorem tile_queues (t : Nat) (v : TileS) : ((Upd.tile t v).apply s).queues = s.queues := rfl
@[simp] theorem tile_chip (t : Nat) (v : TileS) : ((Upd.tile t v).apply s).chip = s.chip := rfl
@[simp] theorem tile_pending (t : Nat) (v : TileS) : ((Upd.tile t v).apply s).pending = s.pending := rfl

@[simp] theorem queue_regs (q : Nat) (v : QueueS) : ((Upd.queue q v).apply s).regs = s.regs := rfl
@[simp] theorem queue_mem (q : Nat) (v : QueueS) : ((Upd.queue q v).apply s).mem = s.mem := rfl
@[simp] theorem queue_err (q : Nat) (v : QueueS) : ((Upd.queue q v).apply s).err = s.err := rfl
@[simp] theorem queue_poison (q : Nat) (v : QueueS) : ((Upd.queue q v).apply s).poison = s.poison := rfl
@[simp] theorem queue_full (q : Nat) (v : QueueS) : ((Upd.queue q v).apply s).full = s.full := rfl
@[simp] theorem queue_host (q : Nat) (v : QueueS) : ((Upd.queue q v).apply s).host = s.host := rfl
@[simp] theorem queue_vault (q : Nat) (v : QueueS) : ((Upd.queue q v).apply s).vault = s.vault := rfl
@[simp] theorem queue_tiles (q : Nat) (v : QueueS) : ((Upd.queue q v).apply s).tiles = s.tiles := rfl
@[simp] theorem queue_queues (q : Nat) (v : QueueS) : ((Upd.queue q v).apply s).queues = Sparse.set queue0 q v s.queues := rfl
@[simp] theorem queue_chip (q : Nat) (v : QueueS) : ((Upd.queue q v).apply s).chip = s.chip := rfl
@[simp] theorem queue_pending (q : Nat) (v : QueueS) : ((Upd.queue q v).apply s).pending = s.pending := rfl

@[simp] theorem chip_regs (c : Chip) : ((Upd.chip c).apply s).regs = s.regs := rfl
@[simp] theorem chip_mem (c : Chip) : ((Upd.chip c).apply s).mem = s.mem := rfl
@[simp] theorem chip_err (c : Chip) : ((Upd.chip c).apply s).err = s.err := rfl
@[simp] theorem chip_poison (c : Chip) : ((Upd.chip c).apply s).poison = s.poison := rfl
@[simp] theorem chip_full (c : Chip) : ((Upd.chip c).apply s).full = s.full := rfl
@[simp] theorem chip_host (c : Chip) : ((Upd.chip c).apply s).host = s.host := rfl
@[simp] theorem chip_vault (c : Chip) : ((Upd.chip c).apply s).vault = s.vault := rfl
@[simp] theorem chip_tiles (c : Chip) : ((Upd.chip c).apply s).tiles = s.tiles := rfl
@[simp] theorem chip_queues (c : Chip) : ((Upd.chip c).apply s).queues = s.queues := rfl
@[simp] theorem chip_chip (c : Chip) : ((Upd.chip c).apply s).chip = c := rfl
@[simp] theorem chip_pending (c : Chip) : ((Upd.chip c).apply s).pending = s.pending := rfl

@[simp] theorem dropMem_regs (p : Nat → Bool) : ((Upd.dropMem p).apply s).regs = s.regs := rfl
@[simp] theorem dropMem_mem (p : Nat → Bool) : ((Upd.dropMem p).apply s).mem = s.mem.filter fun c => !p c.1 := rfl
@[simp] theorem dropMem_err (p : Nat → Bool) : ((Upd.dropMem p).apply s).err = s.err.filter fun c => !p c.1 := rfl
@[simp] theorem dropMem_poison (p : Nat → Bool) : ((Upd.dropMem p).apply s).poison = s.poison.filter fun c => !p (c.1 * 64) := rfl
@[simp] theorem dropMem_full (p : Nat → Bool) : ((Upd.dropMem p).apply s).full = s.full := rfl
@[simp] theorem dropMem_host (p : Nat → Bool) : ((Upd.dropMem p).apply s).host = s.host := rfl
@[simp] theorem dropMem_vault (p : Nat → Bool) : ((Upd.dropMem p).apply s).vault = s.vault := rfl
@[simp] theorem dropMem_tiles (p : Nat → Bool) : ((Upd.dropMem p).apply s).tiles = s.tiles := rfl
@[simp] theorem dropMem_queues (p : Nat → Bool) : ((Upd.dropMem p).apply s).queues = s.queues := rfl
@[simp] theorem dropMem_chip (p : Nat → Bool) : ((Upd.dropMem p).apply s).chip = s.chip := rfl
@[simp] theorem dropMem_pending (p : Nat → Bool) : ((Upd.dropMem p).apply s).pending = s.pending := rfl

@[simp] theorem dropRegs_regs (p : Nat → Bool) : ((Upd.dropRegs p).apply s).regs = s.regs.filter fun c => !p c.1 := rfl
@[simp] theorem dropRegs_mem (p : Nat → Bool) : ((Upd.dropRegs p).apply s).mem = s.mem := rfl
@[simp] theorem dropRegs_err (p : Nat → Bool) : ((Upd.dropRegs p).apply s).err = s.err := rfl
@[simp] theorem dropRegs_poison (p : Nat → Bool) : ((Upd.dropRegs p).apply s).poison = s.poison := rfl
@[simp] theorem dropRegs_full (p : Nat → Bool) : ((Upd.dropRegs p).apply s).full = s.full := rfl
@[simp] theorem dropRegs_host (p : Nat → Bool) : ((Upd.dropRegs p).apply s).host = s.host := rfl
@[simp] theorem dropRegs_vault (p : Nat → Bool) : ((Upd.dropRegs p).apply s).vault = s.vault := rfl
@[simp] theorem dropRegs_tiles (p : Nat → Bool) : ((Upd.dropRegs p).apply s).tiles = s.tiles := rfl
@[simp] theorem dropRegs_queues (p : Nat → Bool) : ((Upd.dropRegs p).apply s).queues = s.queues := rfl
@[simp] theorem dropRegs_chip (p : Nat → Bool) : ((Upd.dropRegs p).apply s).chip = s.chip := rfl
@[simp] theorem dropRegs_pending (p : Nat → Bool) : ((Upd.dropRegs p).apply s).pending = s.pending := rfl

@[simp] theorem dropFull_regs : ((Upd.dropFull).apply s).regs = s.regs := rfl
@[simp] theorem dropFull_mem : ((Upd.dropFull).apply s).mem = s.mem := rfl
@[simp] theorem dropFull_err : ((Upd.dropFull).apply s).err = s.err := rfl
@[simp] theorem dropFull_poison : ((Upd.dropFull).apply s).poison = s.poison := rfl
@[simp] theorem dropFull_full : ((Upd.dropFull).apply s).full = [] := rfl
@[simp] theorem dropFull_host : ((Upd.dropFull).apply s).host = s.host := rfl
@[simp] theorem dropFull_vault : ((Upd.dropFull).apply s).vault = s.vault := rfl
@[simp] theorem dropFull_tiles : ((Upd.dropFull).apply s).tiles = s.tiles := rfl
@[simp] theorem dropFull_queues : ((Upd.dropFull).apply s).queues = s.queues := rfl
@[simp] theorem dropFull_chip : ((Upd.dropFull).apply s).chip = s.chip := rfl
@[simp] theorem dropFull_pending : ((Upd.dropFull).apply s).pending = s.pending := rfl

@[simp] theorem dropTiles_regs : ((Upd.dropTiles).apply s).regs = s.regs := rfl
@[simp] theorem dropTiles_mem : ((Upd.dropTiles).apply s).mem = s.mem := rfl
@[simp] theorem dropTiles_err : ((Upd.dropTiles).apply s).err = s.err := rfl
@[simp] theorem dropTiles_poison : ((Upd.dropTiles).apply s).poison = s.poison := rfl
@[simp] theorem dropTiles_full : ((Upd.dropTiles).apply s).full = s.full := rfl
@[simp] theorem dropTiles_host : ((Upd.dropTiles).apply s).host = s.host := rfl
@[simp] theorem dropTiles_vault : ((Upd.dropTiles).apply s).vault = s.vault := rfl
@[simp] theorem dropTiles_tiles : ((Upd.dropTiles).apply s).tiles = [] := rfl
@[simp] theorem dropTiles_queues : ((Upd.dropTiles).apply s).queues = s.queues := rfl
@[simp] theorem dropTiles_chip : ((Upd.dropTiles).apply s).chip = s.chip := rfl
@[simp] theorem dropTiles_pending : ((Upd.dropTiles).apply s).pending = s.pending := rfl

@[simp] theorem dropQueues_regs : ((Upd.dropQueues).apply s).regs = s.regs := rfl
@[simp] theorem dropQueues_mem : ((Upd.dropQueues).apply s).mem = s.mem := rfl
@[simp] theorem dropQueues_err : ((Upd.dropQueues).apply s).err = s.err := rfl
@[simp] theorem dropQueues_poison : ((Upd.dropQueues).apply s).poison = s.poison := rfl
@[simp] theorem dropQueues_full : ((Upd.dropQueues).apply s).full = s.full := rfl
@[simp] theorem dropQueues_host : ((Upd.dropQueues).apply s).host = s.host := rfl
@[simp] theorem dropQueues_vault : ((Upd.dropQueues).apply s).vault = s.vault := rfl
@[simp] theorem dropQueues_tiles : ((Upd.dropQueues).apply s).tiles = s.tiles := rfl
@[simp] theorem dropQueues_queues : ((Upd.dropQueues).apply s).queues = [] := rfl
@[simp] theorem dropQueues_chip : ((Upd.dropQueues).apply s).chip = s.chip := rfl
@[simp] theorem dropQueues_pending : ((Upd.dropQueues).apply s).pending = s.pending := rfl

end Sys2Proof.Machine
end

