-- ==== Sys2Proof/Laws/Tx.lean ====
section
/-! SUPPORT. Transactions: how `run` goes through the ways of putting transactions together, what no transaction touches, and what
the small ones do. -/

namespace Sys2Proof.Machine

@[simp] theorem applyAll_nil (s : State) : applyAll [] s = s := rfl
@[simp] theorem applyAll_cons (u : Upd) (us : List Upd) (s : State) : applyAll (u :: us) s = applyAll us (u.apply s) := rfl

@[simp] theorem applyAll_append (us vs : List Upd) (s : State) : applyAll (us ++ vs) s = applyAll vs (applyAll us s) := by
  induction us generalizing s with
  | nil => rfl
  | cons u us ih => exact ih (u.apply s)

@[simp] theorem run_skip (s : State) : run skip s = s := rfl
@[simp] theorem run_seq (a b : Tx) (s : State) : run (a.seq b) s = run b (run a s) := by simp [run, Tx.seq]
@[simp] theorem run_chain_nil (s : State) : run (chain []) s = s := rfl
@[simp] theorem run_chain_cons (t : Tx) (ts : List Tx) (s : State) : run (chain (t :: ts)) s = run (chain ts) (run t s) :=
  run_seq t (chain ts) s
@[simp] theorem run_when_true (t : Tx) (s : State) : run (when true t) s = run t s := rfl
@[simp] theorem run_when_false (t : Tx) (s : State) : run (when false t) s = s := rfl
theorem run_when (p : Bool) (t : Tx) (s : State) : run (when p t) s = if p then run t s else s := by cases p <;> rfl
theorem run_whenS (p : State → Bool) (t : Tx) (s : State) : run (whenS p t) s = if p s then run t s else s := by
  simp only [run, whenS]; split <;> rfl
@[simp] theorem run_look (f : State → Tx) (s : State) : run (look f) s = run (f s) s := rfl
@[simp] theorem run_forEach_nil {α : Type} (f : α → Tx) (s : State) : run (forEach [] f) s = s := rfl
@[simp] theorem run_forEach_cons {α : Type} (x : α) (xs : List α) (f : α → Tx) (s : State) :
    run (forEach (x :: xs) f) s = run (forEach xs f) (run (f x) s) := run_chain_cons (f x) (xs.map f) s

/-! ### What a transaction keeps -/

/-- The transaction leaves what `f` reads as it was. -/
def Tx.Keeps {β : Type} (f : State → β) (t : Tx) : Prop := ∀ s, f (run t s) = f s

variable {β : Type} {f : State → β}

theorem Keeps.skip : Tx.Keeps f skip := fun _ => rfl

theorem Keeps.seq {a b : Tx} (ha : a.Keeps f) (hb : b.Keeps f) : (a.seq b).Keeps f := fun s => by
  rw [run_seq, hb, ha]

theorem Keeps.chain {ts : List Tx} (h : ∀ t ∈ ts, Tx.Keeps f t) : (chain ts).Keeps f := by
  induction ts with
  | nil => exact Keeps.skip
  | cons t ts ih => exact Keeps.seq (h t (by simp)) (ih fun u hu => h u (by simp [hu]))

theorem Keeps.forEach {α : Type} {xs : List α} {g : α → Tx} (h : ∀ x ∈ xs, Tx.Keeps f (g x)) : (forEach xs g).Keeps f :=
  Keeps.chain fun t ht => by
    obtain ⟨x, hx, rfl⟩ := List.mem_map.mp ht
    exact h x hx

theorem Keeps.when {p : Bool} {t : Tx} (h : t.Keeps f) : (when p t).Keeps f := fun s => by
  cases p
  · rfl
  · exact h s

theorem Keeps.whenS {p : State → Bool} {t : Tx} (h : t.Keeps f) : (whenS p t).Keeps f := fun s => by
  rw [run_whenS]; split
  · exact h s
  · rfl

theorem Keeps.look {g : State → Tx} (h : ∀ s, Tx.Keeps f (g s)) : (look g).Keeps f := fun s => h s s

/-- Updates that keep `f` one by one make a transaction that keeps `f`. -/
theorem Keeps.updates {t : Tx} (h : ∀ s, ∀ u ∈ t s, ∀ s', f (u.apply s') = f s') : t.Keeps f := fun s => by
  suffices ∀ us : List Upd, (∀ u ∈ us, ∀ s', f (u.apply s') = f s') → ∀ s', f (applyAll us s') = f s' from this _ (h s) s
  intro us
  induction us with
  | nil => intros; rfl
  | cons u us ih =>
    intro hu s'
    rw [applyAll_cons, ih (fun v hv => hu v (by simp [hv])), hu u (by simp)]

/-- No transaction touches the queue of waiting commands. -/
@[simp] theorem applyAll_pending (us : List Upd) (s : State) : (applyAll us s).pending = s.pending := by
  induction us generalizing s with
  | nil => rfl
  | cons u us ih => rw [applyAll_cons, ih]; cases u <;> rfl

@[simp] theorem run_pending (t : Tx) (s : State) : (run t s).pending = s.pending := applyAll_pending _ _

/-! ### Reads after the small transactions -/

@[simp] theorem reg_setReg (k j : Nat) (v : Word) (s : State) : (run (setReg k v) s).reg j = if j = k then v else s.reg j :=
  Sparse.get_set _ _ _ _ _

@[simp] theorem reg_setRegN (k j v : Nat) (s : State) :
    (run (setRegN k v) s).reg j = if j = k then BitVec.ofNat 64 v else s.reg j := reg_setReg k j _ s

@[simp] theorem reg_setF (k j : Nat) (f : Fld) (v : Nat) (s : State) :
    (run (setF k f v) s).reg j = if j = k then fset (s.reg k) f v else s.reg j := Sparse.get_set _ _ _ _ _

@[simp] theorem reg_setB (k j : Nat) (f : Fld) (b : Bool) (s : State) :
    (run (setB k f b) s).reg j = if j = k then fset (s.reg k) f b.toNat else s.reg j := reg_setF k j f _ s

@[simp] theorem reg_incF (k j : Nat) (f : Fld) (n : Nat) (s : State) :
    (run (incF k f n) s).reg j = if j = k then fset (s.reg k) f (min (s.rf k f + n) (2 ^ f.width - 1)) else s.reg j :=
  Sparse.get_set _ _ _ _ _

@[simp] theorem reg_modChip (g : Chip → Chip) (j : Nat) (s : State) : (run (modChip g) s).reg j = s.reg j := rfl
@[simp] theorem chip_modChip (g : Chip → Chip) (s : State) : (run (modChip g) s).chip = g s.chip := rfl
@[simp] theorem tile_modChip (g : Chip → Chip) (t : Nat) (s : State) : (run (modChip g) s).tile t = s.tile t := rfl
@[simp] theorem queue_modChip (g : Chip → Chip) (q : Nat) (s : State) : (run (modChip g) s).queue q = s.queue q := rfl

@[simp] theorem reg_modTile (t j : Nat) (g : TileS → TileS) (s : State) : (run (modTile t g) s).reg j = s.reg j := rfl
@[simp] theorem chip_modTile (t : Nat) (g : TileS → TileS) (s : State) : (run (modTile t g) s).chip = s.chip := rfl
@[simp] theorem tile_modTile (t u : Nat) (g : TileS → TileS) (s : State) :
    (run (modTile t g) s).tile u = if u = t then g (s.tile t) else s.tile u := Sparse.get_set _ _ _ _ _

@[simp] theorem chip_setReg (k : Nat) (v : Word) (s : State) : (run (setReg k v) s).chip = s.chip := rfl
@[simp] theorem chip_setRegN (k v : Nat) (s : State) : (run (setRegN k v) s).chip = s.chip := rfl
@[simp] theorem chip_setF (k : Nat) (f : Fld) (v : Nat) (s : State) : (run (setF k f v) s).chip = s.chip := rfl
@[simp] theorem chip_setB (k : Nat) (f : Fld) (b : Bool) (s : State) : (run (setB k f b) s).chip = s.chip := rfl
@[simp] theorem chip_incF (k : Nat) (f : Fld) (n : Nat) (s : State) : (run (incF k f n) s).chip = s.chip := rfl
@[simp] theorem tile_setReg (k t : Nat) (v : Word) (s : State) : (run (setReg k v) s).tile t = s.tile t := rfl
@[simp] theorem tile_setRegN (k v t : Nat) (s : State) : (run (setRegN k v) s).tile t = s.tile t := rfl
@[simp] theorem tile_setF (k t : Nat) (f : Fld) (v : Nat) (s : State) : (run (setF k f v) s).tile t = s.tile t := rfl
@[simp] theorem tile_setB (k t : Nat) (f : Fld) (b : Bool) (s : State) : (run (setB k f b) s).tile t = s.tile t := rfl
@[simp] theorem tile_incF (k t : Nat) (f : Fld) (n : Nat) (s : State) : (run (incF k f n) s).tile t = s.tile t := rfl

@[simp] theorem queue_modQueue (q r : Nat) (g : QueueS → QueueS) (s : State) :
    (run (modQueue q g) s).queue r = if r = q then g (s.queue q) else s.queue r := Sparse.get_set _ _ _ _ _
@[simp] theorem reg_modQueue (q j : Nat) (g : QueueS → QueueS) (s : State) : (run (modQueue q g) s).reg j = s.reg j := rfl
@[simp] theorem chip_modQueue (q : Nat) (g : QueueS → QueueS) (s : State) : (run (modQueue q g) s).chip = s.chip := rfl

@[simp] theorem cue_modCue (k j : Nat) (g : CueS → CueS) (s : State) :
    (run (modCue k g) s).cue j = if j = k then g (s.cue k) else s.cue j := Sparse.get_set _ _ _ _ _
@[simp] theorem reg_modCue (k j : Nat) (g : CueS → CueS) (s : State) : (run (modCue k g) s).reg j = s.reg j := rfl
@[simp] theorem tile_modCue (k t : Nat) (g : CueS → CueS) (s : State) : (run (modCue k g) s).tile t = s.tile t := rfl

@[simp] theorem port_modPort (p j : Nat) (g : PortS → PortS) (s : State) :
    (run (modPort p g) s).port j = if j = p then g (s.port p) else s.port j := Sparse.get_set _ _ _ _ _
@[simp] theorem reg_modPort (p j : Nat) (g : PortS → PortS) (s : State) : (run (modPort p g) s).reg j = s.reg j := rfl

/-! ### Fields of words -/

/-- Bit `i` of a field. -/
theorem testBit_fget (w : Word) (f : Fld) (i : Nat) : (fget w f).testBit i = (decide (i < f.width) && w.getLsbD (f.lo + i)) := by
  simp [fget, Nat.testBit_mod_two_pow, Nat.testBit_shiftRight, BitVec.getLsbD]

/-- Bit `i` of a word with a field replaced: the field's own bits come from the value, the others stay. -/
theorem getLsbD_fset (w : Word) (f : Fld) (v i : Nat) (hi : i < 64) :
    (fset w f v).getLsbD i =
      if f.lo ≤ i ∧ i ≤ f.hi then v.testBit (i - f.lo) else w.getLsbD i := by
  simp only [fset, fmask, BitVec.getLsbD_or, BitVec.getLsbD_and, BitVec.getLsbD_not, BitVec.getLsbD_ofNat, hi, decide_true,
    Bool.true_and, Nat.testBit_shiftLeft, Nat.testBit_mod_two_pow, Fld.width]
  by_cases h1 : f.lo ≤ i
  · by_cases h2 : i ≤ f.hi
    · simp [h1, h2, show i - f.lo < f.hi + 1 - f.lo by omega]
    · simp [h1, h2, show ¬ i - f.lo < f.hi + 1 - f.lo by omega]
  · simp [h1]

/-- A field just set reads as the value stored in it. -/
theorem fget_fset_same (w : Word) (f : Fld) (v : Nat) (h : f.hi < 64) : fget (fset w f v) f = v % 2 ^ f.width := by
  apply Nat.eq_of_testBit_eq
  intro i
  rw [testBit_fget, Nat.testBit_mod_two_pow]
  by_cases hi : i < f.width
  · have hb : f.lo + i ≤ f.hi := by simp only [Fld.width] at hi; omega
    rw [getLsbD_fset w f v _ (by omega)]
    simp [hi, hb]
  · simp [hi]

/-- Setting a field leaves a field of other bits as it was. -/
theorem fget_fset_disjoint (w : Word) (f g : Fld) (v : Nat) (hg : g.hi < 64) (hd : f.hi < g.lo ∨ g.hi < f.lo) :
    fget (fset w f v) g = fget w g := by
  apply Nat.eq_of_testBit_eq
  intro i
  rw [testBit_fget, testBit_fget]
  by_cases hi : i < g.width
  · have hb : g.lo + i ≤ g.hi := by simp only [Fld.width] at hi; omega
    rw [getLsbD_fset w f v _ (by omega), if_neg (by omega)]
  · simp [hi]

end Sys2Proof.Machine
end

