-- ==== Sys2Proof/Laws/Exec.lean ====
section
/-! SUPPORT. What a command can do, said once: where it answers a next state, that state is the found one with a list of primitive
updates applied. -/

namespace Sys2Proof.Machine

/-- The outcome's next state, if any, is `s` with updates applied. -/
def ByUpdates (o : Out) (s : State) : Prop := ∀ t, o = .next t → ∃ us, t = applyAll us s

theorem byUpdates_next (s : State) : ByUpdates (.next s) s := fun _ h => ⟨[], by cases h; rfl⟩
theorem byUpdates_commit (tx : Tx) (s : State) : ByUpdates (commit tx s) s := fun _ h => ⟨tx s, by cases h; rfl⟩
theorem byUpdates_refused (r : Refusal) (s : State) : ByUpdates (.refused r) s := fun _ h => by cases h
theorem byUpdates_onTile (u : Nat) (tx : Tx) (s : State) : ByUpdates (onTile u tx s) s := by
  unfold onTile; split
  · exact byUpdates_commit _ _
  · exact byUpdates_refused _ _
theorem byUpdates_onPort (p : Nat) (tx : Tx) (s : State) : ByUpdates (onPort p tx s) s := by
  unfold onPort; split
  · exact byUpdates_commit _ _
  · exact byUpdates_refused _ _
theorem byUpdates_instruction (i : Instr) (st : StreamId) (tx : Tx) (s : State) : ByUpdates (instruction i st tx s) s := by
  unfold instruction; split
  · exact byUpdates_commit _ _
  · exact byUpdates_refused _ _

theorem byUpdates_ite {p : Prop} [Decidable p] {a b : Out} {s : State} (ha : ByUpdates a s) (hb : ByUpdates b s) :
    ByUpdates (if p then a else b) s := by
  split
  · exact ha
  · exact hb

/-- Every command is a transaction: its next state is the state it finds with updates applied. -/
theorem exec_byUpdates : ∀ (i : Instr) (s : State), ByUpdates (exec i s) s
  | .frameTick, _ => byUpdates_commit _ _
  | .slackWindowEnd, _ => byUpdates_commit _ _
  | .rollSwitchApply, _ => byUpdates_commit _ _
  | .servingRollChange _, _ => byUpdates_onTile _ _ _
  | .clockStepApply _, _ => byUpdates_commit _ _
  | .starved, _ => byUpdates_commit _ _
  | .frameEndRetire _, _ => byUpdates_onTile _ _ _
  | .realignCall _ _, _ => byUpdates_commit _ _
  | .scrubUnit _, _ => byUpdates_onTile _ _ _
  | .scrubLate _, _ => byUpdates_onTile _ _ _
  | .refetchComplete _ _ _, _ => byUpdates_onTile _ _ _
  | .grainFillUnit _, _ => byUpdates_onTile _ _ _
  | .grainFillComplete _, _ => byUpdates_onTile _ _ _
  | .codebookUnit _, _ => byUpdates_onTile _ _ _
  | .testUnit _ _ _, _ => byUpdates_onTile _ _ _
  | .autoTestUnit _ _, _ => byUpdates_onTile _ _ _
  | .retirementStart, _ => byUpdates_commit _ _
  | .retireWake, _ => byUpdates_commit _ _
  | .retireWeights, _ => byUpdates_commit _ _
  | .retireCopyUnit, _ => byUpdates_commit _ _
  | .retireStateUnit, _ => byUpdates_commit _ _
  | .oldSitePowerDown, _ => byUpdates_commit _ _
  | .retirementAbandon _, _ => byUpdates_commit _ _
  | .idle _ _ _, _ => byUpdates_instruction _ _ _ _
  | .cset _ _ _ _, _ => byUpdates_instruction _ _ _ _
  | .loop _ _ _ _ _, _ => byUpdates_instruction _ _ _ _
  | .jump _ _ _, _ => byUpdates_instruction _ _ _ _
  | .cmpset _ _ _ _ _ _, _ => byUpdates_instruction _ _ _ _
  | .br _ _ _ _ _, _ => byUpdates_instruction _ _ _ _
  | .waitc _ _ _ _, _ => byUpdates_instruction _ _ _ _
  | .frameEnd _ _, _ => byUpdates_instruction _ _ _ _
  | .cwaitg _ _ _ _, _ => byUpdates_instruction _ _ _ _
  | .stallRelease _, _ => byUpdates_ite (byUpdates_commit _ _) (byUpdates_refused _ _)
  | .dcpy _, _ => byUpdates_instruction _ _ _ _
  | .dmov _, _ => byUpdates_instruction _ _ _ _
  | .dgset _ _ _ _ _, _ => byUpdates_instruction _ _ _ _
  | .dfence _ _, _ => byUpdates_instruction _ _ _ _
  | .kvCommit _, _ => byUpdates_instruction _ _ _ _
  | .kvcDescApply _ _, _ => byUpdates_onTile _ _ _
  | .cueNext _ _, _ => byUpdates_instruction _ _ _ _
  | .cueWr _ _ _ _, _ => byUpdates_instruction _ _ _ _
  | .cueInject _ _ _ _, _ => byUpdates_instruction _ _ _ _
  | .cueAdmit _ _, _ => byUpdates_instruction _ _ _ _
  | .cueReply _ _ _, _ => byUpdates_instruction _ _ _ _
  | .cueRun _ _, _ => byUpdates_instruction _ _ _ _
  | .cueHalt _ _, _ => byUpdates_instruction _ _ _ _
  | .mmul _, _ => byUpdates_ite (byUpdates_instruction _ _ _ _) (byUpdates_refused _ _)
  | .mmula _, _ => byUpdates_ite (byUpdates_instruction _ _ _ _) (byUpdates_refused _ _)
  | .mout _, _ => byUpdates_instruction _ _ _ _
  | .msync _ _, _ => byUpdates_instruction _ _ _ _
  | .passDrain _, _ => byUpdates_onTile _ _ _
  | .passReplay _, _ => byUpdates_onTile _ _ _
  | .vsetvl _ _ _ _ _ _, _ => byUpdates_instruction _ _ _ _
  | .vsync _ _, _ => byUpdates_instruction _ _ _ _
  | .vadd _, _ => byUpdates_instruction _ _ _ _
  | .vsub _, _ => byUpdates_instruction _ _ _ _
  | .vmul _, _ => byUpdates_instruction _ _ _ _
  | .vfma _, _ => byUpdates_instruction _ _ _ _
  | .vmax _, _ => byUpdates_instruction _ _ _ _
  | .vmin _, _ => byUpdates_instruction _ _ _ _
  | .vcmp _, _ => byUpdates_instruction _ _ _ _
  | .vsel _, _ => byUpdates_instruction _ _ _ _
  | .vand _, _ => byUpdates_instruction _ _ _ _
  | .vor _, _ => byUpdates_instruction _ _ _ _
  | .vxor _, _ => byUpdates_instruction _ _ _ _
  | .vshl _, _ => byUpdates_instruction _ _ _ _
  | .vshr _, _ => byUpdates_instruction _ _ _ _
  | .vcvt _, _ => byUpdates_instruction _ _ _ _
  | .vpack _, _ => byUpdates_instruction _ _ _ _
  | .vunpack _, _ => byUpdates_instruction _ _ _ _
  | .vperm _, _ => byUpdates_instruction _ _ _ _
  | .vshuf _, _ => byUpdates_instruction _ _ _ _
  | .vpatch _ _ _ _, _ => byUpdates_instruction _ _ _ _
  | .vred _, _ => byUpdates_instruction _ _ _ _
  | .vsfu _, _ => byUpdates_instruction _ _ _ _
  | .smx1 _, _ => byUpdates_instruction _ _ _ _
  | .smx2 _, _ => byUpdates_instruction _ _ _ _
  | .rowstat _, _ => byUpdates_instruction _ _ _ _
  | .sample _, _ => byUpdates_instruction _ _ _ _
  | .tmask _, _ => byUpdates_instruction _ _ _ _
  | .vgrain _, _ => byUpdates_instruction _ _ _ _
  | .chipFreeze, _ => byUpdates_commit _ _
  | .flitHop _, _ => byUpdates_commit _ _
  | .heldWriteLand _, _ => byUpdates_onTile _ _ _
  | .readReqServe _ _, _ => byUpdates_onTile _ _ _
  | .fabricPacketArrive _ _ _ _, _ => byUpdates_onPort _ _ _
  | .packetRelease _, _ => byUpdates_onPort _ _ _
  | .completion _ _, _ => byUpdates_onPort _ _ _
  | .controlSymbolReceive _ _, _ => byUpdates_onPort _ _ _
  | .ecnRatePeriod, _ => byUpdates_commit _ _
  | .cmapEpoch, _ => byUpdates_commit _ _
  | .portTrainingDone _ _, _ => byUpdates_onPort _ _ _
  | .trainingTimeout _, _ => byUpdates_onPort _ _ _
  | .laneSwap _ _ _, _ => byUpdates_onPort _ _ _
  | .goToken _ _ _, _ => byUpdates_ite (byUpdates_commit _ _) (byUpdates_refused _ _)
  | .readyToken _, _ => byUpdates_commit _ _
  | .announceToken _, _ => byUpdates_commit _ _
  | .freezeToken _, _ => byUpdates_commit _ _
  | .clapEvent, _ => byUpdates_commit _ _
  | .clapTimeout, _ => byUpdates_commit _ _
  | .captureHold, _ => byUpdates_commit _ _
  | .captureDrained, _ => byUpdates_commit _ _
  | .commandFetch _, _ => byUpdates_ite (byUpdates_commit _ _) (byUpdates_refused _ _)
  | .statusReply _, _ => byUpdates_ite (byUpdates_commit _ _) (byUpdates_refused _ _)
  | .jobLoadReel _, _ => byUpdates_commit _ _
  | .jobStart _, _ => byUpdates_commit _ _
  | .jobStop _, _ => byUpdates_commit _ _
  | .rollLoad _, _ => byUpdates_commit _ _
  | .rollArm _, _ => byUpdates_commit _ _
  | .rollSwitch _, _ => byUpdates_commit _ _
  | .rollFree _, _ => byUpdates_commit _ _
  | .adapterLoad _, _ => byUpdates_commit _ _
  | .rollTableReceive _, _ => byUpdates_commit _ _
  | .shardReceive _ _, _ => byUpdates_commit _ _
  | .loadTimeout, _ => byUpdates_commit _ _
  | .oldRollFree, _ => byUpdates_commit _ _
  | .reqSubmit _, _ => byUpdates_commit _ _
  | .reqCancel _, _ => byUpdates_commit _ _
  | .deadlineExpiry _, _ => byUpdates_ite (byUpdates_commit _ _) (byUpdates_refused _ _)
  | .reqSlotFree _, _ => byUpdates_ite (byUpdates_commit _ _) (byUpdates_refused _ _)
  | .resultDrain _, _ => byUpdates_ite (byUpdates_commit _ _) (byUpdates_refused _ _)
  | .resultRingWrite _, _ => byUpdates_ite (byUpdates_commit _ _) (byUpdates_refused _ _)
  | .resultWindowRead _ _ _, _ => byUpdates_ite (byUpdates_commit _ _) (byUpdates_refused _ _)
  | .pwrVote _, _ => byUpdates_commit _ _
  | .pwrUnvote _, _ => byUpdates_commit _ _
  | .testRun _, _ => byUpdates_commit _ _
  | .calWrite _, _ => byUpdates_commit _ _
  | .dbgBreakSet _, _ => byUpdates_commit _ _
  | .telRead _, _ => byUpdates_commit _ _
  | .cmapRead _, _ => byUpdates_commit _ _
  | .ctxSave _, _ => byUpdates_commit _ _
  | .ctxRestore _, _ => byUpdates_commit _ _
  | .clkChange _, _ => byUpdates_commit _ _
  | .replayRecord _, _ => byUpdates_commit _ _
  | .replayRun _, _ => byUpdates_commit _ _
  | .doorbellSqTail _ _ _, _ => byUpdates_commit _ _
  | .doorbellCqHead _ _ _, _ => byUpdates_commit _ _
  | .doorbellResHead _ _ _, _ => byUpdates_commit _ _
  | .queueEnable _, _ => byUpdates_ite (byUpdates_commit _ _) (byUpdates_refused _ _)
  | .queueDisable _, _ => byUpdates_ite (byUpdates_commit _ _) (byUpdates_refused _ _)
  | .registerWrite _ _, _ => byUpdates_ite (byUpdates_commit _ _) (byUpdates_refused _ _)
  | .spkTblDataAccess _, _ => byUpdates_commit _ _
  | .tirClassDataAccess _, _ => byUpdates_commit _ _
  | .wpaCbDataAccess _ _, _ => byUpdates_onTile _ _ _
  | .sfuTblDataAccess _ _, _ => byUpdates_onTile _ _ _
  | .fabCmapDataRead, _ => byUpdates_commit _ _
  | .grnTblSelWrite _ _, _ => byUpdates_onTile _ _ _
  | .spkSelWrite _, _ => byUpdates_commit _ _
  | .wpaCbSelWrite _ _, _ => byUpdates_onTile _ _ _
  | .sfuTblSelWrite _ _, _ => byUpdates_onTile _ _ _
  | .grainFill _, _ => byUpdates_onTile _ _ _
  | .arm, _ => byUpdates_commit _ _
  | .hostNominate _ _, _ => byUpdates_commit _ _
  | .resume _, _ => byUpdates_onTile _ _ _
  | .retrain _, _ => byUpdates_onPort _ _ _
  | .openReq, _ => byUpdates_commit _ _
  | .bypassClose, _ => byUpdates_commit _ _
  | .bypassOpenGrant _, _ => byUpdates_commit _ _
  | .bypassGrantRetry, _ => byUpdates_commit _ _
  | .powerDrop _, _ => byUpdates_ite (byUpdates_commit _ _) (byUpdates_refused _ _)
  | .dropRecheck _, _ => byUpdates_ite (byUpdates_commit _ _) (byUpdates_refused _ _)
  | .idleEntry _, _ => byUpdates_ite (byUpdates_commit _ _) (byUpdates_refused _ _)
  | .wake _ _, _ => byUpdates_ite (byUpdates_commit _ _) (byUpdates_refused _ _)
  | .wakeHoldExpiry, _ => byUpdates_commit _ _
  | .powerSample _ _, _ => byUpdates_commit _ _
  | .thermalSample _ _, _ => byUpdates_ite (byUpdates_commit _ _) (byUpdates_refused _ _)
  | .canaryMeasure _ _ _ _, _ => byUpdates_ite (byUpdates_commit _ _) (byUpdates_refused _ _)
  | .domainStepGather _, _ => byUpdates_commit _ _
  | .ageReplan _ _ _ _, _ => byUpdates_commit _ _
  | .refClockLost, _ => byUpdates_commit _ _
  | .refClockRestored, _ => byUpdates_commit _ _
  | .powerOn _ _ _, _ => byUpdates_commit _ _
  | .powerFail, _ => byUpdates_commit _ _
  | .resetAssert, _ => byUpdates_commit _ _
  | .resetRelease _, _ => byUpdates_ite (byUpdates_commit _ _) (byUpdates_refused _ _)
  | .railFault _, _ => byUpdates_ite (byUpdates_commit _ _) (byUpdates_refused _ _)
  | .thermalTrip, _ => byUpdates_commit _ _
  | .fwUpdate _ _, _ => byUpdates_commit _ _
  | .fwActivate, _ => byUpdates_commit _ _
  | .pldmMessage _, _ => byUpdates_commit _ _
  | .heartbeat, _ => byUpdates_commit _ _
  | .managerTakeover, _ => byUpdates_commit _ _
  | .takeoverMessage _, _ => byUpdates_commit _ _
  | .triggerEdge _, _ => byUpdates_ite (byUpdates_commit _ _) (byUpdates_refused _ _)
  | .jtagInstruction _, _ => byUpdates_commit _ _
  | .portLinkLost _, _ => byUpdates_onPort _ _ _
  | .vaultAccessComplete _ _, _ => byUpdates_onTile _ _ _

end Sys2Proof.Machine
end

