-- ==== Sys2Proof/Laws/Memory.lean ====
section
/-! SUPPORT. The memory operations: each keeps the canonical form, and what a read gives after a write. -/

namespace Sys2Proof.Machine

/-- Writing bytes keeps the canonical form. -/
theorem putBytes_wf {m : List Host.Cell} (h : Memory.wf m = true) (k : Nat) (bs : List Byte) : Memory.wf (putBytes m k bs) = true := by
  induction bs generalizing m k with
  | nil => exact h
  | cons b bs ih => exact ih (Sparse.wf_set byte0 k b h) (k + 1)

/-- Below the written bytes a read gives what it gave. -/
theorem get_putBytes_below {m : List Host.Cell} {k j : Nat} (bs : List Byte) (h : j < k) :
    Sparse.get byte0 (putBytes m k bs) j = Sparse.get byte0 m j := by
  induction bs generalizing m k with
  | nil => rfl
  | cons b bs ih => rw [putBytes, ih (by omega), Sparse.get_set_ne byte0 (by omega)]

/-- A read after a write: inside the written bytes it gives the byte written, elsewhere what it gave. -/
theorem get_putBytes (m : List Host.Cell) (k j : Nat) (bs : List Byte) :
    Sparse.get byte0 (putBytes m k bs) j = if k ≤ j ∧ j < k + bs.length then bs.getD (j - k) 0 else Sparse.get byte0 m j := by
  induction bs generalizing m k with
  | nil => rw [if_neg (by simp)]; rfl
  | cons b bs ih =>
    rw [putBytes, ih]
    by_cases h1 : j = k
    · subst h1
      rw [if_neg (by omega), if_pos (by simp)]; simp [Sparse.get_set_same]
    · rw [Sparse.get_set_ne byte0 h1]
      by_cases h2 : k ≤ j ∧ j < k + (b :: bs).length
      · rw [if_pos h2, if_pos (by simp at h2; omega)]
        rw [show j - k = (j - (k + 1)) + 1 by omega]; rfl
      · rw [if_neg h2, if_neg (by simp at h2 ⊢; omega)]

/-- A run of host bytes is the list whose bytes stand there. -/
theorem hostBytes_eq (s : State) (a : Nat) (bs : List Byte) (h : ∀ j < bs.length, s.hostByte (a + j) = bs.getD j 0) :
    s.hostBytes a bs.length = bs := by
  induction bs generalizing a with
  | nil => rfl
  | cons b bs ih =>
    have h0 : s.hostByte a = b := by simpa using h 0 (by simp)
    have h1 := ih (a + 1) fun j hj => by
      have := h (j + 1) (by simpa using hj)
      simpa [show a + (j + 1) = a + 1 + j by omega] using this
    rw [List.length_cons, State.hostBytes, h0, h1]

/-- Bytes written from `k` on in an address space of `n` bytes, those that pass the top going on at 0, stand where they were written. -/
theorem get_wrapped (m : List Host.Cell) (n k j : Nat) (bs : List Byte) (h : bs.length ≤ n) (hk : k < n) (hj : j < bs.length) :
    Sparse.get byte0 (if bs.length ≤ n - k then putBytes m k bs else putBytes (putBytes m k (bs.take (n - k))) 0 (bs.drop (n - k)))
      ((k + j) % n) = bs.getD j 0 := by
  by_cases hn : bs.length ≤ n - k
  · rw [if_pos hn, Nat.mod_eq_of_lt (by omega), get_putBytes, if_pos (by omega), Nat.add_sub_cancel_left]
  · rw [if_neg hn, get_putBytes, get_putBytes]
    by_cases hs : j < n - k
    · rw [Nat.mod_eq_of_lt (by omega), if_neg (by simp; omega), if_pos (by simp; omega), Nat.add_sub_cancel_left]
      simp [List.getD, hs]
    · have e : k + j - n = j - (n - k) := by omega
      rw [Nat.mod_eq_sub_mod (by omega), Nat.mod_eq_of_lt (by omega), if_pos (by simp; omega), e]
      simp only [List.getD, List.getElem?_drop, Nat.sub_zero]
      rw [show n - k + (j - (n - k)) = j by omega]

/-- What `hostWrite` leaves at the address of its byte `j`. -/
theorem hostByte_hostWrite (s : State) (a : Nat) (bs : List Byte) (h : bs.length ≤ hostSpace) (j : Nat) (hj : j < bs.length) :
    (run (hostWrite a bs) s).hostByte (a + j) = bs.getD j 0 := by
  have e : (run (hostWrite a bs) s).host = if bs.length ≤ hostSpace - a % hostSpace then putBytes s.host (a % hostSpace) bs
      else putBytes (putBytes s.host (a % hostSpace) (bs.take (hostSpace - a % hostSpace))) 0 (bs.drop (hostSpace - a % hostSpace)) := by
    simp only [run, hostWrite]; split <;> rfl
  rw [State.hostByte, e, ← Nat.mod_add_mod]
  exact get_wrapped _ _ _ _ _ h (Nat.mod_lt _ (by decide)) hj

/-- A buffer of the host reads as it was written. -/
theorem hostBytes_hostWrite (s : State) (a : Nat) (bs : List Byte) (h : bs.length ≤ hostSpace) :
    (run (hostWrite a bs) s).hostBytes a bs.length = bs :=
  hostBytes_eq _ a bs (hostByte_hostWrite s a bs h)

/-- Every update keeps every store canonical. -/
theorem Upd.apply_canonical (u : Upd) (s : State) (h : s.canonical = true) : (u.apply s).canonical = true := by
  simp only [State.canonical, Bool.and_eq_true] at h
  obtain ⟨⟨⟨⟨⟨⟨⟨⟨h1, h2⟩, h3⟩, h4⟩, h5⟩, h6⟩, h7⟩, h8⟩, h9⟩ := h
  cases u <;> simp only [Upd.apply, State.canonical, Bool.and_eq_true] <;>
    refine ⟨⟨⟨⟨⟨⟨⟨⟨?_, ?_⟩, ?_⟩, ?_⟩, ?_⟩, ?_⟩, ?_⟩, ?_⟩, ?_⟩ <;>
    first
    | assumption
    | rfl
    | exact Sparse.wf_set _ _ _ ‹_›
    | exact putBytes_wf ‹_› _ _
    | exact Sparse.wf_filter _ ‹_› _

theorem applyAll_canonical (us : List Upd) (s : State) (h : s.canonical = true) : (applyAll us s).canonical = true := by
  induction us generalizing s with
  | nil => exact h
  | cons u us ih => exact ih _ (u.apply_canonical s h)

/-- Every transaction keeps every store canonical, memory among them. -/
theorem run_canonical (t : Tx) (s : State) (h : s.canonical = true) : (run t s).canonical = true := applyAll_canonical _ _ h

end Sys2Proof.Machine
end

