-- ==== Sys2Proof/Laws/Ops.lean ====
section
/-! SUPPORT. The shared operations of commands: issue, replies, status bits, time. Each lemma says once everything its operation does. -/

namespace Sys2Proof.Machine

section Issue
variable {st : StreamId} {h : Hdr} {i : Instr} {need : State → Nat → Need} {s : State}

/-- A stream that may not issue ignores the instruction. -/
theorem run_issue_stopped (h1 : s.canIssue st = false) : run (issue st h i need) s = s := by
  simp [run, issue, h1]

/-- Behind waiting instructions the instruction waits. -/
theorem run_issue_behind (h1 : s.canIssue st = true) (h2 : (s.waitq st).isEmpty = false) :
    run (issue st h i need) s = run (setWaitq st (s.waitq st ++ [i])) s := by
  simp [run, issue, h1, h2]

/-- While its own waits are not met the instruction waits. -/
theorem run_issue_waits (h1 : s.canIssue st = true) (h2 : (s.waitq st).isEmpty = true)
    (h3 : (need s (s.issueCycle st)).ready = false) :
    run (issue st h i need) s = run (setWaitq st [i]) (run (noteStalled st) (run (need s (s.issueCycle st)).blocked s)) := by
  simp only [State.issueCycle] at h3
  simp [run, issue, State.issueCycle, h1, h2, h3, chain, Tx.seq, skip]

/-- A bad address halts the stream. -/
theorem run_issue_bad (h1 : s.canIssue st = true) (h2 : (s.waitq st).isEmpty = true)
    (h3 : (need s (s.issueCycle st)).ready = true) (h4 : (need s (s.issueCycle st)).addrs.any s.badAddr = true) :
    run (issue st h i need) s = run (addrFault st) s := by
  simp only [State.issueCycle] at h3 h4
  simp only [run, issue, h1, h2, h3, h4]; rfl

/-- Else the issue is recorded and the effect happens. -/
theorem run_issue_goes (h1 : s.canIssue st = true) (h2 : (s.waitq st).isEmpty = true)
    (h3 : (need s (s.issueCycle st)).ready = true) (h4 : (need s (s.issueCycle st)).addrs.any s.badAddr = false) :
    run (issue st h i need) s =
      run (need s (s.issueCycle st)).go (run (issued st h (need s (s.issueCycle st)).words (need s (s.issueCycle st)).cyc) s) := by
  simp only [State.issueCycle] at h3 h4
  simp only [run, issue, h1, h2, h3, h4, State.issueCycle]
  simp [chain, Tx.seq, skip]

end Issue

/-- The reply of a command whose queue is enabled waits last on it; that of a disabled queue is dropped. -/
theorem queue_queueReply (c : Cmd) (status detail detail2 : Nat) (s : State) :
    s.answered (run (queueReply c status detail detail2) s) c status detail detail2 := by
  simp only [State.answered, queueReply, run_look]
  cases h : (s.queue c.queue).en <;> simp

/-- A reply changes no other queue. -/
theorem queue_queueReply_ne (c : Cmd) (status detail detail2 : Nat) (s : State) {q : Nat} (hq : q ≠ c.queue) :
    (run (queueReply c status detail detail2) s).queue q = s.queue q := by
  simp only [queueReply, run_look]
  cases h : (s.queue c.queue).en <;> simp [hq]

/-- A reply writes no register. -/
@[simp] theorem reg_queueReply (c : Cmd) (status detail detail2 k : Nat) (s : State) :
    (run (queueReply c status detail detail2) s).reg k = s.reg k := by
  simp only [queueReply, run_look]
  cases h : (s.queue c.queue).en <;> simp

/-- So with the reply of a fetched command, which then is no longer outstanding. -/
theorem queue_postReply (c : Cmd) (status detail detail2 : Nat) (s : State) :
    s.answered (run (postReply c status detail detail2) s) c status detail detail2 := by
  have h := queue_queueReply c status detail detail2 s
  simpa [State.answered, postReply, run_chain_cons, run_chain_nil] using h

/-- It changes no other queue. -/
theorem queue_postReply_ne (c : Cmd) (status detail detail2 : Nat) (s : State) {q : Nat} (hq : q ≠ c.queue) :
    (run (postReply c status detail detail2) s).queue q = s.queue q := by
  simp [postReply, run_chain_cons, run_chain_nil, queue_queueReply_ne c status detail detail2 s hq]

/-- It writes no register. -/
@[simp] theorem reg_postReply (c : Cmd) (status detail detail2 k : Nat) (s : State) :
    (run (postReply c status detail detail2) s).reg k = s.reg k := by
  simp [postReply, run_chain_cons, run_chain_nil]

/-- A fall of ALERT_N writes no register. -/
@[simp] theorem reg_noteAlert (was : Bool) (k : Nat) (s : State) : (run (noteAlert was) s).reg k = s.reg k := by
  rw [noteAlert, run_whenS]; split <;> simp

/-- An alert writes MOD_ALERT. -/
theorem reg_raiseAlert (f : Fld) (s : State) {k : Nat} (h : k ≠ R.MOD_ALERT) : (run (raiseAlert f) s).reg k = s.reg k := by
  have hr : run (raiseAlert f) s = run (noteAlert s.alerts) (run (setF R.MOD_ALERT f 1) s) := by
    simp [run, raiseAlert, chain, Tx.seq, skip]
  rw [hr]; simp [h]

/-- An event writes only MOD_ALERT or HIF_STAT. -/
theorem reg_postEvent (status detail : Nat) (s : State) {k : Nat} (h1 : k ≠ R.MOD_ALERT) (h2 : k ≠ R.HIF_STAT) :
    (run (postEvent status detail) s).reg k = s.reg k := by
  have hr : run (postEvent status detail) s =
      if (s.queue 0).en && decide (0 < (s.queue 0).cqRoom) then
        run (raiseAlert F.MOD_ALERT_EVENT) (run (modQueue 0 fun q => { q with
          replies := q.replies ++ [⟨0xFFFFFFFFFFFFFFFF, status, 0, detail, s.frame, 0, q.sqHead, true⟩] }) s)
      else run (incF R.HIF_STAT F.HIF_STAT_EVENT_LOST 1) s := by
    simp only [run, postEvent]
    split <;> simp [chain, Tx.seq, skip]
  rw [hr]
  split
  · rw [reg_raiseAlert _ _ h1]; simp
  · simp [h2]

/-- Raising a status bit writes only its register, and MOD_ALERT or HIF_STAT for its event. -/
theorem reg_raise (k : Nat) (f : Fld) (status detail : Nat) (s : State) {j : Nat} (h : j ≠ k) (h1 : j ≠ R.MOD_ALERT)
    (h2 : j ≠ R.HIF_STAT) : (run (raise k f status detail) s).reg j = s.reg j := by
  have hr : run (raise k f status detail) s =
      if s.rb k f then s else run (postEvent status detail) (run (setF k f 1) s) := by
    simp only [run, raise]
    split <;> simp [chain, Tx.seq, skip]
  rw [hr]
  split
  · rfl
  · rw [reg_postEvent _ _ _ h1 h2]; simp [h]

/-- Maps already in effect move nothing. -/
theorem moveSites_same (s : State) : run (moveSites s.mapsCur) s = s := by simp [run, moveSites]

/-- Moving contents between sites changes no register of the module. -/
theorem moveSites_reg (maps : List Nat) (s : State) {k : Nat} (hk : k < 0x100000) : (run (moveSites maps) s).reg k = s.reg k := by
  refine Keeps.updates (f := fun s => s.reg k) ?_ s
  intro s u hu s'
  simp only [moveSites] at hu
  split at hu
  · simp at hu
  · simp only [List.mem_append, List.mem_cons, List.mem_map, List.mem_filterMap, List.not_mem_nil, or_false, Option.map_eq_some_iff,
      rekey] at hu
    rcases hu with ((((((((((rfl | rfl) | ⟨c, -, rfl⟩) | ⟨c, -, rfl⟩) | ⟨c, -, x, -, rfl⟩) | ⟨c, -, x, -, rfl⟩) | ⟨c, -, x, -, rfl⟩) |
      ⟨c, -, x, ⟨y, -, rfl⟩, rfl⟩) | ⟨c, -, x, -, rfl⟩) | ⟨c, -, x, -, rfl⟩) | rfl)
    · rfl
    · exact Sparse.get_filter _ _ fun v => by simp [isTileKey, Nat.not_le.mpr hk]
    all_goals simp only [State.reg, Upd.apply]
    exact Sparse.get_set_ne _ (show k ≠ _ by omega) _ _

/-- Time moving on changes nothing but the chip's clocks and its congestion counts. -/
theorem elapse_sameMemory (n : Nat) (s : State) :
    s.sameMemory (run (elapse n) s) ∧ (run (elapse n) s).regs = s.regs ∧ (run (elapse n) s).tiles = s.tiles :=
  ⟨⟨rfl, rfl, rfl, rfl, rfl, rfl, rfl⟩, rfl, rfl⟩

/-- The always-on time after `n` cycles, in parts of a nanosecond. -/
theorem elapse_ns (n : Nat) (s : State) :
    (run (elapse n) s).chip.ns * s.perUnit + (run (elapse n) s).chip.nsSub = s.chip.ns * s.perUnit + s.chip.nsSub + 80 * n := by
  have h : (run (elapse n) s).chip.ns = s.chip.ns + (s.chip.nsSub + 80 * n) / s.perUnit := rfl
  have h' : (run (elapse n) s).chip.nsSub = (s.chip.nsSub + 80 * n) % s.perUnit := rfl
  rw [h, h', Nat.add_mul]
  have := Nat.div_add_mod' (s.chip.nsSub + 80 * n) s.perUnit
  omega

/-- A granule's bit after another is set. -/
theorem isFull_full (s : State) (t g u j : Nat) (b : Bool) (hg : g < 6144) (hj : j < 6144) :
    ((Upd.full (t * 6144 + g) b).apply s).isFull u j = if u = t ∧ j = g then b else s.isFull u j := by
  simp only [State.isFull, Upd.apply, Sparse.get_set, Nat.mod_eq_of_lt hj]
  by_cases h : u * 6144 + j = t * 6144 + g
  · rw [if_pos h, if_pos ⟨by omega, by omega⟩]
  · rw [if_neg h, if_neg (fun ⟨a, b⟩ => h (by rw [a, b]))]

end Sys2Proof.Machine
end

