-- ==== Sys2Proof/Tests/Slice0.lean ====
section
/-! SUPPORT. Tests: the translator's checks, a witness of the hypotheses of every statement, and small effects worked out by hand from
the rules. -/

namespace Sys2Proof.Tests

set_option Elab.async false

open Sys2Proof.Machine

/-! ### What the translator refuses: one term for each check -/

def h0 : Hdr := ⟨0, false⟩
def hE : Hdr := ⟨0, true⟩
def hTag : Hdr := ⟨64, false⟩
def c0 : StreamId := .tile 0 0
def d0 : StreamId := .tile 0 1
def m0 : StreamId := .tile 0 2
def v0 : StreamId := .tile 0 3
def dcpy0 : DcpyArgs := ⟨0, h0, 0, 1, 0, 1, 0, false, 0⟩
def dmov0 : DmovArgs := ⟨0, h0, 0, 1, 0, false, 0, false, 0, false, 0⟩
def kv0 : KvArgs := ⟨0, h0, 0, 0, 0, 0, false, 0, false, 0⟩
def mm0 : MArgs := ⟨0, h0, 3, 0, 1, 3, 0, 0, false, 0, 0, 0, 0, false, 0, 0, 0, 0⟩
def mout0 : MoutArgs := ⟨0, h0, 0, 0, 0, 0, 8⟩
def va0 : VArgs := ⟨0, h0, 0, 0, 0, 0, 0, false, false, false, 0, false, 0, 0, 0, 0, 0, 0⟩
/-- The global address of space `sp`, offset `o`, tile 0 of module 0. -/
def gOf (sp o : Nat) : Nat := gaddr 0 0 sp o

theorem test_wf_common : ([.idle c0 h0 0xFFFF, .cset (.cue 7) h0 7 0xFFFFFFFF, .loop d0 hE 7 4095 0x7FFFFF, .jump m0 h0 4095,
    .cmpset (.cue 0) h0 3 10 5 0x1FFFFFFF, .br v0 h0 3 true 4095, .waitc c0 h0 3 false, .frameEnd 511 h0, .cwaitg 0 h0 2 6143]
    : List Instr).all Instr.wf = true := by decide +kernel

theorem test_wf_common_refuses : ([.idle (.tile 512 0) h0 0, .idle (.tile 0 4) h0 0, .idle (.cue 8) h0 0, .idle c0 hE 0, .idle (.cue 0) hE 0,
    .idle d0 hTag 0, .idle c0 h0 0x10000, .cset c0 h0 8 0, .cset c0 h0 0 0x100000000, .loop c0 h0 8 0 1, .loop c0 h0 0 4096 1,
    .loop c0 h0 0 0 0, .loop c0 h0 0 0 0x800000, .jump c0 h0 4096, .cmpset c0 h0 4 0 0 0, .cmpset c0 h0 0 10 0 0, .cmpset (.cue 0) h0 0 11 0 0,
    .cmpset c0 h0 0 0 6 0, .cmpset c0 h0 0 0 0 0x20000000, .br c0 h0 4 true 0, .br c0 h0 0 true 4096, .waitc c0 h0 4 true, .frameEnd 512 h0,
    .frameEnd 0 hE, .cwaitg 0 hE 1 0, .cwaitg 0 h0 0 0, .cwaitg 0 h0 3 0, .cwaitg 0 h0 1 6144] : List Instr).any Instr.wf = false := by
  decide +kernel

theorem test_wf_d : ([.dcpy { dcpy0 with len := 63, src := 6143, dst := 6143, wm := 2 }, .dmov { dmov0 with len := 32767, loc := 32767 },
    .dmov { dmov0 with g := gOf 1 64 }, .dgset 0 hE 6143 6144 true, .dfence 0 h0, .kvCommit { kv0 with ntf := true, g := gOf 0 1 }, .kvCommit kv0]
    : List Instr).all Instr.wf = true := by decide +kernel

theorem test_wf_d_refuses : ([.dcpy { dcpy0 with tile := 512 }, .dcpy { dcpy0 with h := hTag }, .dcpy { dcpy0 with gm := 3 }, .dcpy { dcpy0 with len := 0 },
    .dcpy { dcpy0 with len := 64 }, .dcpy { dcpy0 with src := 6144 }, .dcpy { dcpy0 with dst := 6144 }, .dcpy { dcpy0 with wm := 3 },
    .dcpy { dcpy0 with ctr := 8 }, .dmov { dmov0 with tile := 512 }, .dmov { dmov0 with h := hTag }, .dmov { dmov0 with gm := 3 },
    .dmov { dmov0 with len := 0 }, .dmov { dmov0 with len := 32768 }, .dmov { dmov0 with loc := 32768 }, .dmov { dmov0 with wm := 3 },
    .dmov { dmov0 with ctr := 8 }, .dmov { dmov0 with g := 2 ^ 64 }, .dmov { dmov0 with g := gOf 2 0 }, .dmov { dmov0 with g := gOf 4 0 },
    .dmov { dmov0 with g := gOf 5 0 }, .dmov { dmov0 with g := gOf 1 64, wm := 1 }, .dmov { dmov0 with g := gOf 1 64, dir := true, gm := 1 },
    .dmov { dmov0 with g := gOf 1 32 }, .dgset 512 h0 0 1 true, .dgset 0 hTag 0 1 true, .dgset 0 h0 6144 1 true, .dgset 0 h0 0 0 true,
    .dgset 0 h0 0 6145 true, .dfence 512 h0, .dfence 0 hTag, .kvCommit { kv0 with tile := 512 }, .kvCommit { kv0 with h := hTag },
    .kvCommit { kv0 with gm := 3 }, .kvCommit { kv0 with desc := 64 }, .kvCommit { kv0 with path := 0x8000 }, .kvCommit { kv0 with ncm1 := 16 },
    .kvCommit { kv0 with nwm := 3 }, .kvCommit { kv0 with g := 1 }, .kvCommit { kv0 with ntf := true, g := gOf 1 0 }] : List Instr).any
    Instr.wf = false := by decide +kernel

theorem test_wf_cue : ([.cueNext 7 h0, .cueWr 7 h0 7 7, .cueInject 7 h0 7 2, .cueAdmit 7 h0, .cueReply 7 h0 0xFFFF, .cueRun 7 h0, .cueHalt 7 h0]
    : List Instr).all Instr.wf = true ∧ ([.cueNext 8 h0, .cueNext 0 hE, .cueWr 8 h0 0 0, .cueWr 0 hE 0 0, .cueWr 0 h0 8 0, .cueWr 0 h0 0 8,
    .cueInject 8 h0 0 0, .cueInject 0 hE 0 0, .cueInject 0 h0 8 0, .cueInject 0 h0 0 3, .cueAdmit 8 h0, .cueAdmit 0 hE, .cueReply 8 h0 0,
    .cueReply 0 hE 0, .cueReply 0 h0 0x10000, .cueRun 8 h0, .cueRun 0 hE, .cueHalt 8 h0, .cueHalt 0 hE] : List Instr).any Instr.wf = false := by
  decide +kernel

theorem test_wf_m : ([.mmul { mm0 with k8 := 16383, woff := 0x3FFF, ag := 0x1FFF, og := 0x1FFF, boff := 0xFFFFFF }, .mmul { mm0 with fmt := 5, k8 := 4 },
    .mmul { mm0 with fmt := 13, k8 := 8, cb := 3 }, .mmul { mm0 with fmt := 11, afmt := 11 }, .mmul { mm0 with fmt := 1, afmt := 2 },
    .mmul { mm0 with fmt := 1, afmt := 2, bchk := 2 }, .mmul { mm0 with adp := true }, .mmula mm0, .mout { mout0 with fmt := 4, ostr := 4095 },
    .mout { mout0 with fmt := 11, olay := 1 }, .mout { mout0 with fmt := 5, olay := 1 }, .mout { mout0 with fmt := 15 }, .msync 0 h0]
    : List Instr).all Instr.wf = true := by decide +kernel

theorem test_wf_m_refuses : ([.mmul { mm0 with tile := 512 }, .mmul { mm0 with h := hTag }, .mmul { mm0 with gm := 3 }, .mmul { mm0 with k8 := 0 },
    .mmul { mm0 with k8 := 16384 }, .mmul { mm0 with fmt := 5, k8 := 5 }, .mmul { mm0 with fmt := 13, k8 := 4 }, .mmul { mm0 with ncol := 16 },
    .mmul { mm0 with cb := 1 }, .mmul { mm0 with fmt := 13, k8 := 8, cb := 4 }, .mmul { mm0 with aslot := 16 }, .mmul { mm0 with bchk := 3 },
    .mmul { mm0 with bchk := 2 }, .mmul { mm0 with tsel := 4 }, .mmul { mm0 with ctr := 8 }, .mmul { mm0 with woff := 0x4000 },
    .mmul { mm0 with ag := 0x2000 }, .mmul { mm0 with og := 0x2000 }, .mmul { mm0 with boff := 0x1000000 }, .mmul { mm0 with afmt := 1 },
    .mmul { mm0 with fmt := 0 }, .mmul { mm0 with fmt := 11, afmt := 11, adp := true }, .mmul { mm0 with fmt := 1, afmt := 1, adp := true },
    .mmula { mm0 with adp := true }, .mmula { mm0 with fmt := 11, afmt := 11 }, .mmula { mm0 with fmt := 1, afmt := 1 }, .mmula { mm0 with woff := 1 },
    .mmula { mm0 with boff := 1 }, .mout { mout0 with tile := 512 }, .mout { mout0 with h := hTag }, .mout { mout0 with fmt := 5 },
    .mout { mout0 with fmt := 0, olay := 1 }, .mout { mout0 with olay := 2 }, .mout { mout0 with rnd := 2 }, .mout { mout0 with wm := 3 },
    .mout { mout0 with ostr := 0 }, .mout { mout0 with ostr := 4096 }, .msync 512 h0, .msync 0 hTag] : List Instr).any Instr.wf = false := by
  decide +kernel

theorem test_wf_v : ([.vsetvl 0 h0 0 false 0xFFFFFF 0, .vsetvl 0 h0 2 true 0 0x7FFF, .vsync 0 h0, .vadd { va0 with srca := 0x3FFFF, srcb := 0x7FFF, dst := 0x7FFF },
    .vsub { va0 with tid := 0xFFFF, rnd := 2 }, .vmul va0, .vfma { va0 with srcc := 1 }, .vmax { va0 with sat := true }, .vmin { va0 with bb := true },
    .vcmp { va0 with xf := 3, fmt := 1 }, .vsel { va0 with srcc := 1 }, .vand va0, .vor va0, .vxor va0, .vshl { va0 with fmt := 15, dfmt := 15 },
    .vshr { va0 with fmt := 15, dfmt := 15, xf := 1 }, .vcvt { va0 with fmt := 3 }, .vpack { va0 with dfmt := 10 }, .vpack { va0 with dfmt := 12 },
    .vpack { va0 with dfmt := 11, xf := 1 }, .vunpack { va0 with fmt := 7 }, .vperm va0, .vshuf { va0 with xf := 3 }, .vpatch va0 8191 3 31,
    .vred { va0 with xf := 2 }, .vred { va0 with dfmt := 15, xf := 3 }, .vsfu { va0 with xf := 5 }, .smx1 { va0 with xf := 1 }, .smx2 va0, .rowstat va0,
    .sample va0, .tmask { va0 with fmt := 11 }, .tmask { va0 with fmt := 11, dfmt := 15, xf := 1 }, .vgrain { va0 with fmt := 15, dfmt := 15, tid := 9 }]
    : List Instr).all Instr.wf = true := by decide +kernel

theorem test_wf_v_fields_refused : ([.vsetvl 512 h0 0 false 0 0, .vsetvl 0 hTag 0 false 0 0, .vsetvl 0 h0 1 false 0 0, .vsetvl 0 h0 0 false 0x1000000 0,
    .vsetvl 0 h0 0 false 0 1, .vsetvl 0 h0 3 true 0 0, .vsetvl 0 h0 0 true 1 0, .vsetvl 0 h0 0 true 0 0x8000, .vsync 512 h0, .vsync 0 hTag,
    .vadd { va0 with tile := 512 }, .vadd { va0 with h := hTag }, .vadd { va0 with gm := 3 }, .vadd { va0 with rnd := 3 }, .vadd { va0 with wm := 3 },
    .vadd { va0 with ctr := 8 }, .vadd { va0 with tid := 0x10000 }, .vcmp { va0 with xf := 64 }, .vadd { va0 with srca := 0x40000 },
    .vadd { va0 with srcb := 0x8000 }, .vfma { va0 with srcc := 0x8000 }, .vadd { va0 with dst := 0x8000 }, .vadd { va0 with fmt := 5 },
    .vadd { va0 with dfmt := 5 }, .vadd { va0 with srcc := 1 }, .vadd { va0 with xf := 1 }, .vsub { va0 with srcc := 1 }, .vsub { va0 with xf := 1 },
    .vmul { va0 with srcc := 1 }, .vmul { va0 with xf := 1 }, .vfma { va0 with xf := 1 }, .vmax { va0 with srcc := 1 }, .vmax { va0 with xf := 1 },
    .vmin { va0 with srcc := 1 }, .vmin { va0 with xf := 1 }, .vcmp { va0 with srcc := 1 }, .vcmp { va0 with xf := 4 }, .vsel { va0 with xf := 1 },
    .vsel { va0 with dfmt := 1 }, .vand { va0 with sat := true }, .vand { va0 with rnd := 1 }, .vand { va0 with tid := 1 }, .vand { va0 with dfmt := 1 },
    .vor { va0 with srcc := 1 }, .vor { va0 with dfmt := 1 }, .vxor { va0 with xf := 1 }, .vxor { va0 with dfmt := 1 }] : List Instr).any Instr.wf = false := by
  decide +kernel

theorem test_wf_v_forms_refused : ([.vshl va0, .vshl { va0 with fmt := 15, dfmt := 11 }, .vshl { va0 with fmt := 15, dfmt := 15, xf := 1 },
    .vshr va0, .vshr { va0 with fmt := 15, dfmt := 15, xf := 2 }, .vshr { va0 with fmt := 15, dfmt := 15, sat := true }, .vcvt { va0 with srcb := 1 },
    .vcvt { va0 with bb := true }, .vcvt { va0 with fmt := 3, sat := true }, .vpack { va0 with dfmt := 10, sat := true }, .vpack { va0 with fmt := 3, dfmt := 10 }, .vpack { va0 with dfmt := 0 },
    .vpack { va0 with dfmt := 10, xf := 2 }, .vpack { va0 with dfmt := 12, xf := 1 },
    .vpack { va0 with dfmt := 10, srcb := 1 }, .vunpack va0, .vunpack { va0 with fmt := 7, dfmt := 3 },
    .vunpack { va0 with fmt := 7, xf := 1 }, .vperm { va0 with dfmt := 1 }, .vperm { va0 with srcc := 1 },
    .vshuf { va0 with dfmt := 1 }, .vshuf { va0 with xf := 4 }, .vpatch va0 0 0 0, .vpatch va0 8192 0 0,
    .vpatch va0 1 4 0, .vpatch va0 1 0 32, .vpatch { va0 with srcb := 1 } 1 0 0, .vpatch { va0 with dfmt := 1 } 1 0 0, .vred { va0 with fmt := 5 },
    .vred { va0 with srcb := 1 }, .vred { va0 with tid := 1 }, .vred { va0 with rnd := 2 }, .vred { va0 with xf := 4 }, .vred { va0 with dfmt := 1 },
    .vred { va0 with xf := 3 }, .vsfu { va0 with fmt := 11 }, .vsfu { va0 with dfmt := 11 }, .vsfu { va0 with xf := 6 }, .vsfu { va0 with srcb := 1 },
    .smx1 { va0 with fmt := 11 }, .smx1 { va0 with dfmt := 1 }, .smx1 { va0 with xf := 2 }, .smx1 { va0 with srcb := 1 }, .smx1 { va0 with tid := 1 },
    .smx1 { va0 with rnd := 2 }, .smx2 { va0 with fmt := 11 }, .smx2 { va0 with dfmt := 11 }, .smx2 { va0 with bb := true }, .smx2 { va0 with srcc := 1 },
    .rowstat { va0 with fmt := 11 }, .rowstat { va0 with dfmt := 1 }, .rowstat { va0 with srcb := 1 }, .rowstat { va0 with tid := 1 },
    .rowstat { va0 with rnd := 2 }, .sample { va0 with fmt := 11 }, .sample { va0 with dfmt := 1 }, .sample { va0 with srcc := 1 },
    .sample { va0 with bb := true }, .sample { va0 with rnd := 2 }, .tmask va0, .tmask { va0 with fmt := 11, xf := 2 },
    .tmask { va0 with fmt := 11, ta := true }, .tmask { va0 with fmt := 11, srca := 1 }, .tmask { va0 with fmt := 11, srcc := 1 },
    .tmask { va0 with fmt := 11, bb := true }, .tmask { va0 with fmt := 11, dfmt := 3 }, .tmask { va0 with fmt := 11, xf := 1 },
    .vgrain va0, .vgrain { va0 with fmt := 15, dfmt := 11 }, .vgrain { va0 with fmt := 15, dfmt := 15, gm := 1 },
    .vgrain { va0 with fmt := 15, dfmt := 15, srca := 1 }, .vgrain { va0 with fmt := 15, dfmt := 15, srcb := 1 },
    .vgrain { va0 with fmt := 15, dfmt := 15, srcc := 1 }, .vgrain { va0 with fmt := 15, dfmt := 15, xf := 1 },
    .vgrain { va0 with fmt := 15, dfmt := 15, rnd := 1 }, .vgrain { va0 with fmt := 15, dfmt := 15, sat := true },
    .vgrain { va0 with fmt := 15, dfmt := 15, bb := true }, .vgrain { va0 with fmt := 15, dfmt := 15, ta := true }] : List Instr).any Instr.wf = false := by
  decide +kernel

/-- The words that R14 and R86 spell: the example address, module 5, tile 103, space 1, offset 0x40. -/
theorem test_address_fields : gMod 0x014CE40000000040 = 5 ∧ gTile 0x014CE40000000040 = 103 ∧ gSpace 0x014CE40000000040 = 1 ∧
    gOff 0x014CE40000000040 = 0x40 := by decide

/-! ### Witnesses: for each statement with hypotheses, a state and operands that meet those of each clause -/

/-- A module that runs a job, its tiles 0 and 1 with all four streams. -/
def on : State := run (chain [setF R.FRM_CTL F.FRM_CTL_RUN 1, forEach [0, 1] fun u => setF (R.STR_CTL u) F.STR_CTL_STREAM_EN 15]) State.reset

/-- It with granules 0 to 7 of tile 0 full. -/
def onFull : State := run (forEach (List.range 8) fun g => setFull 0 g true) on

theorem hyp_StepRunsFront : ({ State.reset with pending := [.arm, .resume 0] } : State).pending = .arm :: [.resume 0] := rfl

theorem hyp_QueueAndIdle : State.reset.pending = [] ∧ ∃ t, exec (.jump c0 h0 5) on = .next t := ⟨rfl, _, rfl⟩

theorem hyp_StepKeepsSound : on.sound = true ∧ ∃ t, step { on with pending := [.jump c0 h0 5] } = .next t := ⟨by decide +kernel, _, rfl⟩

theorem hyp_CommonGroupResults : on.fresh d0 = true ∧ on.fresh (.cue 7) = true ∧ (Instr.idle d0 h0 0xFFFF).wf = true ∧
    (Instr.cset d0 h0 7 0xFFFFFFFF).wf = true ∧ (Instr.jump d0 hE 4095).wf = true ∧ (Instr.cmpset d0 h0 3 9 5 0x1FFFFFFF).wf = true := by
  decide +kernel

theorem hyp_BranchResults : on.fresh d0 = true ∧ (Instr.loop d0 h0 7 4095 0x7FFFFF).wf = true ∧ (Instr.br d0 h0 3 true 4095).wf = true ∧
    (Instr.waitc d0 h0 3 false).wf = true ∧ on.cmpResult d0 3 (on.issueCycle d0) = false := by decide +kernel

theorem hyp_CommonGroupFrame : ([.idle c0 h0 1, .cset c0 h0 1 1, .loop c0 h0 1 1 1, .jump c0 h0 1, .cmpset c0 h0 1 1 1 1, .br c0 h0 1 true 1,
    .waitc c0 h0 1 true] : List Instr).all (fun i => match exec i on with | .next _ => true | _ => false) = true := by decide +kernel

theorem hyp_WaitsPass : on.fresh c0 = true ∧ (Instr.cwaitg 0 h0 2 7).wf = true ∧ onFull.readReady 0 1 (7 * 256) 256 = true ∧ onFull.fresh c0 = true ∧
    (Instr.frameEnd 0 h0).wf = true ∧ on.fresh m0 = true ∧ (Instr.msync 0 h0).wf = true ∧ (on.tile 0).passes = [] ∧
    on.fresh v0 = true ∧ (Instr.vsync 0 h0).wf = true ∧ (on.tile 0).vops = [] ∧ on.fresh d0 = true ∧ (Instr.dfence 0 h0).wf = true ∧
    ∀ x ∈ on.chip.xfers, x.tile = 0 → x.stream ≠ 1 := by decide +kernel

/-- A pass of tile 0 with nothing read yet. -/
def pass0 : PassS := ⟨mm0, {}, 0, 0, 0, 0, 0, false, 0, none, false, false, 0, false, [], [], [], 0, 0, 0, [], 0, 0, false, none, []⟩
/-- A transfer of tile 0's D stream to tile 1. -/
def xfer0 : Xfer := ⟨0, 0, 1, 0, 1, 0, 64, 0, [], false, 0, 1⟩
def vop0 : VOp := ⟨.add, { va0 with gm := 1 }, 1, 0, 0, 0, 0, 0, 0, []⟩

/-- Tile 0 with a pass, an operation and a transfer in flight, and a CWAITG with a JUMP behind it waiting. -/
def busy : State := run (chain [modTile 0 (fun x => { x with passes := [pass0], vops := [vop0] }), modChip fun c => { c with xfers := [xfer0], nextId := 1 }]) on

def waiting (s : State) : State := run (modTile 0 fun x => { x with c := { x.c with waitq := [.cwaitg 0 h0 2 0, .jump c0 h0 4095] } }) s

theorem hyp_WaitsHoldAndResume : on.readReady 0 1 0 256 = false ∧ (Instr.cwaitg 0 h0 1 0).wf = true ∧ on.fresh c0 = true ∧
    on.cmpResult d0 0 (on.issueCycle d0) = (!true) ∧ busy.fresh m0 = true ∧ (busy.tile 0).passes ≠ [] ∧ busy.fresh v0 = true ∧
    (busy.tile 0).vops ≠ [] ∧ busy.fresh d0 = true ∧ (∃ x ∈ busy.chip.xfers, x.tile = 0 ∧ x.stream = 1) ∧
    ([on, onFull].all fun s => (waiting s).streamOk c0 && (waiting s).canIssue c0 && !(waiting s).rb (R.STR_BRK_COUNT 0 0) F.STR_BRK_COUNT_EN &&
      !(waiting s).rb (R.STR_BRK_TAG 0 0) F.STR_BRK_TAG_EN && decide ((waiting s).waitq c0 = [.cwaitg 0 h0 2 0, .jump c0 h0 4095])) = true ∧
    (waiting on).readReady 0 1 0 256 = false ∧ (waiting onFull).readReady 0 1 0 256 = true := by decide +kernel

theorem hyp_DgsetResult : on.fresh d0 = true ∧ (Instr.dgset 0 h0 6143 6144 true).wf = true ∧ (Instr.dgset 0 h0 0 1 false).wf = true := by
  decide +kernel

/-- DCPY and DMOV into the own scratchpad, in each write mode. -/
theorem hyp_LocalCopyResult : on.sound = true ∧ onFull.sound = true ∧ on.settledBy 0 on.chip.fcyc = true ∧ onFull.settledBy 0 onFull.chip.fcyc = true ∧
    (let a := { dcpy0 with wm := 0, len := 63, src := 6143, dst := 6144 - 63 }
     on.fresh d0 = true ∧ (Instr.dcpy a).wf = true ∧ on.readReady 0 0 (256 * 6143) (256 * 63) = true ∧
       on.localRoom 0 0 0 (256 * (6144 - 63)) (256 * 63) = true) ∧
    (on.localRoom 0 1 0 256 256 = true ∧ (Instr.dcpy { dcpy0 with wm := 1 }).wf = true) ∧
    (onFull.fresh d0 = true ∧ onFull.readReady 0 1 0 256 = true ∧ onFull.localRoom 0 2 0 256 256 = true ∧ onFull.allFull 0 256 256 = true ∧
      (Instr.dcpy { dcpy0 with gm := 1, wm := 2 }).wf = true) ∧
    (Instr.dmov dmov0).wf = true ∧ gMod (gAdd (gOf 0 64) 0) = on.position ∧ gTile (gAdd (gOf 0 64) 0) = 0 ∧ gSpace (gAdd (gOf 0 64) 0) = 0 ∧
    on.localRoom 0 0 0 (gOff (gAdd (gOf 0 64) 0) % 0x180000) 64 = true := by decide +kernel

theorem hyp_DmovSends : on.fresh d0 = true ∧ on.settledBy 0 on.chip.fcyc = true ∧ (let g := gaddr 0 511 0 0x17FFC0
    on.badAddr (gAdd g 0) = false ∧ gMod (gAdd g 0) = on.position ∧ gSpace (gAdd g 0) ≠ 7 ∧ gTile (gAdd g 0) ≠ 0 ∧ on.readReady 0 0 0 64 = true ∧
      (Instr.dmov { dmov0 with g := g }).wf = true ∧ (Instr.dmov { dmov0 with g := g, dir := true }).wf = true) := by decide +kernel

def readReq0 : ReadReq := ⟨3, 0, 0x17FFC0, 2, 0, false, 0, 1, 0, 0, 0, 7, 0, 1, 0⟩
def asked : State := run (modTile 0 fun x => { x with reads := [readReq0] }) on

theorem hyp_ReadRequestServed : asked.tileOk 0 = true ∧ asked.meshHeld = false ∧
    (asked.tile 0).reads.find? (fun q => q.id == readReq0.id) = some readReq0 ∧ readReq0.space = 0 ∧ readReq0.retMod = asked.position ∧
    readReq0.retTile < 512 ∧ readReq0.retSpace < 8 ∧ readReq0.retOff < 0x40000000000 ∧ asked.settledBy 0 readReq0.cyc = true ∧
    asked.readReady 0 0 (0x17FFC0 % 0x180000) 128 = true := by decide +kernel

/-- Tile 0 with a commit of descriptor 63 in flight. -/
def committing : State := run (modTile 0 fun x => { x with kvInflight := [(63, 40, 5)] }) on

/-- Descriptor 63 usable, two entries of one line with room for one more; the path line at line 4 names candidate 2. -/
def committable : State := run (chain [setTw (R.KVC_DESC_0 0 63) (2 ^ 24 + 100), setTw (R.KVC_DESC_1 0 63) 3, setTw (R.KVC_DESC_2 0 63) 2,
  setF (R.KVC_STAGE 0 63) F.KVC_STAGE_STG 200, fun _ => [.mem (memKey 0 0 256) [1, 0, 0, 0, 2]]]) on

/-- A commit of it passes the checks. -/
theorem hyp_KvCommitResult_passes : (let a := { kv0 with desc := 63, path := 4, ncm1 := 15 }
    let bs := committable.rd 0 0 256 64
    committable.fresh d0 = true ∧ (Instr.kvCommit a).wf = true ∧ a.ntf = false ∧ committable.readReady 0 0 256 64 = true ∧
      committable.settledBy 0 committable.chip.fcyc = true ∧ committable.kvCheck a bs = 0 ∧
      committable.kvCopies a bs = [((200 + 2) * 64, (100 + 2) * 64)] ∧
      ∀ x ∈ committable.kvCopies a bs, committable.needsRefetch 1 0 x.1 64 = false) := by decide +kernel

theorem hyp_KvCommitResult : on.fresh d0 = true ∧ on.settledBy 0 on.chip.fcyc = true ∧
    on.kvCopies { kv0 with desc := 63, path := 0x5FFF, ncm1 := 15 } (on.rd 0 0 (64 * 0x5FFF) 64) = [] ∧ (Instr.kvCommit { kv0 with desc := 63, path := 0x5FFF, ncm1 := 15 }).wf = true ∧
    on.readReady 0 0 (64 * 0x5FFF) 64 = true ∧ committing.tileOk 0 = true ∧ committing.running = true ∧ committing.frozen = false ∧
    committing.chip.hold = none ∧ (committing.tile 0).kvInflight = [(63, 40, 5)] ∧ (∀ w ∈ (committing.tile 0).kvHeld, w.desc ≠ 63) ∧
    ∀ x ∈ committing.chip.xfers, x.id ≠ 5 := by decide +kernel

/-- A checked pass of one column, read, over results that are all 0. -/
def passDone : PassS := { pass0 with done := true, chk := true }
/-- It with a border sum that disagrees. -/
def passBad : PassS := { passDone with tol := 1, bcol := [⟨0x3F800000, false⟩] }
/-- It with a border line whose refetch is over. -/
def passWaited : PassS := { passDone with bwait := [0xFFFFC0] }
def withPass (p : PassS) : State := run (modTile 0 fun x => { x with passes := [p] }) on

/-- Module state `s` with `c` the next command of its queue. -/
def fetched (c : Cmd) (s : State) : State := run (modChip fun x => { x with fetched := [c], started := [] }) s
def cmd0 : Cmd := ⟨0, 0, 0, 1, 0, false, false, 5, 0, 0, 0, 0, 0, 0, [], 0⟩

/-- A reel's presence is all that JOB_START asks of the reel; the job's key and the other settings pass. -/
def startable : State := run (chain [setTw R.FAB_JOB_PKEY 1, modChip fun c => { c with reel := some [] }]) State.reset

theorem hyp_PassIssues : on.fresh m0 = true ∧ (Instr.mout { mout0 with fmt := 15, ostr := 4095 }).wf = true ∧ (let s := fetched cmd0 startable
      s.mayStart cmd0 = true ∧ s.isManager = true ∧ s.running = false ∧ s.startOk = true ∧ s.chip.armedMaps = none) ∧ on.outputAllowed mm0 = true ∧ (on.tile 0).passes = [] ∧ (Instr.mmul mm0).wf = true ∧
    (Instr.mmula mm0).wf = true ∧ on.rf (R.MXA_ADP_SLOT 0 0) F.MXA_ADP_SLOT_PKEY = 0 ∧ on.timely 0 = true ∧
    mm0.gm = 0 ∧ onFull.fresh m0 = true ∧ onFull.outputAllowed { mm0 with gm := 2 } = true ∧ (Instr.mmula { mm0 with gm := 2 }).wf = true ∧
    onFull.timely 0 = true ∧ onFull.allFull 0 0 (aImageBytes 3 8) = true ∧ aImageBytes 3 8 ≤ 0x180000 := by
  decide +kernel

theorem hyp_PassDrainResult : (∀ p ∈ [{ passDone with chk := false }, passDone, passBad, passWaited], (withPass p).tileOk 0 = true ∧
    (∀ o ∈ p.bwait, (withPass p).lineStalls 0 o = false) ∧
    (withPass p).released = true ∧ ((withPass p).tile 0).passes = [p] ∧ p.attempt = 0 ∧ p.done = true ∧ p.args.tile = 0 ∧ p.verdict = none ∧
    (withPass p).drainReady p = true ∧ p.placed = true) ∧ (∀ c ∈ passDone.checks, c.2.2 ≠ .mismatch) ∧ passBad.chk = true ∧
    ∃ c ∈ passBad.checks, c.2.2 = .mismatch := by decide +kernel

theorem hyp_PassReplayResult : (∀ p ∈ [{ passDone with attempt := 1 }, { passBad with attempt := 1 }, { passWaited with attempt := 1 }], (withPass p).tileOk 0 = true ∧
    (∀ o ∈ p.bwait, (withPass p).lineStalls 0 o = false) ∧
    (withPass p).released = true ∧ p.verdict = none ∧ p.placed = true ∧ ((withPass p).tile 0).passes = [p] ∧ p.attempt = 1 ∧ p.done = true ∧ p.chk = true ∧ (withPass p).drainReady p = true ∧ p.args.tile = 0) ∧
    (∀ c ∈ ({ passDone with attempt := 1 } : PassS).checks, c.2.2 ≠ .mismatch) ∧
    ∃ c ∈ ({ passBad with attempt := 1 } : PassS).checks, c.2.2 = .mismatch := by decide +kernel

/-- VL 1 on tile 0: a state in which every V instruction below runs. -/
def vec : State := run (setF (R.VEC_VL 0) F.VEC_VL_VL 1) on

/-- The long-form V instructions, one of each. -/
def vAll : List (Instr × VKind × VArgs) :=
  let i := { va0 with fmt := 15, dfmt := 15 }
  [(.vadd va0, .add, va0), (.vsub va0, .sub, va0), (.vmul va0, .mul, va0), (.vfma va0, .fma, va0), (.vmax va0, .max, va0), (.vmin va0, .min, va0),
    (.vcmp va0, .cmp, va0), (.vsel va0, .sel, va0), (.vand va0, .and, va0), (.vor va0, .or, va0), (.vxor va0, .xor, va0), (.vshl i, .shl, i),
    (.vshr i, .shr, i), (.vcvt va0, .cvt, va0), (.vpack { va0 with dfmt := 10 }, .pack, { va0 with dfmt := 10 }),
    (.vunpack { va0 with fmt := 7 }, .unpack, { va0 with fmt := 7 }), (.vperm va0, .perm, va0), (.vshuf va0, .shuf, va0),
    (.vpatch va0 1 0 0, .patch 1 0 0, va0), (.vred va0, .red, va0), (.vsfu va0, .sfu, va0), (.smx1 va0, .smx1, va0), (.smx2 va0, .smx2, va0),
    (.rowstat va0, .rowstat, va0), (.sample va0, .sample, va0), (.tmask { va0 with fmt := 11 }, .tmask, { va0 with fmt := 11 }), (.vgrain i, .grain, i)]

/-- Each of them runs; and each that reads the scratchpad waits where it asks for granules that are empty. -/
theorem hyp_VectorRunsOrWaits : vec.fresh v0 = true ∧ (vec.tile 0).vops = [] ∧ (vAll.all fun x =>
    let o := vec.vopOf x.2.1 x.2.2
    decide (vForm x.1 = some x.2) && x.1.wf && decide ((vec.vgrants o).length = o.beats)) = true ∧ vec.settledBy 0 vec.chip.fcyc = true ∧
    (Instr.vadd { va0 with gm := 2 }).wf = true ∧ vec.vgrants (vec.vopOf .add { va0 with gm := 2 }) = [] := by decide +kernel

theorem hyp_VectorRunsOrWaits_span : (vAll.all fun x => let w := (vec.vres (vec.vopOf x.2.1 x.2.2)).writes
    decide (w.length = if x.2.1 = .pack then 2 else 1) && w.all fun w => decide (w.2.1.length ≤ 0x180000)) = true := by decide +kernel

theorem hyp_IntegerElements : intFmt 11 = true ∧ intFmt 14 = true ∧ intFmt 15 = true ∧
    ∀ k ∈ [VKind.add, .sub, .mul, .fma, .max, .min], k = .add ∨ k = .sub ∨ k = .mul ∨ k = .fma ∨ k = .max ∨ k = .min := by decide

theorem hyp_VsetvlResult : on.fresh v0 = true ∧ (Instr.vsetvl 0 h0 0 false 0xFFFFFF 0).wf = true ∧ (Instr.vsetvl 0 h0 1 true 0 7).wf = true ∧
    onFull.fresh v0 = true ∧ onFull.readReady 0 1 (64 * 7) 4 = true ∧
    onFull.settledBy 0 onFull.chip.fcyc = true := by decide +kernel

/-- A module that runs a job without any stream. -/
def bare : State := run (setF R.FRM_CTL F.FRM_CTL_RUN 1) State.reset
def late : State := run (modChip fun c => { c with fcyc := 0x200000 }) on

theorem hyp_FrameTickResult : bare.ticks 4096 = true ∧ late.tickAt = none ∧ late.chip.halting = false ∧ late.released = true ∧
    late.chip.overrunDone = false ∧ late.rf R.FRM_STRETCH_MAX F.FRM_STRETCH_MAX_CYCLES < late.chip.fcyc - late.frmLen := by decide +kernel

def armed : State := run (chain [setF (descKey 1 0) F.ROL_DESC_A_0_STATE 3, setRegN R.ROL_SWITCH_FRAME 1,
  modChip fun c => { c with armedRoll := some 1 }]) bare
def toServe : State := run (modTile 511 fun x => { x with servNext := some (1, 1) }) bare
def windowEnds : State := run (setRegN R.FRM_COUNT 15) bare
def stepArmed : State := run (chain [setTw R.CLK_STEP 7, setRegN R.CLK_CHANGE_FRAME 1]) bare

theorem hyp_ArmedTicks_window : windowEnds.ticks 4096 = true ∧ (windowEnds.frame + 1) % 2 ^ windowEnds.chip.slackWin = 0 ∧ windowEnds.frame + 1 < 2 ^ 64 ∧
    windowEnds.retiredAt 511 = some 16 := by decide +kernel

theorem hyp_ArmedTicks : armed.ticks 4096 = true ∧ armed.chip.armedRoll = some 1 ∧ (armed.reg R.ROL_SWITCH_FRAME).toNat = armed.frame + 1 ∧
    armed.descState 1 = 3 ∧ toServe.ticks 4096 = true ∧ (toServe.tile 511).servNext = some (1, 1) ∧ toServe.chip.armedRoll = none ∧
    1 ≤ toServe.frame + 1 ∧ stepArmed.ticks 4096 = true ∧ stepArmed.changeFrame = stepArmed.frame + 1 := by decide +kernel

/-- Every stream of tiles 0 and 1 has issued its marker. -/
def ended : State := run (forEach [0, 1] fun u => modTile u fun x =>
  { x with c := { x.c with eof := true }, d := { x.d with eof := true }, m := { x.m with eof := true }, v := { x.v with eof := true } }) on
/-- An instruction of tile 0 waits on granule 5. -/
def hungry : State := run (modTile 0 fun x => { x with c := { x.c with waitq := [.cwaitg 0 h0 1 5] } }) on

theorem hyp_FrameEndsAndStarves : ended.tileOk 0 = true ∧ ended.released = true ∧ (ended.tile 0).retired = none ∧ ended.tileDone 0 = true ∧
    (∀ k < 4, ended.enabled 0 k = true → ((ended.tile 0).stream k).eof = true) ∧ on.released = true ∧ on.chip.starvedDone = false ∧
    on.endsOnTime = false ∧ on.freezesBefore (on.frmLen + 1) = false ∧ hungry.endsOnTime = false := by decide +kernel

theorem hyp_FrameEndsAndStarves_granule : on.starvedAt = none ∧ hungry.starvedAt = some (gaddr 0 0 0 (256 * 5)) ∧
    hungry.rb R.FRM_FAULT F.FRM_FAULT_STARVED = false ∧
    (run (setF R.FRM_FAULT F.FRM_FAULT_STARVED 1) hungry).rb R.FRM_FAULT F.FRM_FAULT_STARVED = true := by decide +kernel

theorem hyp_RealignCallResult : bare.isManager = true ∧ bare.running = true ∧
    bare.rf R.FRM_REALIGN_THRESH F.FRM_REALIGN_THRESH_CYCLES < 5000 ∧ bare.reg R.FRM_REALIGN_FRAME = 0 ∧ twAgree (bare.reg R.FRM_LEN) = true ∧
    (run (modChip fun c => { c with overrunCall := true }) bare).chip.overrunCall = true ∧
    (run (setRegN R.FRM_REALIGN_FRAME 9) bare).reg R.FRM_REALIGN_FRAME ≠ 0 ∧
    0 ≤ bare.rf R.FRM_REALIGN_THRESH F.FRM_REALIGN_THRESH_CYCLES ∧ bare.chip.overrunCall = false := by decide +kernel

/-- A freeze that a break of tile 0 calls, of the chip or of the whole domain. -/
def freezing (domain : Bool) : State := run (modChip fun c => { c with freezeAt := some 64, freezeHits := [0], freezeDomain := domain }) on
def holding (s : State) : State := run (modChip fun c => { c with hold := some .reference, refBack := false, refHold := true }) s

/-- A module at position 1 of two whose manager is position 0. -/
def worker : State := run (chain [setF R.MOD_ROLE F.MOD_ROLE_ROLE 0, setF R.MOD_ROLE F.MOD_ROLE_POSITION 1,
  modChip fun c => { c with part := { c.part with modules := 2 } }]) bare

theorem hyp_FreezeAndReference : (∀ d ∈ [false, true], (freezing d).chip.freezeAt = some 64 ∧ (freezing d).running = true ∧ (freezing d).frozen = false ∧
    (freezing d).chip.hold = none ∧ (freezing d).tickBefore 64 = false ∧ (freezing d).chip.freezeHits = [0] ∧ (freezing d).chip.freezeDomain = d) ∧
    (let s := run (modChip fun c => { c with refHold := true }) bare
     s.ticks 4096 = true ∧ s.chip.refHold = true) ∧ bare.chip.hold ≠ some .reference ∧
    (holding bare).chip.hold = some .reference ∧ (holding bare).isManager = true ∧ (holding bare).chip.clap = none ∧
    (holding worker).chip.hold = some .reference ∧ (holding worker).isManager = false := by decide +kernel

def calling (rem : Option Nat) (sub : Nat) (s : State) : State := run (modChip fun c => { c with clap := some ⟨sub, 5, [], rem, 0, 0, none⟩ }) s

/-- A module at position 1 with position 2 below it, in a clap for which those of `ready` are. -/
def between (ready : List Nat) : State := run (modChip fun c => { c with
  part := { c.part with modules := 3 }
  clap := some ⟨1, 5, ready, none, 0, 0, none⟩ }) worker

theorem hyp_TokensPass_branch : (between [1]).isManager = false ∧ (between [1]).treeBelow = [2] ∧ (between [1]).chip.clap = some ⟨1, 5, [1], none, 0, 0, none⟩ ∧
    (between [1]).branchReady ⟨1, 5, [1, 2], none, 0, 0, none⟩ = true ∧ (between []).branchReady ⟨1, 5, [2], none, 0, 0, none⟩ = false ∧
    ([1] : List Nat).contains 2 = false ∧ (between []).treeBelow.contains 9 = false ∧ worker.chip.clap = none ∧ ((execReadyToken ⟨1, 0, 2, 5, 0⟩ (between [1]) matches .next _) = true) := by decide +kernel

theorem hyp_TokensPass : worker.fromManager ⟨2, 3, 0, 5, 2 ^ 40 - 1⟩ = true ∧ worker.isManager = false ∧ bare.isManager = true ∧
    (calling none 0 bare).chip.clap = some ⟨0, 5, [], none, 0, 0, none⟩ ∧ ([] : List Nat).contains 0 = false ∧
    bare.chip.freezeSeen.contains 5 = false ∧ bare.running = true ∧ bare.frozen = false ∧ (exec (.freezeToken ⟨4, 0, 0, 5, 0⟩) bare matches .next _) = true ∧
    (run (modChip fun c => { c with freezeSeen := [5] }) bare).chip.freezeSeen.contains 5 = true ∧
    (calling none 0 bare).allReady ⟨0, 5, [0], none, 0, 0, none⟩ = true := by decide +kernel

/-- A module whose descriptor 0 is in state `st`. -/
def rolled (st : Nat) (s : State) : State := run (setF (descKey 0 0) F.ROL_DESC_A_0_STATE st) s

/-- A worker that the manager has told of kind `k` with the argument `v`. -/
def told (k v : Nat) : State := run (modChip fun c => { c with said := [(k, v)] }) worker

theorem hyp_AnnounceResult : (∀ n < 4, worker.fromManager ⟨3, n, 0, 5, 9⟩ = true) ∧ (rolled 3 worker).fromManager ⟨3, 1, 0, 5, 9⟩ = true ∧
    (rolled 3 worker).running = true ∧ (rolled 3 worker).descState 0 = 3 ∧
    (∀ y < 0, (rolled 3 worker).descState y ≠ 3) ∧ (told 2 127).fromManager ⟨3, 2, 0, 5, 9⟩ = true ∧
    (told 2 127).chip.said.find? (·.1 == 2) = some (2, 127) ∧ ((told 3 0).chip.said.find? (·.1 == 3)).isSome = true ∧
    (∀ b ∈ [false, true], let s := run (chain [setF R.FRM_CTL F.FRM_CTL_FROZEN 1, modChip fun c => { c with parked := b }]) worker
     s.fromManager ⟨3, 4, 0, 5, 9⟩ = true ∧ s.frozen = true ∧ s.chip.parked = b ∧ s.treeBelow = []) ∧ worker.fromManager ⟨3, 5, 0, 5, 9⟩ = true ∧ (calling none 0 worker).fromManager ⟨3, 5, 0, 5, 0⟩ = true ∧
    (calling none 0 worker).chip.clap = some ⟨0, 5, [], none, 0, 0, none⟩ := by decide +kernel

/-- A frame whose tick comes at cycle 4096, with a realign announced for the next. -/
def realigning : State := run (setRegN R.FRM_REALIGN_FRAME 1) (calling (some 40) 2 bare)

theorem hyp_ClapEventResult : (∀ sub < 3, (calling (some 40) sub bare).chip.clap = some ⟨sub, 5, [], some 40, 0, 0, none⟩ ∧
    (calling (some 40) sub bare).chip.halting = false ∧ (calling (some 40) sub bare).replaying = false) ∧
    (calling (some 40) 0 bare).chip.heldWrites = [] ∧ realigning.tickAt = some 4096 ∧ (∀ x ∈ realigning.tiles, x.2.kvHeld = []) := by decide +kernel

def capturing : State := run (modChip fun c => { c with capture := some ⟨0, false, none⟩ }) bare
def captured : State := run (modChip fun c => { c with hold := some .capture }) capturing

theorem hyp_TimeoutAndCapture : (calling none 0 bare).chip.clap = some ⟨0, 5, [], none, 0, 0, none⟩ ∧ bare.isManager = true ∧ 0 < bare.chip.part.modules ∧
    ([] : List Nat).contains 0 = false ∧ (calling none 0 bare).chip.before = none ∧ (∀ n ∈ [1, 2], (calling none n bare).chip.clap = some ⟨n, 5, [], none, 0, 0, none⟩) ∧ capturing.chip.capture = some ⟨0, false, none⟩ ∧ capturing.running = true ∧ capturing.frozen = false ∧
    capturing.chip.hold = none ∧ capturing.chip.clap = none ∧ capturing.frame = 0 ∧ captured.chip.hold = some .capture ∧ captured.chip.parked = false ∧
    captured.chip.clap = none ∧ captured.drained = true ∧ captured.isManager = true := by decide +kernel

/-- Queue pair 0 enabled, with the smallest rings. -/
def queued (s : State) : State := run (modQueue 0 fun q => { q with cfg := fset q.cfg F.HIF_Q_CFG_EN 1, phase := true }) s

theorem hyp_ClkChangeResult : (∀ s ∈ [fetched cmd0 bare, fetched cmd0 State.reset], s.mayStart cmd0 = true ∧ s.isManager = true) ∧
    bare.rf R.CLK_FMAX F.CLK_FMAX_DOMAIN_STEP < 127 ∧ ({ cmd0 with w2 := 127 }.w2.toNat % 128 = 127) ∧ ((queued bare).queue 0).en = true ∧
    (0 : Word).toNat % 128 ≤ State.reset.rf R.CLK_FMAX F.CLK_FMAX_DOMAIN_STEP ∧ State.reset.running = false ∧ bare.running = true ∧ bare.changeArmed = false ∧
    (fetched cmd0 worker).mayStart cmd0 = true ∧ worker.isManager = false ∧ stepArmed.changeArmed = true ∧ stepArmed.running = true ∧
    (0 : Nat) ≤ stepArmed.rf R.CLK_FMAX F.CLK_FMAX_DOMAIN_STEP ∧ twAgree (bare.reg R.FRM_LEN) = true ∧
    bare.stepFrame cmd0.w3.toNat (bare.rf R.CLK_CTL F.CLK_CTL_LEAD_US) < 2 ^ 64 := by decide +kernel

theorem hyp_CanariesAndAgeing : (63 : Nat) < 64 ∧ (-32768 : Int) < bare.cal16 (0x500 + 4 * 63) ∧ (-32768 : Int) < bare.cal16 (0x502 + 4 * 63) ∧
    (∀ x ∈ [((1, 127, 0) : Nat × Nat × Nat)], x.2.1 < 128) ∧ 0 < 2 ^ F.CLK_AGE_FORECAST_HOURS.width ∧ (0 : Nat) < 1 := by decide +kernel

/-- A job with no stream on tile 0, in frame cycle 0: a slice of 64 cycles, and one whose slice holds every unit. -/
def sliced : State := run (modChip fun c => { c with sliceLen := 512, ns := 86400000000001 }) bare
def thin : State := run (modChip fun c => { c with sliceLen := 47 }) bare

/-- A slice that holds a scrub unit and no automatic test unit. -/
def narrow : State := run (modChip fun c => { c with sliceLen := 50 }) bare
def scrubbing : State := run (modTile 0 fun x => { x with scrubStart := some 0 }) sliced

theorem hyp_ScrubResults : narrow.tileOk 0 = true ∧ narrow.scrubDue 0 = true ∧ narrow.unitFits 0 48 = true ∧ narrow.unitStart 0 = some 4046 ∧
    (∀ g ∈ (narrow.tile 0).grants, g.sp ≠ 1) ∧ narrow.unitsBefore 0 4 = [64] ∧
    (∀ l ∈ narrow.unitsBefore 0 4, narrow.unitFits 0 l = false) ∧ narrow.err = [] ∧ (narrow.tile 0).scrubLine < 262144 ∧
    thin.tileOk 0 = true ∧ thin.scrubDue 0 = true ∧ thin.released = true ∧ thin.slice < 48 ∧
    scrubbing.tileOk 0 = true ∧ (scrubbing.tile 0).scrubStart = some 0 ∧ 0 + 86400000000000 < scrubbing.chip.ns ∧
    (sliced.tile 0).scrubStart = none := by decide +kernel

theorem hyp_ScrubResults_late : (∀ b, ((run (modChip fun c => { c with ns := 86400000000000 }) scrubbing).tile 0).scrubStart = some b →
    (run (modChip fun c => { c with ns := 86400000000000 }) scrubbing).chip.ns ≤ b + 86400000000000) := by decide +kernel

def refetching : State := run (modChip fun c => { c with refetch := [⟨0, 0xFFFFC0, 0⟩], mirror := [(255, 0)] }) bare
def unmirrored : State := run (modChip fun c => { c with refetch := [⟨0, 0xFFFFC0, 0⟩] }) bare

theorem hyp_RefetchResults : (∀ s ∈ [refetching, unmirrored], s.tileOk 0 = true ∧
    s.chip.refetch.find? (fun r => r.tile == 0 && r.off == 64 * 0x3FFFF % 0x1000000) = some ⟨0, 0xFFFFC0, 0⟩) ∧
    refetching.hasCopy 0 0xFFFFC0 = true ∧ (refetching.tile 0).hardLines.contains 0xFFFFC0 = false ∧ unmirrored.hasCopy 0 0xFFFFC0 = false := by
  decide +kernel

def fillSrc : GrainSrc := ⟨1, 2, 3⟩
def filling (done : Nat) : State := run (modTile 0 fun x => { x with fill := some ⟨1, fillSrc, done, none⟩ }) sliced

theorem hyp_GrainFillResults : sliced.tileOk 0 = true ∧ sliced.served = true ∧ (let a := sliced.accessed true
      a.admits = true ∧ (a.tile 0).fill = none ∧ a.rb (R.GRN_STAT 0) F.GRN_STAT_PENDING = false ∧ a.grainActive 0 < 2) ∧
    (filling 0).served = true ∧ (let a := (filling 0).accessed true
      a.admits = true ∧ (a.tile 0).fill.isSome = true) ∧
    (∀ d ∈ [0, 112, 128], ((filling d).tile 0).fill = some ⟨1, fillSrc, d, none⟩ ∧
      ∃ len ∈ [8, 128], (filling d).fillUnit 0 = some len ∧ (filling d).unitFits 0 len = true ∧
        ∀ l ∈ (filling d).unitsBefore 0 1, (filling d).unitFits 0 l = false) ∧
    ((filling 129).tile 0).fill = some ⟨1, fillSrc, 129, none⟩ := by decide +kernel

def testing : State := run (chain [modChip (fun c => { c with test := some ⟨cmd0, 1, false, 0, 0, 0, false, 0, false, none⟩ }),
  setF R.DBG_TEST_CTL F.DBG_TEST_CTL_AUTO_EN 1]) sliced

theorem hyp_TestResults : (fetched cmd0 sliced).mayStart cmd0 = true ∧ (0x0001 : Word).toNat.testBit 8 = false ∧ (0x1FF0001 : Word).toNat / 65536 % 512 < sliced.numTiles ∧
    testLen ((0x1FF0001 : Word).toNat % 256) ≤ sliced.sliceNow ∧ sliced.chip.test = none ∧ testing.tileOk 0 = true ∧
    testing.chip.test = some ⟨cmd0, 1, false, 0, 0, 0, false, 0, false, none⟩ ∧ testing.testWaits 0 = some 64 ∧ testing.unitFits 0 64 = true ∧
    (∀ l ∈ testing.unitsBefore 0 3, testing.unitFits 0 l = false) ∧
    0 + 1 ≠ testUnits 1 ∧ testing.tileOk 1 = true ∧ testing.autoUnitLen 1 = some 64 ∧ testing.unitFits 1 64 = true ∧
    (∀ l ∈ testing.unitsBefore 1 3, testing.unitFits 1 l = false) := by decide +kernel

/-- A nominated site of row 15; a row whose sites are all bad has no spare. -/
def nominated (site : Nat) : State := run (chain [
  setF (R.MSH_NOMINATE 7) F.MSH_NOMINATE_ROW 15, setF (R.MSH_NOMINATE 7) F.MSH_NOMINATE_SITE site, setF (R.MSH_NOMINATE 7) F.MSH_NOMINATE_VALID 1,
  modChip fun c => { c with noms := [7] }]) sliced
def noSpare : State := run (setF (R.MSH_BAD 15) F.MSH_BAD_SITES (2 ^ 34 - 1)) (nominated 8)
def retiring (phase : Nat) : State := run (modChip fun c => { c with retire := some ⟨7, 15, 8, [(8, 9, 488)], phase, 1, [], none⟩ }) (nominated 8)

theorem hyp_RetirementResults : (∀ s ∈ [nominated 8, noSpare], s.rb R.MSH_CTL F.MSH_CTL_AUTO_RETIRE = true ∧ s.chip.retire = none ∧
    s.chip.noms.find? (fun n => s.rb (R.MSH_NOMINATE n) F.MSH_NOMINATE_VALID) = some 7) ∧ noSpare.retirePlan 15 8 = none ∧
    ((nominated 8).retirePlan 15 8 = some [(8, 9)]) := by decide +kernel

/-- A retirement in phase 5 whose plan has a second step, and one whose nomination entry holds another site. -/
def retiringTwo : State := run (modChip fun c => { c with retire := some ⟨7, 15, 8, [(8, 9, 488), (9, 10, 489)], 5, 1, [], none⟩ }) (nominated 8)
def retiringLost : State := run (setF (R.MSH_NOMINATE 7) F.MSH_NOMINATE_SITE 9) (retiring 5)
def retiringArmed : State := run (modChip fun c => { c with retire := some ⟨7, 15, 8, [(8, 9, 488)], 4, 1, [], some 0xABCDEF⟩ }) (nominated 8)

theorem hyp_RetirementResults_phases : (∀ n ∈ [0, 1, 2, 3, 5], (retiring n).chip.retire = some ⟨7, 15, 8, [(8, 9, 488)], n, 1, [], none⟩ ∧
    (retiring n).unitFits 488 128 = true ∧ (retiring n).unitFits 488 64 = true ∧ (retiring n).nomStands ⟨7, 15, 8, [(8, 9, 488)], n, 1, [], none⟩ = true ∧
    (retiring n).chip.clap = none) ∧ retiringTwo.chip.retire = some ⟨7, 15, 8, [(8, 9, 488), (9, 10, 489)], 5, 1, [], none⟩ ∧
    retiringLost.nomStands ⟨7, 15, 8, [(8, 9, 488)], 5, 1, [], none⟩ = false ∧
    retiringArmed.chip.retire = some ⟨7, 15, 8, [(8, 9, 488)], 4, 1, [], some 0xABCDEF⟩ := by decide +kernel

/-- Staged maps equal to the current ones are legal; two tiles on one site are not. -/
def badMap : State := run (setTw (R.MSH_ROWMAP 15) 0x7FF) State.reset

/-- Every nomination entry but the last in use, and all of them. -/
def nominees (n : Nat) : State := run (forEach (List.range n) fun m => setF (R.MSH_NOMINATE m) F.MSH_NOMINATE_VALID 1) State.reset

theorem hyp_ArmAndNominate : (∀ s ∈ [State.reset, badMap, bare, nominees 7, nominees 8], s.served = true) ∧ (let a := State.reset.accessed false
      a.running = false ∧ a.mapsFault ((List.range 16).map a.rowStaged) = none) ∧ (let a := badMap.accessed false
      a.running = false ∧ (a.mapsFault ((List.range 16).map a.rowStaged)).isSome = true) ∧ (let a := bare.accessed false
      a.running = true ∧ a.admits = true) ∧ (let a := (nominees 7).accessed false
      (∀ m < 7, a.rb (R.MSH_NOMINATE m) F.MSH_NOMINATE_VALID = true) ∧ a.rb (R.MSH_NOMINATE 7) F.MSH_NOMINATE_VALID = false) ∧
    ∀ n < 8, ((nominees 8).accessed false).rb (R.MSH_NOMINATE n) F.MSH_NOMINATE_VALID = true := by decide +kernel

/-- The site that row 0 leaves unused moves from 9 to 0: tiles 1 to 8 become tiles 0 to 7, and tile 8 gets a fresh site. -/
def moveZero : List Nat := (0 + 27 * 64 + 0x3F * 4096 + 0x3F * 262144) :: List.replicate 15 rowMapReset
def siteFull : State := run (chain [fun _ => [.mem (memKey 1 1 7) [5], .mem (memKey 1 40 7) [6], .full (8 * 6144) true],
  setRegN (R.VEC_VL 5) 9]) State.reset

/-- Contents stay at their sites when other maps are armed (R285). -/
theorem test_moveSites : let t := run (moveSites moveZero) siteFull
    t.byte (memKey 1 0 7) = 5 ∧ t.byte (memKey 1 1 7) = 0 ∧ t.byte (memKey 1 40 7) = 6 ∧ t.isFull 8 0 = false ∧ t.isFull 7 0 = true ∧
    t.reg (R.VEC_VL 4) = 9 ∧ t.reg (R.VEC_VL 5) = resetWord (R.VEC_VL 5) := by decide +kernel

/-- Row 0 has other maps staged, so tile 8 gets a fresh site. -/
def freshSite : State := run (setTw (R.MSH_ROWMAP 0) (0 + 27 * 64 + 0x3F * 4096 + 0x3F * 262144)) State.reset
theorem hyp_ArmAndNominate_fresh : freshSite.served = true ∧ (let a := freshSite.accessed false
      a.running = false ∧ a.mapsFault ((List.range 16).map a.rowStaged) = none ∧
      8 < a.numTiles ∧ ((List.range 512).all fun x => a.tileAfter ((List.range 16).map a.rowStaged) x != some 8) = true) ∧
    (List.range 16).map State.reset.rowStaged = State.reset.mapsCur ∧ State.reset.mapsCur = State.reset.recordMaps := by decide +kernel

/-- Cue stream 7 with one command waiting, and with it current. -/
def cueing (s : State) : State := run (modCue 7 fun x => { x with inq := [cmd0] }) s
def serving (c : Cmd) (s : State) : State := run (modCue 7 fun x => { x with cur := some c, owed := true }) s

theorem hyp_CueCommands : (cueing State.reset).fresh (.cue 7) = true ∧ (Instr.cueNext 7 h0).wf = true ∧ ((cueing State.reset).cue 7).inq = [cmd0] ∧
    ((cueing State.reset).cue 7).owed = false ∧ (let s := cueing (serving cmd0 State.reset)
      s.fresh (.cue 7) = true ∧ (s.cue 7).inq = [cmd0] ∧ (s.cue 7).owed = true ∧ (s.cue 7).cur = some cmd0) ∧
    State.reset.fresh (.cue 7) = true ∧ (State.reset.cue 7).inq = [] ∧ (Instr.cueReply 7 h0 0xFFFF).wf = true ∧
    ((serving cmd0 State.reset).cue 7).cur = some cmd0 ∧ ((serving cmd0 State.reset).cue 7).owed = true ∧ (Instr.cueRun 7 h0).wf = true ∧
    startable.isManager = true ∧ startable.running = false ∧ startable.startOk = true ∧ startable.chip.armedMaps = none ∧
    startable.fresh (.cue 7) = true ∧ State.reset.startOk = false ∧
    (Instr.cueHalt 7 h0).wf = true ∧ State.reset.chip.record.active = false ∧ State.reset.isManager = true ∧ worker.isManager = false ∧
    worker.fresh (.cue 7) = true ∧ bare.fresh (.cue 7) = true ∧ bare.running = true ∧ State.reset.isManager = true ∧ State.reset.running = false := by
  decide +kernel

/-- A command whose word 2 names tile 511's seed register, one that names its scratchpad, and one that names space 6. -/
def cmdSeed : Cmd := { cmd0 with w2 := BitVec.ofNat 64 (gaddr 0 511 3 (R.GRN_SEED_LO 0 % 0x4000)), w4 := 0x1000, w5 := 64 }
def cmdSpd : Cmd := { cmd0 with w2 := BitVec.ofNat 64 (gaddr 0 511 0 0x17FFC0), w4 := 0x1000, w5 := 64 }
def cmdBad : Cmd := { cmd0 with w2 := BitVec.ofNat 64 (gaddr 0 0 6 0) }

theorem hyp_CueWrites : (∀ c ∈ [cmdSeed, cmdSpd, cmdBad], (serving c State.reset).fresh (.cue 7) = true ∧ ((serving c State.reset).cue 7).cur = some c ∧
    (serving c State.reset).sound = true) ∧ State.reset.chip.record.active = false ∧ (Instr.cueWr 7 h0 2 7).wf = true ∧
    (serving cmdBad State.reset).cueWrOk (cmdWord cmdBad 2).toNat = false ∧ (serving cmdSeed State.reset).cueWrOk (cmdWord cmdSeed 2).toNat = true ∧
    gKey (cmdWord cmdSeed 2).toNat = R.GRN_SEED_LO 511 ∧ (Instr.cueInject 7 h0 2 0).wf = true ∧
    (serving cmdBad State.reset).cueInjectOk (cmdWord cmdBad 2).toNat = false ∧
    (serving cmdSpd State.reset).cueInjectOk (cmdWord cmdSpd 2).toNat = true ∧
    (serving cmdSpd State.reset).rb (R.SPD_INJECT (gTile (cmdWord cmdSpd 2).toNat)) F.SPD_INJECT_ARM = false ∧
    ((serving cmdSpd State.reset).cueInput 7).length ≤ 0x180000 := by decide +kernel

/-- A running job that admits requests: a LIVE roll, one slot, class 0. -/
def admitting (s : State) : State := run (chain [
  setF (descKey 0 0) F.ROL_DESC_A_0_STATE 4, setTw R.ROL_ACTIVE 0, setF R.HIF_ADM F.HIF_ADM_NSLOT 1,
  setF (R.HIF_CLASS_0 0) F.HIF_CLASS_0_VALID 1, setF (R.HIF_CLASS_1 0) F.HIF_CLASS_1_MAX_UNITS 16]) s
def cmdReq : Cmd := { cmd0 with opcode := 0x0301, w3 := 0xFFFFFFFFFFFF, w2 := 0x100000000 }

theorem hyp_CueWrites_admit : (Instr.cueAdmit 7 h0).wf = true ∧ (let s := serving cmdReq (admitting bare)
    s.fresh (.cue 7) = true ∧ (s.cue 7).cur = some cmdReq ∧ (s.at_ (s.issueCycle (.cue 7))).admitCheck cmdReq = none ∧ s.freeSlot = some 0) ∧
    (let s := serving cmdReq bare
    s.fresh (.cue 7) = true ∧ (s.cue 7).cur = some cmdReq ∧ (s.at_ (s.issueCycle (.cue 7))).admitCheck cmdReq = some 0x0203) := by decide +kernel

def reply0 : Reply := ⟨5, 0, 0x0103, 0, 0, 0, 1, false⟩
/-- Queue 8191 with one slot of its submission ring filled: opcode `op`, LEN 1. -/
def fetchable (op : Nat) : State := run (chain [hostWrite 0 (leBytes 8 (op + 0x10000) ++ leBytes 8 5),
  modQueue 8191 fun q => { q with cfg := fset q.cfg F.HIF_Q_CFG_EN 1, sqTail := 1, phase := true, replies := [reply0], cqTail := 3, resTail := 4 }]) State.reset

/-- A FENCE at the head of queue 8191, and a command of LEN `n`. -/
def fetchLen (n : Nat) : State := run (hostWrite 0 (leBytes 8 (0x0103 + n * 0x10000))) (fetchable 0x0103)
/-- The module before step 5 of its power-up. -/
def booting : State := run (setF R.MOD_STAT F.MOD_STAT_STEP 4) State.reset

theorem hyp_QueueCommands : booting.served = false ∧ State.reset.served = true ∧ (State.reset.queue 8191).en = false ∧ (let s := fetchable 0x0103
    let q := s.queue 8191
    s.served = true ∧ q.en = true ∧ fget q.cfg F.HIF_Q_CFG_FUNC = 0 ∧ s.queueOf 0 8191 = some 8191 ∧ (moveSqTail 15 q).isSome = true ∧
      (moveCqHead 3 q).isSome = true ∧ (moveResHead 4 q).isSome = true ∧ moveSqTail 16 q = none ∧ q.replies = [reply0] ∧ q.cqFree ≠ 0 ∧ q.cqRoom ≠ 0 ∧
      (let c := s.headCmd 8191
       c.len ≠ 0 ∧ c.len < q.sqSize ∧ c.len ≤ (q.sqTail + q.sqSize - q.sqHead) % q.sqSize ∧ c.fence = false ∧
         s.checkCmd c (field (s.sqSlot q q.sqHead) 0 8) = none)) ∧
    (let s := fetchable 0xFFFF
     s.checkCmd (s.headCmd 8191) (field (s.sqSlot (s.queue 8191) 0) 0 8) = some (0x0101, 0)) ∧
    (∀ f ∈ [0, 64], ∀ m, State.reset.queueOf f 8192 = some m → 8192 ≤ m) := by
  refine ⟨by decide +kernel, by decide +kernel, by decide +kernel, by decide +kernel, by decide +kernel, ?_⟩
  have h : ∀ f ∈ [0, 64], (State.reset.queueOf f 8192).all (fun m => decide (8192 ≤ m)) = true := by decide +kernel
  intro f hf m hm
  simpa [hm] using h f hf

/-- A LEN of 0 and one of the whole ring, with one slot there, and a FENCE with nothing of its queue outstanding. -/
theorem hyp_QueueCommands_len : (∀ n ∈ [0, 16], (fetchLen n).served = true ∧ (let s := fetchLen n
    let q := s.queue 8191
    let c := s.headCmd 8191
    (c.len = 0 ∨ q.sqSize ≤ c.len) ∧ q.en = true ∧ q.cqRoom ≠ 0 ∧ (q.sqTail + q.sqSize - q.sqHead) % q.sqSize ≠ 0 ∧ s.chip.fetched = [])) := by
  decide +kernel

def slot0 : Slot := ⟨255, 5, 0, 0, false, 0, 0, 0, 1000, true, false, 0, 0, [], [], 0, false, false, false, 0, 0⟩
def requested (x : Slot) (s : State) : State := run (modChip fun c => { c with slots := [x] }) s

theorem hyp_RequestsEnd : (∀ c ∈ [cmd0, { cmd0 with w2 := 5 }], (fetched c (requested slot0 (queued bare))).mayStart c = true) ∧ bare.replaying = false ∧
    (let s := fetched cmd0 (run (setF R.AUD_REPLAY_CTL F.AUD_REPLAY_CTL_REPLAYING 1) (queued bare))
     s.replaying = true ∧ s.mayStart cmd0 = true) ∧
    (let s := run (modChip fun c => { c with slots := [{ slot0 with complete := true }] }) (queued bare)
     s.chip.slots.filter (fun y => y.tag == 5 && y.queue == 0 && !y.ended) ≠ [] ∧ ∀ y ∈ s.chip.slots, y.complete = true ∨ y.drained = true) ∧ (let s := requested slot0 (queued bare)
    s.replaying = false ∧ s.chip.slots.filter (fun y => y.tag == ({ cmd0 with w2 := 5 } : Cmd).w2.toNat && y.queue == 0) = [slot0] ∧
      slot0.ended = false ∧ slot0.drained = false ∧ slot0.complete = false ∧
      s.chip.slots.filter (fun y => y.tag == cmd0.w2.toNat && y.queue == 0) = [] ∧ s.slot 255 = some slot0 ∧ slot0.open = true ∧ slot0.timed = true ∧
      slot0.desc < 2 ∧ (s.queue slot0.queue).en = true) ∧
    (requested { slot0 with drained := true } bare).slot 255 = some { slot0 with drained := true } ∧
    (let x := { slot0 with ended := true }
     let s := run (setRegN R.FRM_COUNT 1) (requested x bare)
     s.slot 255 = some x ∧ x.aFrame + x.n + 1 ≤ s.frame) := by decide +kernel

def record0 : Record := ⟨5, 0, true, false, 0, 3, 255, 0, 1000, List.replicate 64 7⟩
/-- A result area at the last granules of tile 511, full, whose first word says 16 payload bytes, FINAL. -/
def resulting : State := run (chain [setRegN (R.HIF_REQ_AREA_1 255) (gaddr 0 511 0 0x17F000), setFull 511 (0x17F000 / 256) true,
  wrBytes 0 511 0x17F000 (leBytes 4 16 ++ [1]) false 0]) (requested slot0 (queued bare))
def recorded (rmode : Nat) (rs : List Record) : State := run (modQueue 0 fun q => { q with cfg := fset q.cfg F.HIF_Q_CFG_RMODE rmode, records := rs }) (queued bare)

theorem hyp_ResultsLeave : resulting.slot 255 = some slot0 ∧ slot0.ended = false ∧ slot0.drained = false ∧ resulting.resArea 255 = (511, 0x17F000) ∧
    resulting.isFull 511 (0x17F000 / 256) = true ∧ 64 + pad64 16 + 0 ≤ resulting.bufferRoom ∧
    ((pdata (resulting.rd 0 511 0x17F000 64)).getD 4 0).toNat.testBit 0 = true ∧
    (let q := (recorded 0 [record0]).queue 0
     q.records = [record0] ∧ q.en = true ∧ fget q.cfg F.HIF_Q_CFG_RMODE ≠ 1 ∧
       record0.bytes64 / 64 ≤ q.resSize - q.resTail ∧ record0.bytes64 / 64 ≤ q.resRoom ∧ record0.body.length % 64 = 0) ∧
    (let q := (recorded 1 [record0]).queue 0
     q.en = true ∧ fget q.cfg F.HIF_Q_CFG_RMODE = 1 ∧ q.records = [record0] ∧ 16383 + 1 ≤ 16384) ∧
    ((recorded 1 []).queue 0).en = true ∧ ((recorded 1 []).queue 0).records = [] ∧ (recorded 1 []).queueOf 0 0 = some 0 ∧
    (recorded 1 []).queueOf 64 0 = none := by decide +kernel

/-- The bytes of a number list. -/
def bytesOf (ns : List Nat) : List Byte := ns.map (BitVec.ofNat 8)
def reel0 : List Byte := bytesOf ([82, 69, 69, 76, 1, 0, 8, 50, 1, 0, 16, 32, 128, 0, 0, 0, 0, 16, 0, 0, 4, 0, 0, 0, 1] ++ List.replicate 199 0 ++
  [122, 9, 177, 204, 95, 46, 79, 207, 116, 104, 14, 8, 145, 231, 188, 106, 234, 197, 221, 245, 213, 55, 131, 67, 217, 90, 75, 68, 75, 149, 242, 58])
def ctx0 : List Byte := bytesOf ([82, 67, 84, 88, 1, 0, 8, 50, 1, 0, 16, 32, 128, 0, 0, 0, 3] ++ List.replicate 83 0 ++ [1] ++ List.replicate 91 0 ++
  [98, 40, 97, 255, 220, 161, 138, 72, 104, 67, 7, 102, 212, 164, 162, 58, 246, 114, 15, 231, 228, 13, 155, 130, 206, 110, 210, 231, 163, 104, 5, 202]
  ++ List.replicate 32 0 ++ [16, 1, 0, 0, 0, 0, 0, 0, 32, 1, 0, 0, 0, 0, 0, 0, 176, 4] ++ List.replicate 1214 0)
def cmdReel : Cmd := { cmd0 with w2 := 0x1000, w3 := 256 }
def withHost (bs : List Byte) (s : State) : State := run (hostWrite 0x1000 bs) s

/-- The reel passes its checks; its digest was computed outside the model. -/
theorem hyp_JobCommands_reel : State.reset.reelFault reel0 = none ∧ (List.range (field reel0 0x1C 4)).map (sectionAt reel0) = [] ∧
    State.reset.reelFault (State.reset.reelOf cmdReel) = some ⟨0x0103, 1, 0, 0⟩ := by decide +kernel

theorem hyp_JobCommands_buffer : (withHost reel0 State.reset).reelOf cmdReel = reel0 ∧ (withHost reel0 State.reset).isManager = true ∧
    (withHost reel0 State.reset).running = false ∧ cmdReel.w4.toNat.testBit 0 = (cmdReel.w2 == 0) ∧
    (withHost reel0 State.reset).chip.clap = none :=
  ⟨(if_neg (by decide)).trans ((congrArg (State.hostBytes (withHost reel0 State.reset) 0x1000) (by decide +kernel)).trans
    (hostBytes_hostWrite State.reset 0x1000 reel0 (by decide +kernel))), by decide +kernel, by decide +kernel, by decide +kernel, by decide +kernel⟩

def mapped : State := run (modChip fun c => { c with cmaps := [(7, [])] }) State.reset

theorem hyp_JobCommands : (∀ c ∈ [cmd0, cmdReel, { cmd0 with w3 := 8704 }], ∀ s ∈ [startable, bare, State.reset, mapped, withHost reel0 State.reset],
      (fetched c s).mayStart c = true) ∧ twAgree (State.reset.reg R.FRM_LEN) = true ∧ twAgree (State.reset.reg R.FAB_JOB_PKEY) = true ∧ startable.isManager = true ∧ startable.running = false ∧ startable.startOk = true ∧ bare.isManager = true ∧ bare.running = true ∧
    State.reset.startOk = false ∧ State.reset.running = false ∧ startable.chip.armedMaps = none ∧
    (∀ c ∈ [cmd0, cmdReel], (fetched c worker).mayStart c = true) ∧ worker.isManager = false ∧
    ({ cmd0 with w4 := 1 } : Cmd).w4.toNat.testBit 0 = (cmd0.w2 == 0) ∧ cmd0.w4.toNat.testBit 0 ≠ (cmd0.w2 == 0) ∧
    (0 : Nat) < 8704 * State.reset.chip.part.modules ∧
    8704 * State.reset.chip.part.modules ≤ ({ cmd0 with w3 := 8704 } : Cmd).w3.toNat ∧ mapped.chip.cmaps.head? = some (7, []) ∧
    mapped.chip.cmaps.find? (·.1 == 7) = some (7, []) ∧ State.reset.chip.cmaps.head? = none ∧ mapped.chip.cmaps.find? (·.1 == 8) = none := by decide +kernel

/-- A job that may start, with a LIVE roll and bit-profile key 0. -/
def live : State := run (chain [setF (descKey 0 0) F.ROL_DESC_A_0_STATE 4, setRegN R.AUD_BITKEY 0]) startable
/-- A START entry of frame 0: kind 1, body of 96 bytes of zeros. -/
def startEntry : List Byte := bytesOf ([1, 0, 0, 0, 96] ++ List.replicate 187 0)
def cmdBuf (n : Nat) : Cmd := { cmd0 with w2 := 0x1000, w3 := BitVec.ofNat 64 n }

/-- A recording that runs, and one with an input that waits for room. -/
def recording (waits : Bool) (s : State) : State := run (modChip fun c => { c with
  record := { armed := true, active := true, addr := 0x1000, len := 256 }
  backlog := if waits then [⟨2, 0x100, 0, 0, 0, 0, 0, []⟩] else [] }) s

theorem hyp_ReplayAndContext : (∀ c ∈ [cmdBuf 192, cmdBuf 1488, { cmdBuf 192 with w4 := 1 }], ∀ s ∈ [State.reset, live, bare, worker, capturing, rolled 3 bare,
      recording false State.reset, recording false (run (setF R.AUD_REPLAY_CTL F.AUD_REPLAY_CTL_EN 1) bare)], (fetched c s).mayStart c = true) ∧
    worker.isManager = false ∧ worker.chip.capture = none ∧ State.reset.isManager = true ∧ State.reset.running = false ∧
    ({ cmdBuf 192 with w4 := 1 } : Cmd).w4.toNat.testBit 0 = true ∧ (cmdBuf 192).w4.toNat.testBit 0 = false ∧
    State.reset.chip.record.active = false ∧ (recording false State.reset).chip.record.active = true ∧
    (recording false State.reset).chip.backlog = [] ∧ (let s := recording false (run (setF R.AUD_REPLAY_CTL F.AUD_REPLAY_CTL_EN 1) bare)
      s.running = true ∧ s.chip.record.on = true ∧ s.chip.backlog = [] ∧ s.chip.heldWrites = []) ∧ bare.chip.record.active = false ∧
    State.reset.chip.heldWrites = [] ∧ live.isManager = true ∧ live.running = false ∧ live.startOk = true ∧
    entriesOf ((cmdBuf 192).w3.toNat / 64) startEntry = [entryOf startEntry] ∧ (entryOf startEntry).kind = 1 ∧
    live.replayCheck (entryOf startEntry) [] = none ∧ (cmdBuf 192).w3.toNat = startEntry.length ∧
    (State.reset.replayCheck (entryOf startEntry) []).isSome = true ∧
    entriesOf (192 / 64) (live.hostBytes 0x1000 192) = [] ∧ bare.running = true ∧ bare.chip.capture = none ∧ capturing.chip.capture ≠ none ∧
    bare.chip.armedRoll = none ∧ bare.reg R.ROL_SWITCH_FRAME = 0 ∧ (∀ x < 2, bare.descState x ≠ 1 ∧ bare.descState x ≠ 3 ∧ bare.descState x ≠ 5) ∧
    (rolled 3 bare).descState 0 = 3 ∧ (rolled 3 bare).chip.capture = none := by decide +kernel

/-- The same with the buffer in the host's memory. -/
theorem hyp_ReplayAndContext_buffer : (withHost startEntry live).hostBytes 0x1000 startEntry.length = startEntry ∧
    (withHost startEntry live).replayCheck (entryOf startEntry) [] = none ∧ (withHost startEntry live).startOk = true :=
  ⟨hostBytes_hostWrite _ _ startEntry (by decide +kernel), by decide +kernel, by decide +kernel⟩

theorem hyp_ReplayAndContext_restore : (withHost ctx0 live).hostBytes 0x1000 ctx0.length = ctx0 ∧ (cmdBuf 1488).w3.toNat = ctx0.length ∧
    live.ctxCheck ctx0 = none ∧ live.startOk = true ∧ (fetched (cmdBuf 1488) (withHost ctx0 live)).isManager = true ∧ (live.ctxCheck []).isSome = true :=
  ⟨hostBytes_hostWrite _ _ ctx0 (by decide +kernel), by decide +kernel, by decide +kernel, by decide +kernel, by decide +kernel, by decide +kernel⟩

def shard0 : List Byte := bytesOf (List.replicate 9 0 ++ [2, 0, 0, 0, 4, 0, 0, 0, 0, 1, 0, 1, 0, 0, 0, 1, 0, 0, 0, 0, 12, 12, 0, 0, 0, 1, 0, 8, 0, 0,
  0, 1] ++ List.replicate 23 0 ++ [7, 106, 39, 199, 158, 90, 206, 42, 61, 71, 249, 221, 46, 131, 228, 255, 110, 168, 135, 43, 60, 34, 24, 246, 108,
  146, 184, 155, 85, 243, 101, 96])
def load0 : LoadS := ⟨⟨cmd0, true, false, 2, false, false⟩, 1, shard0.drop 0x40, [], 0, [], [], [], false, 0, [], [], [], [], false, []⟩
def loading (l : LoadS) (s : State) : State := run (modChip fun c => { c with load := some l }) s
def cmdAdp : Cmd := { cmd0 with opcode := 0x0210, w6 := 0x1001F }
def oldRoll : State := run (modChip fun c => { c with rollA := { c.rollA with freeNamed := true } }) (rolled 5 State.reset)

/-- P12 a root port in training. -/
def rootPort : State := run (chain [setPort 12 1, modPort 12 fun x => { x with mode := 1 }]) State.reset
/-- ROLL_LOAD from host memory, and from drive 0. -/
def cmdRoll (src : Nat) : Cmd := { cmd0 with opcode := 0x0201, w6 := BitVec.ofNat 64 src }

theorem hyp_RollCommands_load : (∀ c ∈ [cmd0, cmdRoll 0, cmdRoll 2, cmdAdp, { cmd0 with opcode := 0x0203 }], ∀ s ∈ [State.reset, loading load0 State.reset,
      rolled 2 State.reset, rolled 3 bare, rolled 4 State.reset, run (setF (descKey 1 0) F.ROL_DESC_A_0_STATE 2) (rolled 4 State.reset)],
      (fetched c s).mayStart c = true) ∧ (cmdRoll 2).w6.toNat % 8 < 4 ∧
    rootPort.portState 12 = 1 ∧ (run (setPort 12 6) rootPort).portState (if (cmdRoll 2).w6.toNat.testBit 4 then 13 else 12) = 6 ∧
    (run (setF (descKey 1 0) F.ROL_DESC_A_0_STATE 2) (rolled 4 State.reset)).loadDesc = none ∧ (loading load0 State.reset).loadDesc.isSome = true ∧
    cmdAdp.w6.toNat / 256 % 8 ≠ 2 := by decide +kernel

theorem hyp_RollCommands : State.reset.isManager = true ∧ (3 : Word).toNat % 8 < 4 ∧ State.reset.chip.load = none ∧ State.reset.loadDesc = some 0 ∧
    (rolled 4 State.reset).loadDesc = some 1 ∧ (loading load0 State.reset).chip.load.isSome = true ∧
    [0, 1].find? (fun x => (rolled 2 State.reset).descState x == 2 && (rolled 2 State.reset).descRoot x == cmdRoot cmd0) = some 0 ∧
    [0, 1].find? (fun x => State.reset.descState x == 2 && State.reset.descRoot x == cmdRoot cmd0) = none ∧ cmd0.w7.toNat.testBit 0 = false ∧
    (∀ s ∈ [rolled 3 State.reset, rolled 3 bare], [0, 1].find? (fun x => s.descState x == 3 && s.descRoot x == cmdRoot cmd0) = some 0) ∧
    (rolled 3 State.reset).running = false ∧ (rolled 3 bare).running = true ∧ (rolled 2 State.reset).byRoot (cmdRoot cmd0) = some 0 ∧
    (rolled 2 State.reset).descState 0 = 2 ∧ (rolled 4 State.reset).byRoot (cmdRoot cmd0) = some 0 ∧ (rolled 4 State.reset).descState 0 = 4 ∧
    cmdAdp.w6.toNat / 256 % 8 ≤ 3 ∧ cmdAdp.w6.toNat / 2 ^ 16 % 2 ^ 16 ≠ 0 ∧ oldRoll.freeable 0 = true ∧
    (∀ r ∈ oldRoll.ownRegions 0, oldRoll.refetchIn r.1 r.2 = false) ∧ State.reset.freeable 0 = false ∧ State.reset.freeable 1 = false := by
  decide +kernel

/-- The last LIVE roll of one mirrored region, and ROLL_SWITCH that first loads a roll of source `src`. -/
def remembered : State := run (modChip fun c => { c with
  lastLive := cmdRoot cmd0, lastRoll := { regions := [(511, 255)] }, mirror := [(256 * 511 + 255, leNat (cmdRoot cmd0))] }) State.reset
def cmdBuild (src : Nat) : Cmd := { cmd0 with opcode := 0x0203, w7 := BitVec.ofNat 64 (1 + 2 * src) }
def boundOld (n : Nat) : State := run (setF (descKey 0 9) F.ROL_DESC_A_BOUND_BOUND n) (rolled 5 State.reset)
def loadingA (adapter : Bool) : State := loading { load0 with desc := 0, ask := { load0.ask with adapter := adapter } } (rolled 2 State.reset)

theorem hyp_RollCommands_more : (∀ c ∈ [cmdRoll 1, cmdRoll 4, cmdBuild 1, cmdBuild 2, cmdBuild 3, cmdAdp, { cmdAdp with w6 := 0x1F }],
      ∀ s ∈ [worker, State.reset, remembered, loadingA true, loadingA false, boundOld 1, boundOld 0], (fetched c s).mayStart c = true) ∧
    worker.isManager = false ∧ State.reset.askStatus (askOf (cmdRoll 2) true) ≠ 0 ∧ (cmdRoll 4).w6.toNat % 8 = 4 ∧
    remembered.mirrorHolds (cmdRoot (cmdRoll 4)) = true ∧ remembered.chip.load = none ∧ remembered.loadDesc = some 0 ∧
    (511, 255) ∈ remembered.chip.lastRoll.regions ∧ remembered.mirrored (511, 255) = true ∧ remembered.live = none ∧
    (∀ b ∈ [false, true], [0, 1].find? (fun x => (loadingA b).descState x == 2 && (loadingA b).descRoot x == cmdRoot cmd0) = some 0 ∧
      ∃ l, (loadingA b).chip.load = some l ∧ l.ask.adapter = b ∧ l.desc = 0) ∧ twAgree (State.reset.reg R.FRM_LEN) = true ∧
    (cmdBuild 3).w7.toNat.testBit 0 = true ∧ (cmdBuild 3).w7.toNat / 2 % 8 = 3 ∧ (cmdBuild 1).w7.toNat / 2 % 8 = 1 ∧
    (cmdBuild 2).w7.toNat / 2 % 8 = 2 ∧ (∀ n ∈ [0, 1], (boundOld n).byRoot (cmdRoot cmd0) = some 0 ∧ (boundOld n).descState 0 = 5 ∧
      (boundOld n).bound 0 = n) ∧ State.reset.byRoot (cmdRoot cmd0) = none ∧ State.reset.askStatus (askOf { cmdAdp with w6 := 0x1F } true) ≠ 0 := by
  decide +kernel

theorem hyp_RollCommands_adapter (u n : Nat) (hn : n < 16) : State.reset.rf (R.MXA_ADP_SLOT u n) F.MXA_ADP_SLOT_PKEY = 0 := by
  have h : regOf (R.MXA_ADP_SLOT u n) = regOf (R.MXA_ADP_SLOT 0 n) := by
    have e (u : Nat) : regOf (R.MXA_ADP_SLOT u n) = findReg tileRegs (0x480 + n * 8) := by
      have h1 : ¬ R.MXA_ADP_SLOT u n < 0x100000 := by simp only [R.MXA_ADP_SLOT, tileKey]; omega
      have h2 : (R.MXA_ADP_SLOT u n - 0x100000) % 0x4000 = 0x480 + n * 8 := by simp only [R.MXA_ADP_SLOT, tileKey]; omega
      rw [regOf, if_neg h1, h2]
    rw [e u, e 0]
  have hz : ∀ n < 16, fget (resetWord (R.MXA_ADP_SLOT 0 n)) F.MXA_ADP_SLOT_PKEY = 0 := by decide +kernel
  show fget (resetWord (R.MXA_ADP_SLOT u n)) _ = 0
  rw [resetWord, h]; exact hz n hn

/-- A roll image's header and one shard of group 0; the digests were computed outside the model. -/
def table0 : List Byte := bytesOf ([82, 79, 76, 76, 1, 0, 8, 50, 1, 0, 0, 0, 1, 0, 0, 0, 0, 37] ++ List.replicate 14 0 ++ [7, 106, 39, 199, 158, 90, 206, 42, 61, 71,
  249, 221, 46, 131, 228, 255, 110, 168, 135, 43, 60, 34, 24, 246, 108, 146, 184, 155, 85, 243, 101, 96, 240, 193, 145, 222, 49, 15, 43, 232, 52, 254,
  125, 57, 144, 122, 175, 166, 3, 253, 47, 104, 132, 88, 238, 79, 193, 18, 129, 76, 63, 133, 173, 231] ++ List.replicate 163 0 ++ [1] ++
  List.replicate 1020 0 ++ [12, 53, 161, 212, 200, 131, 91, 58, 83, 245, 3, 166, 187, 227, 61, 194, 25, 121, 77, 220, 237, 166, 230, 132, 107, 195, 255, 118, 15,
  244, 59, 159] ++ List.replicate 8160 0) ++ shard0
def load1 : LoadS := { load0 with table := shard0, shards := 1 }
/-- The same image as an adapter's: its shard is adapter data in region 1. -/
def tableA : List Byte := (table0.set 0x251B 1).set 0x2520 64
def loadA : LoadS := { load0 with desc := 31, ask := { load0.ask with adapter := true } }
def vaulting : LoadS := { load0 with ask := { load0.ask with source := 4 }, vault := [(511, 255)] }

theorem hyp_LoadProgress_table : (loading load0 State.reset).chip.load = some load0 ∧ (loading load0 State.reset).chip.loadWait = [] ∧
    load0.desc < 2 ∧ load0.ask.source ≠ 4 ∧ load0.table = [] ∧ (let s := loading load0 State.reset
      let r := cutTable (s.imageOf load0.ask table0)
      s.tableOk load0 r = true ∧ s.tableOk load0 (cutTable (s.imageOf load0.ask [])) = false ∧ s.noSlot r = false) ∧
    load0.ask.adapter = false ∧ load0.ask.store = false ∧ load0.root.length = 32 := by decide +kernel

theorem hyp_LoadProgress_adapter : loadA.desc < 32 ∧ loadA.ask.adapter = true ∧ loadA.ownDone = false ∧ (let s := loading loadA State.reset
      let r := cutTable (s.imageOf loadA.ask tableA)
      s.tableOk loadA r = true ∧ 0 ∈ s.needed { loadA with table := r.table, shards := field r.head 0xC 4 } ∧ 0 ∉ loadA.done) := by decide +kernel

/-- A live roll whose groups are others, in a layout without a second slot; and a roll store without room for a shard. -/
def noRoom : State := run (chain [setF R.ROL_CTL F.ROL_CTL_LAYOUT_SET 1, setRegN (R.ROL_GROUP 0) 0x1000000]) (loading load0 (rolled 4 State.reset))
def load0S : LoadS := { load0 with ask := { load0.ask with store := true } }
def storing : State := loading load0S State.reset

theorem hyp_LoadProgress_room : (let r := cutTable (noRoom.imageOf load0.ask table0)
      noRoom.chip.load = some load0 ∧ noRoom.tableOk load0 r = true ∧ noRoom.noSlot r = true) ∧
    storing.storeFits load0S (cutTable (storing.imageOf load0S.ask table0)) = true ∧
    storing.noSlot (cutTable (storing.imageOf load0S.ask table0)) = false := by decide +kernel

/-- A worker without a load, and the command of a roll load from a stream of the fabric. -/
theorem hyp_LoadProgress_worker : worker.isManager = false ∧ worker.chip.load = none ∧ worker.chip.loadWait = [] ∧
    (askOf { cmd0 with opcode := 0x0201, w6 := 2 } false).source ≠ 4 ∧ worker.askStatus (askOf { cmd0 with opcode := 0x0201, w6 := 2 } false) = 0 := by
  decide +kernel

theorem hyp_LoadProgress_shard : load1.table ≠ [] ∧ ((loading load1 State.reset).needed load1).contains 0 = true ∧ load1.done.contains 0 = false ∧
    load1.ownDone = false ∧ (∀ b ∈ [List.replicate 512 (0 : Byte), []],
      (loading load1 State.reset).shardBytes load1 (load1.shard 0) b = some b) ∧ (List.replicate 512 (0 : Byte)).length = (load1.shard 0).length ∧
    sha256 (List.replicate 512 0) = (load1.shard 0).digest ∧ ((load1.shard 0).payload (List.replicate 512 0)).isSome = true ∧
    ¬ (([] : List Byte).length = (load1.shard 0).length) ∧ (∀ e ∈ load1.resent, e.1 = 0 → e.2 < 3) ∧
    ({ load1 with resent := [(0, 3)] } : LoadS).resent.find? (·.1 == 0) = some (0, 3) ∧
    ((loading load1 State.reset).needed load1).filter (fun i => !load1.done.contains i) = [0] ∧
    (loading load1 State.reset).storedShard load1 (load1.shard 0) = none := by decide +kernel

theorem hyp_LoadProgress_vault : (loading vaulting State.reset).tileOk 511 = true ∧ vaulting.vault.contains (511, 255) = true ∧ vaulting.ask.source = 4 ∧
    (let s := loading load0 (run (modTile 511 fun x => { x with cbUnits := 4 }) sliced)
     s.tileOk 511 = true ∧ 0 < (s.tile 511).cbUnits ∧ (s.tile 511).cbUnits ≤ 4 ∧ s.unitFits 511 128 = true ∧
       ∀ n ∈ s.unitsBefore 511 2, s.unitFits 511 n = false) := by decide +kernel

theorem hyp_TwinWrites : (regOf R.FRM_LEN).isSome = true ∧ (∀ r ∈ regOf R.FRM_LEN, r.twin = true) ∧ isTileKey R.FRM_LEN = false ∧
    (∀ r ∈ regOf (R.GRN_TBL_SEL 511), r.twin = true) ∧ (regOf (R.GRN_TBL_SEL 511)).isSome = true ∧ tileOf (R.GRN_TBL_SEL 511) < State.reset.numTiles ∧
    twAgree 0x1000 = false ∧ twAgree 0xFFFFEFFF00001000 = true ∧ bare.running = true ∧ State.reset.running = false := by decide +kernel

/-- A part of grade LZM-3207, whose tiles end at 479. -/
def onSmall : State := run (modChip fun c => { c with part := { c.part with grade3207 := true } }) on

theorem hyp_RegisterAccesses : (⟨64, 0, 4, 4⟩ : HostAcc).func ≤ 64 ∧ (⟨64, 0, 4, 4⟩ : HostAcc).width ≠ 8 ∧ (⟨0, 0, 4, 8⟩ : HostAcc).off % 8 ≠ 0 ∧
    State.reset.domState 1 ≠ 2 ∧ State.reset.domState 2 ≠ 2 ∧ (run (setDom 1 2) State.reset).domState 1 = 2 ∧
    State.reset.rf R.HIF_TILE_WIN F.HIF_TILE_WIN_TILE < State.reset.numTiles ∧ (let s := run (setF R.HIF_TILE_WIN F.HIF_TILE_WIN_TILE 480) onSmall
      s.numTiles ≤ s.rf R.HIF_TILE_WIN F.HIF_TILE_WIN_TILE) ∧ 1 ≤ (⟨64, 0, 8, 8⟩ : HostAcc).func ∧ (⟨64, 0, 8, 8⟩ : HostAcc).off % 8 = 0 ∧
    State.reset.running = false ∧ 0xFFFF8 < 0x100000 ∧ 0xFFFF8 % 8 = 0 ∧ 0x3FF8 < 0x4000 ∧ 0x3FF8 % 8 = 0 ∧ regOf 0xFFFF8 = none ∧
    booting.served = false ∧ (run (setDom 1 2) State.reset).chip.heldWrites = [] ∧ (run (setDom 1 2) State.reset).entering = [] ∧
    (run (setDom 1 2) State.reset).dropped = [] := by decide +kernel

/-- A frozen chip, a recording with room and one without, and an address of each kind. -/
def frozenAt (s : State) : State := run (setF R.FRM_CTL F.FRM_CTL_FROZEN 1) s
def recordsAll : State := recording false bare
def recordsNone : State := recording true bare

theorem hyp_RegisterAccesses_writes : (∀ s ∈ [State.reset, bare, recordsAll, recordsNone], s.served = true) ∧ (State.reset.accessed false).running = false ∧
    (bare.accessed false).running = true ∧ (bare.accessed false).admits = true ∧ (recordsAll.accessed false).admits = true ∧
    (recordsNone.accessed false).running = true ∧ (recordsNone.accessed false).admits = false ∧ (recordsNone.accessed true).admits = false ∧
    (bare.accessed false).recKind R.FRM_COUNT 0 = none ∧ (recordsAll.accessed false).recKind R.FRM_STRETCH_MAX 0 = some 9 ∧
    bankSelector R.SPK_SEL = true ∧ (bare.accessed false).accKey ⟨0, 0, R.FRM_LEN, 8⟩ = some R.FRM_LEN ∧
    (bare.accessed true).accKey ⟨0, 2, 0x3FF8, 8⟩ = some (tileKey 0 0x3FF8) ∧ (bare.accessed false).accKey ⟨0, 1, 0, 8⟩ = none ∧
    (bare.accessed true).accKey ⟨0, 2, 0x4000, 8⟩ = none := by decide +kernel

theorem hyp_RegisterAccesses_resume : (∀ s ∈ [bare, frozenAt bare, frozenAt worker, recordsAll], s.served = true ∧ s.tileOk 511 = true) ∧
    (bare.accessed true).admits = true ∧ (State.reset.accessed true).running = false ∧ (recordsAll.accessed true).admits = true ∧
    (bare.accessed true).frozen = false ∧ (let s := (frozenAt bare).accessed true
      s.frozen = true ∧ s.isManager = true ∧ s.chip.clap = none ∧ s.admits = true) ∧ (let s := (frozenAt worker).accessed true
      s.frozen = true ∧ s.isManager = false ∧ s.admits = true) := by decide +kernel

theorem hyp_DataPortsAndSelectors : booting.served = false ∧ booting.tileOk 511 = true ∧ State.reset.served = true ∧ bare.served = true ∧
    bare.tileOk 511 = true ∧ (∀ core ∈ [false, true], (State.reset.accessed core).running = false ∧ (bare.accessed core).running = true ∧
      (bare.accessed core).admits = true) ∧ (let a := bare.accessed false
      a.inSpkBank a.spkActive (8 * a.rf R.SPK_TBL_ADDR F.SPK_TBL_ADDR_ADDR) = true ∧ a.classUsed = true) ∧ (let a := bare.accessed true
      8 * a.rf (R.WPA_CB_ADDR 511) F.WPA_CB_ADDR_ADDR / 0x20000 = a.rf (R.WPA_CB_STAT 511) F.WPA_CB_STAT_ACTIVE ∧
        8 * a.rf (R.SFU_TBL_ADDR 511) F.SFU_TBL_ADDR_ADDR / 0x8000 = a.rf (R.SFU_STAT 511) F.SFU_STAT_ACTIVE) ∧
    twAgree 0xFFFFFFFE00000001 = true ∧ twAgree 1 = false ∧ (State.reset.accessed true).rb (R.GRN_STAT 511) (grnFilled 1) = false ∧
    ((run (setF (R.GRN_STAT 511) (grnFilled 1) 1) State.reset).accessed true).rb (R.GRN_STAT 511) (grnFilled 1) = true := by decide +kernel

def cmdTel : Cmd := { cmd0 with w3 := 0x1000, w4 := 2064 }
def cmdTelReg : Cmd := { cmd0 with w2 := 1, w3 := 0x1000, w4 := 8 }

/-- A calibration page of zeros; its CRC was computed outside the model. -/
def page0 : List Byte := bytesOf [84, 67, 65, 76, 1, 0, 0, 0, 79, 241, 221, 17, 0, 0, 0, 0] ++ List.replicate 4080 0

theorem hyp_HostServices : (∀ c ∈ [cmdTel, cmdTelReg, { cmd0 with w2 := 2 }], (fetched c State.reset).mayStart c = true) ∧ telOk cmdTel = true ∧
    cmdTel.w2.toNat % 256 = 0 ∧ telOk cmdTelReg = true ∧ cmdTelReg.w2.toNat % 256 = 1 ∧ cmdTelReg.w4.toNat = 8 ∧ telOk { cmd0 with w2 := 2 } = false ∧
    (∀ k ∈ [R.SPK_TBL_DATA, R.TIR_CLASS_DATA, R.FAB_CMAP_DATA], cmdTelReg.w5.toNat + 8 * 0 ≠ k) ∧ cmd0.w2.toNat.testBit 0 = false ∧
    (1 : Word).toNat.testBit 0 = true ∧ cmd0.w2.toNat.testBit 11 = false ∧ (0x800 : Word).toNat.testBit 11 = true ∧
    (0x1FF : Word).toNat % 512 < State.reset.numTiles := by decide +kernel

/-- The CRC register after each 255 bytes of zeros. -/
def crcSteps : List Nat := [0xFFFFFFFF, 0x0B7AE953, 0x53F2670E, 0x4F6441E0, 0x98445079, 0x0FEE2ABD, 0xB58E616F, 0x22C161CE, 0x689CF94E, 0xB2BC8B26, 0x41485EDF, 0x17FFA999, 0x13571C9D, 0x5F6984E6, 0xBF580149, 0x2F133DD4, 0xEE220EB0]

theorem hyp_HostServices_crc : (List.range 16).all (fun i => (List.replicate 255 (0 : Byte)).foldl crcByte (crcSteps.getD i 0) == crcSteps.getD (i + 1) 0) = true := by
  decide +kernel

theorem crc_zeros (n : Nat) (h : n ≤ 16) : (List.replicate (255 * n) (0 : Byte)).foldl crcByte 0xFFFFFFFF = crcSteps.getD n 0 := by
  induction n with
  | zero => rfl
  | succ n ih =>
    rw [Nat.mul_succ, ← List.replicate_append_replicate, List.foldl_append, ih (by omega)]
    exact eq_of_beq (List.all_eq_true.1 hyp_HostServices_crc n (List.mem_range.2 (by omega)))

theorem hyp_HostServices_page : calValid page0 = true := by
  have hl : page0.length = 4096 := by simp only [page0, bytesOf, List.length_append, List.length_map, List.length_cons, List.length_nil, List.length_replicate]
  have hd : page0.drop 0x10 = List.replicate (255 * 16) 0 := List.drop_left' rfl
  have hf : field page0 0 4 = 0x4C414354 ∧ field page0 4 2 = 1 ∧ field page0 8 4 = not32 (crcSteps.getD 16 0) := by decide +kernel
  simp only [calValid, hl, hd, hf, crc32, crc_zeros 16 (Nat.le_refl _), decide_true, beq_self_eq_true, Bool.and_self]

theorem hyp_AddressFaults : on.fresh d0 = true ∧ (Instr.dmov { dmov0 with g := gOf 6 0, dir := true }).wf = true ∧ on.badAddr (gAdd (gOf 6 0) 0) = true ∧
    gMod (gAdd (gOf 6 0) 0) = on.position ∧ (Instr.dmov { dmov0 with g := gOf 6 0 }).wf = true ∧ on.readReady 0 0 0 64 = true ∧ onSmall.fresh d0 = true ∧
    (Instr.kvCommit { kv0 with ntf := true, g := gaddr 0 480 0 0 }).wf = true ∧ onSmall.badAddr (gaddr 0 480 0 0) = true ∧
    gMod (gaddr 0 480 0 0) = onSmall.position ∧ onSmall.readReady 0 0 0 64 = true := by decide +kernel

/-- A commit whose descriptor is not usable copies nothing, whatever its path line. -/
theorem hyp_AddressFaults_copies (bs : List PByte) : onSmall.kvCopies { kv0 with ntf := true, g := gaddr 0 480 0 0 } bs = [] := by
  have h : onSmall.kvUsable 0 0 = false := by decide +kernel
  have e : onSmall.kvCheck { kv0 with ntf := true, g := gaddr 0 480 0 0 } bs = 1 := by
    simp only [State.kvCheck, kv0, h, Bool.not_false, if_true]
  simp only [State.kvCopies, e, reduceIte, Nat.succ_ne_zero]

/-- Domain `d` in state `v` with the votes `n`. -/
def powered (d v n : Nat) (s : State) : State := run (chain [setDom d v, setF (R.PWR_VOTE d) F.PWR_VOTE_SLOTS n]) s
def dropping (s : State) : State := run (modChip fun c => { c with dropDue := [9] }) (powered 9 3 0 s)
def recovering : State := run (setF R.PWR_STAT F.PWR_STAT_RECOVERY 1) (powered 9 0 0 State.reset)
/-- PWR_VOTE of domain `d`, slot `n`. -/
def cmdVote (d n : Nat) : Cmd := { cmd0 with w2 := BitVec.ofNat 64 (d + 256 * n) }

theorem hyp_PowerDomains : voteRange (voteArgs (cmdVote 9 31)).1 (voteArgs (cmdVote 9 31)).2 = true ∧ (powered 9 0 0 State.reset).domState 9 < 2 ∧
    (powered 9 0 0 State.reset).voteRefused 9 = none ∧ (∀ c ∈ [cmdVote 9 31, cmdVote 3 6], ∀ s ∈ [powered 9 0 0 State.reset, powered 9 3 (2 ^ 31) State.reset,
      recovering, powered 3 3 64 bare, powered 3 3 64 State.reset], (fetched c s).mayStart c = true) ∧ (voteArgs (cmdVote 3 6)).2 = 6 ∧ State.reset.isManager = true ∧ State.reset.chip.parked = false ∧
    recovering.domState 9 < 2 ∧ recovering.voteRefused 9 = some 1 ∧ ((powered 9 3 (2 ^ 31) State.reset).votes 9).testBit 31 = true ∧
    ((powered 9 3 0 State.reset).votes 9).testBit 31 = false ∧ (let s := powered 3 3 64 bare
      (s.votes 3).testBit 6 = true ∧ s.isManager = true ∧ s.running = true ∧ s.chip.capture = none ∧
        (∀ x ∈ s.chip.slots, x.ended = true ∨ x.drained = true)) ∧ (let s := powered 3 3 64 State.reset
      (s.votes 3).testBit 6 = true ∧ s.isManager = true ∧ s.running = false ∧ s.chip.capture = none ∧
        (∀ x ∈ s.chip.slots, x.ended = true ∨ x.drained = true)) ∧ (let s := powered 3 3 0 State.reset
      (s.votes 3).testBit 6 = false ∧ s.chip.capture = none) := by decide +kernel

/-- A parked job, and a job with a request that runs. -/
def parked : State := run (modChip fun c => { c with parked := true }) (powered 3 3 0 bare)
def requesting : State := requested slot0 (powered 3 3 64 bare)
def unpowered : State := run (modChip fun c => { c with vin := false }) State.reset

theorem hyp_PowerDomains_more : (∀ s ∈ [parked, requesting, powered 3 3 64 worker, powered 3 3 64 capturing], (fetched (cmdVote 3 6) s).mayStart (cmdVote 3 6) = true) ∧
    (fetched (cmdVote 10 0) State.reset).mayStart (cmdVote 10 0) = true ∧ voteRange (voteArgs (cmdVote 10 0)).1 (voteArgs (cmdVote 10 0)).2 = false ∧
    (voteArgs (cmdVote 10 0)).2 ≠ 6 ∧ voteRange 3 6 = true ∧ voteArgs (cmdVote 3 6) = (3, 6) ∧ parked.isManager = true ∧ parked.chip.parked = true ∧
    parked.chip.clap = none ∧ ¬ parked.domState 3 < 2 ∧ worker.isManager = false ∧ ((powered 3 3 64 worker).votes 3).testBit 6 = true ∧
    (powered 3 3 64 worker).chip.capture = none ∧ (powered 3 3 64 capturing).chip.capture ≠ none ∧ requesting.chip.capture = none ∧
    (requesting.votes 3).testBit 6 = true ∧ requesting.chip.slots = [slot0] ∧ slot0.ended = false ∧ slot0.drained = false := by decide +kernel

theorem hyp_PowerDomains_power : unpowered.powered = false ∧ State.reset.powered = true ∧ (∀ d ∈ [2, 8], (powered d 3 1 State.reset).powered = true ∧
      (powered d 3 1 State.reset).domBusy d = false) ∧ (powered 2 3 1 bare).powered = true ∧ (powered 2 3 1 bare).votes 2 ≠ 0 ∧
    (powered 2 3 1 bare).domState 2 = 3 ∧ (powered 2 3 1 bare).domBusy 2 = true ∧
    (run (setF R.PWR_CTL F.PWR_CTL_CUE_EN 0) State.reset).rb R.PWR_CTL F.PWR_CTL_CUE_EN = false ∧
    State.reset.domState (portDom 13) ≠ 1 ∧ (run (setDom (portDom 13) 1) State.reset).domState (portDom 13) = 1 ∧
    State.reset.chip.dropDue.contains 0 = false := by decide +kernel

/-- The drop of domain 0 with a job is refused. -/
def refusing : State := run (modChip fun c => { c with dropDue := [0] }) (powered 0 3 0 bare)
def rechecking (d : Nat) (s : State) : State := run (modChip fun c => { c with dropDue := [], refused := [d] }) s

theorem hyp_PowerDomains_drops : (dropping State.reset).votes 9 = 0 ∧ (dropping State.reset).chip.dropDue.contains 9 = true ∧
    (dropping State.reset).refuser 9 = none ∧ refusing.votes 0 = 0 ∧ refusing.chip.dropDue.contains 0 = true ∧ refusing.refuser 0 = some 1 ∧
    refusing.chip.refused.contains 0 = false ∧ (rechecking 9 (dropping State.reset)).chip.refused.contains 9 = true ∧
    (rechecking 9 (dropping State.reset)).refuser 9 = none ∧ (rechecking 0 refusing).chip.refused.contains 0 = true ∧ (rechecking 0 refusing).refuser 0 ≠ none ∧
    (powered 8 3 1 State.reset).votes 8 ≠ 0 ∧ (powered 8 3 1 State.reset).domState 8 = 3 ∧ (domStates 8).contains 2 = true ∧
    (powered 2 3 1 State.reset).votes 2 ≠ 0 ∧ (powered 2 3 1 State.reset).domState 2 = 3 ∧ (domStates 2).contains 2 = true ∧
    State.reset.running = false ∧ State.reset.chip.load = none ∧ State.reset.chip.refetch = [] ∧
    (run (setF R.PWR_CTL F.PWR_CTL_CUE_EN 1) State.reset).rb R.PWR_CTL F.PWR_CTL_CUE_EN = true ∧ (powered 9 0 0 State.reset).chip.heldDown.contains 9 = false ∧
    (run (modChip fun c => { c with wakeUntil := 5 }) State.reset).chip.wakeUntil ≠ 0 := by decide +kernel

theorem hyp_Samples : unpowered.powered = false ∧ State.reset.powered = true ∧ State.reset.chip.powerSensor.failed = false ∧ 0 ≤ State.reset.chip.powerSensor.last ∧ State.reset.chip.powerSensor.last ≤ 2500 ∧
    State.reset.rf R.PWR_LIMIT F.PWR_LIMIT_PEAK < 2500 ∧ (State.reset.sensor 71).seen = false ∧ (State.reset.sensor 71).failed = false ∧
    (400 : Int) ≤ 600 + toSigned 8 (State.reset.calByte (0x300 + 71)) := by decide +kernel

/-- A write flit of 64 bytes from tile 0 to tile `dst`. -/
def flitTo (dst : Nat) (sched : Bool) : Flit :=
  ⟨3, 0, 0, 0, 4, dst, none, sched, false, false, gaddr 0 dst 0 0x17FFC0, List.replicate 64 9, 0, 0, 1, 0, 0, 0, 0, 1, 0, false, false, 16, false⟩
def moving (f : Flit) : State := run (modChip fun c => { c with flits := [f] }) on
/-- The sprocket store marks every slot of every port in the active bank's first table. -/
def marked (s : State) : State := run (fun s => [.mem (sprocketKey (s.spkBase s.spkActive)) (List.replicate 16 0xFF)]) s
def landing0 : Landing := ⟨0x17FFC0, List.replicate 64 9, 2, false, 0, 0, 0, false⟩
def landing (s : State) : State := run (modTile 0 fun x => { x with landing := [landing0] }) s

theorem hyp_FlitsMoveAndLand : (∀ f ∈ [flitTo 1 false, flitTo 1 true, flitTo 0 false], (moving f).chip.flits = [f] ∧ (moving f).meshHeld = false ∧
    (moving f).tickAt = none ∧ f.inPort < 5 ∧ f.wait = false ∧ (moving f).landingFull f.cur = false) ∧
    (flitTo 1 false).cur ≠ (flitTo 1 false).dstTile ∧ (∀ f ∈ [flitTo 1 false, flitTo 0 false], (moving f).undecided f ((moving f).hopAt f) = false) ∧
    (let f := flitTo 1 true
     let s := marked (moving f)
     s.chip.flits = [f] ∧ s.meshHeld = false ∧ s.tickAt = none ∧ s.undecided f f.cyc = false ∧ s.openSlots f f.cyc = false ∧ 8 * f.cur + s.outPort f = 0 ∧
       s.slotMarked 0 f.cyc = true ∧ (0, f.cyc) ∉ s.chip.taken ∧ (moving f).undecided f f.cyc = false ∧ (moving f).openSlots f f.cyc = false ∧
       (moving f).slotMarked 0 f.cyc = false) ∧ (flitTo 0 false).cur = (flitTo 0 false).dstTile ∧
    gSpace (flitTo 0 false).g = 0 ∧ (flitTo 0 false).data.length = 64 ∧ gOff (flitTo 0 false).g % 64 = 0 ∧ (landing on).tileOk 0 = true ∧
    (landing on).meshHeld = false ∧ ((landing on).tile 0).landing = [landing0] ∧ landing0.data.length = 64 ∧ landing0.off % 64 = 0 ∧
    landing0.off % 0x180000 = 0x17FFC0 ∧ granulesOf 0x17FFC0 64 = [6143] ∧ (landing on).fullNow 0 6143 = false ∧
    (landing (run (setFull 0 6143 true) on)).fullNow 0 6143 = true := by
  decide +kernel

/-- Flits whose cycle is past FRM_LEN, where the tick is not known, and one in the stretch of a held chip. -/
theorem hyp_FlitsMoveAndLand_stretch : (∀ b ∈ [false, true], (let f := { flitTo 1 b with cyc := 4096 }
      let s := moving f
      s.chip.flits = [f] ∧ s.meshHeld = false ∧ s.tickAt = none ∧ s.undecided f (if f.sched then f.cyc else s.hopAt f) = true)) ∧
    (let f := { flitTo 1 true with cyc := 4096 }
     let s := moving f
     let t := run (modChip fun c => { c with fcyc := 5000, tickHold := 6000 }) s
     t.chip.flits = [f] ∧ t.meshHeld = false ∧ t.openSlots f f.cyc = true ∧ t.undecided f f.cyc = false ∧ t.tickAt = none) := by decide +kernel

/-- Port `p` up. -/
def up (p : Nat) (s : State) : State := run (setPort p 3) s
def packet0 : Packet :=
  ⟨0, true, false, false, false, 0, 3, 7, 0, gaddr 0 5 0 0, 9, 2, 1, 1, false, 0, 0, 0, 1, 0, 0, List.replicate 64 8⟩
def buffered (k : Packet) : State := run (chain [setPort 11 3, modPort 11 fun x => { x with rx := [⟨0, false, k⟩] }])
  (run (modChip fun c => { c with fcyc := 30 }) bare)
def packet3 : Packet := { packet0 with ptype := 3, sched := false, payload := [] }
def tracked : State := run (modChip fun c => { c with nextId := 1, xfers := [{ xfer0 with ttag := 7, dstMod := 9, tracked := true }] }) (up 11 on)

/-- The job's key 3 is allowed at port 11. -/
def keyed (s : State) : State := run (setTw (R.FAB_PKEY_TBL 11 63) (3 + 2 ^ 16)) s

theorem hyp_PacketsArrive : (up 11 bare).portUp 11 = true ∧ (keyed (up 11 bare)).portUp 11 = true ∧
    (keyed (up 11 bare)).keyAllowed 11 packet0.pkey = true ∧ packet0.ptype < 5 ∧ packet0.hops ≠ 15 ∧ packet0.sched = true ∧
    ((keyed (up 11 bare)).port 11).rxRoom packet0 = true ∧ packetCrc packet0 + 1 ≠ packetCrc packet0 ∧ (1 : Nat) ≠ 0 ∧
    (up 11 bare).keyAllowed 11 packet0.pkey = false := by decide +kernel

theorem hyp_PacketsArrive_completion : (keyed tracked).portUp 11 = true ∧ (keyed tracked).keyAllowed 11 packet3.pkey = true ∧
    packet3.ptype = 3 ∧ packet3.pkey ≠ 0 ∧ packet3.sched = false ∧ (keyed tracked).meshHeld = false ∧ gMod packet3.dst = (keyed tracked).position ∧
    ((keyed tracked).chip.xfers.find? (fun x => x.tracked && x.ttag == packet3.ttag && x.dstMod == packet3.srcMod)).isSome = true := by decide +kernel

/-- A job's write, and a management packet of type 4, released. -/
theorem hyp_PacketsArrive_release : (∀ k ∈ [packet0, { packet0 with pkey := 0, ptype := 4 }], (let s := buffered k
      s.portUp 11 = true ∧ firstRelease ((s.port 11).rx.filter fun e => !s.mustWait 11 e.pkt) = some ⟨0, false, k⟩ ∧ s.meshHeld = false ∧
        s.releaseCyc 0 ≤ s.chip.fcyc ∧ s.shardOf 11 k = none ∧ gMod k.dst = s.position ∧ s.badAddr k.dst = false ∧ gSpace k.dst ≠ 7)) ∧
    packet0.pkey ≠ 0 ∧ packet0.ptype = 0 ∧ mgmtMessage { packet0 with pkey := 0, ptype := 4, payload := [] } = none ∧
    (let k := { packet0 with pkey := 0, ptype := 3 }
     mgmtMessage k = none ∧ k.ptype ≠ 0 ∧ (buffered k).shardOf 11 k = none) := by decide +kernel

/-- An intact control symbol without a token, that reports `n` packets lost. -/
def symbolWith (n : Nat) : CtlSym :=
  let c : CtlSym := ⟨1, 0, n, 1, 0, ⟨0, 0, 0, 0, 0⟩, [], 0⟩
  { c with crc := symbolCrc c }
def symbol0 : CtlSym := symbolWith 0
def symbol1 : CtlSym := symbolWith 1

theorem hyp_LinksAndRates : (up 11 bare).portUp 11 = true ∧ ((up 11 bare).port 11).queue = [] ∧ symbolIntact symbol0 = true ∧ symbol0.lossCount = 0 ∧
    symbol0.token.kind = 0 ∧ symbolIntact symbol1 = true ∧ symbol1.lossCount ≠ 0 ∧ symbol1.token.kind = 0 ∧ symbolIntact { symbol0 with crc := symbol0.crc + 1 } = false ∧
    (run (modChip fun c => { c with rate := [(9, 64)], marked := [9] }) bare).chip.rate = [(9, 64)] ∧
    (run (setF R.FAB_ECN_CTL F.FAB_ECN_CTL_EN 1) bare).rb R.FAB_ECN_CTL F.FAB_ECN_CTL_EN = true ∧
    (run (setF R.FAB_ECN_CTL F.FAB_ECN_CTL_EN 0) bare).rb R.FAB_ECN_CTL F.FAB_ECN_CTL_EN = false := by decide +kernel

/-- A module whose port 11 has a neighbour entry with depth 64 for each count of bypassed modules, in training. -/
def training : State := run (chain [modChip (fun c => { c with part := { c.part with nb := List.replicate 12 (List.replicate 3 (9, 3, 64)) } }), setPort 11 1]) State.reset
def info0 (byp pos lat : Nat) : TrainInfo := ⟨lat, (List.range 4).map fun w => State.reset.reg (R.FAB_MANIFEST_DIGEST w), pos, 3, byp, 4⟩
def spare : State := run (chain [setF (R.FAB_PORT_CTL 11) F.FAB_PORT_CTL_SPARE_EN 1, setF (R.FAB_LINK_DEPTH 11) F.FAB_LINK_DEPTH_DEPTH 64,
  setF (R.FAB_PORT_STAT 11) F.FAB_PORT_STAT_SPARE_LANE 4]) (up 11 State.reset)

theorem hyp_PortsAndBypass : training.portState 11 = 1 ∧ training.nbMatch 11 (info0 0 8 0) = false ∧
    (∀ b < 3, training.nbMatch 11 (info0 b 9 896) = true ∧ training.nbEntry 11 b = some (9, 3, 64)) ∧ latCycles 896 + 8 ≤ 64 ∧ 64 < latCycles 897 + 8 ∧
    training.nbMatch 11 (info0 2 9 897) = true ∧ spare.portUp 11 = true ∧ spare.rb (R.FAB_PORT_CTL 11) F.FAB_PORT_CTL_SPARE_EN = true ∧
    spare.rf (R.FAB_PORT_STAT 11) F.FAB_PORT_STAT_SPARE_LANE ≠ 0 ∧ latCycles 896 + 8 ≤ spare.rf (R.FAB_LINK_DEPTH 11) F.FAB_LINK_DEPTH_DEPTH ∧
    spare.rf (R.FAB_LINK_DEPTH 11) F.FAB_LINK_DEPTH_DEPTH < latCycles 897 + 8 ∧ spare.passesSwap 2 1 = true ∧ spare.passesSwap 1 1 = false ∧
    training.pcie 11 = false ∧ training.chip.upSeq = none ∧ (∀ p < 8, spare.bypassed p = 0) ∧
    (let s := run (chain [setF (R.FAB_PORT_CTL 7) F.FAB_PORT_CTL_SPARE_EN 1, setF R.FAB_BYPASS_STAT F.FAB_BYPASS_STAT_BYP (4 ^ 7)]) (up 7 State.reset)
     s.portUp 7 = true ∧ s.rb (R.FAB_PORT_CTL 7) F.FAB_PORT_CTL_SPARE_EN = true ∧ s.rf (R.FAB_PORT_STAT 7) F.FAB_PORT_STAT_SPARE_LANE ≠ 1 ∧
       s.bypassed 7 ≠ 0) ∧ booting.served = false ∧ spare.served = true ∧ bare.served = true ∧ (bare.accessed false).admits = true ∧
    ((run (setF (R.FAB_PORT_CTL 11) F.FAB_PORT_CTL_EN 1) spare).accessed false).rb (R.FAB_PORT_CTL 11) F.FAB_PORT_CTL_EN = true ∧
    (spare.accessed false).running = false ∧ (bare.accessed false).running = true ∧
    (run (setF (R.FAB_PORT_CTL 11) F.FAB_PORT_CTL_EN 1) spare).rb (R.FAB_PORT_CTL 11) F.FAB_PORT_CTL_EN = true ∧ spare.running = false ∧ bare.running = true := by
  decide +kernel

/-- Port `p` in training with the neighbour (9, 3). -/
def trainingAt (p : Nat) (s : State) : State := run (chain [modChip (fun c => { c with part := { c.part with nb := List.replicate 12 (List.replicate 3 (9, 3, 64)) } }),
  setPort p 1]) s
/-- Behind closed switches, every port but port 0 has trained in loopback. -/
def joining : State := run (modChip fun c => { c with openWait := true, loopback := [1, 2, 3, 4, 5, 6, 7] }) (trainingAt 0 State.reset)
/-- The lane-4 switches are open, and every port but port 0 has its neighbour there. -/
def overLane4 (s : State) : State := run (chain [setF R.MOD_BYPASS F.MOD_BYPASS_LANE4_OPEN 1,
  modChip fun c => { c with lane4 := (List.range 7).map fun p => (p + 1, true) }]) (trainingAt 0 s)
/-- Every port's lane 4 has failed. -/
def lane4Bad (s : State) : State := run (modChip fun c => { c with lane4 := (List.range 8).map fun p => (p, false) }) s

theorem hyp_PortsAndBypass_training : (let s := rootPort
      s.portState 12 = 1 ∧ s.pcie 12 = true ∧ (run (setPort 12 6) s).portState 12 = 6 ∧ (run (setPort 12 6) s).chip.load = none) ∧
    training.pcie 11 = false ∧ (let s := trainingAt 0 State.reset
      s.portState 0 = 1 ∧ s.pcie 0 = false ∧ s.switchesOpen = false ∧ s.lane4Open = false ∧ s.chip.openWait = false) ∧
    joining.portState 0 = 1 ∧ joining.switchesOpen = false ∧ joining.lane4Open = false ∧ joining.chip.openWait = true ∧
    (∀ q ∈ joining.bypassPorts, q = 0 ∨ q ∈ joining.chip.loopback) ∧
    (let s := overLane4 worker
     s.portState 0 = 1 ∧ s.pcie 0 = false ∧ 0 ∈ s.bypassPorts ∧ s.switchesOpen = false ∧ s.lane4Open = true ∧ s.nbMatch 0 (info0 0 9 0) = true ∧
        s.nbMatch 0 (info0 0 8 0) = false ∧ (∀ q ∈ s.bypassPorts, q ≠ 0 → (q, true) ∈ s.chip.lane4) ∧ s.isManager = false ∧
        s.nbEntry 0 0 = some (9, 3, 64) ∧ latCycles 896 + 8 ≤ 64 ∧ 64 < latCycles 897 + 8) ∧ joining.chip.upSeq = none := by decide +kernel

/-- Module `s` in its power-up sequence, at step `n`, with no port in training but port 0. -/
def rising (n : Nat) (s : State) : State := run (chain [setF R.MOD_STAT F.MOD_STAT_STEP n, modChip fun c => { c with upSeq := some 0 }]) s

theorem hyp_PortsAndBypass_rising : (let s := rising 6 (trainingAt 0 State.reset)
      s.chip.upSeq = some 0 ∧ s.upStep = 6 ∧ 0 ∈ s.bypassPorts ∧ s.portState 0 = 1 ∧ s.pcie 0 = false ∧ s.switchesOpen = false ∧ s.lane4Open = false ∧
        ∀ q < 14, q ≠ 0 → s.rb (R.FAB_PORT_CTL q) F.FAB_PORT_CTL_EN = true → s.portState q ≠ 1) ∧
    (let s := run (setF R.MOD_BYPASS F.MOD_BYPASS_AUTO 1) (rising 7 (overLane4 worker))
     s.chip.upSeq = some 0 ∧ s.upStep = 7 ∧ s.rb R.MOD_BYPASS F.MOD_BYPASS_AUTO = true ∧ 0 ∈ s.bypassPorts ∧ s.lane4Open = true ∧
       s.switchesOpen = false ∧ s.nbMatch 0 (info0 0 9 0) = true ∧ ∀ q ∈ s.bypassPorts, q ≠ 0 → (q, true) ∈ s.chip.lane4) ∧
    (let s := rising 8 (run (setF R.MOD_BYPASS F.MOD_BYPASS_OPEN 1) (trainingAt 0 State.reset))
     s.chip.upSeq = some 0 ∧ s.upStep = 8 ∧ s.switchesOpen = true ∧ s.portState 0 = 1) ∧
    (run (modChip fun c => { c with openWait := true }) (overLane4 worker)).chip.openWait = true ∧ (overLane4 worker).chip.upSeq = none := by
  decide +kernel

def opened : State := run (setF R.MOD_BYPASS F.MOD_BYPASS_OPEN 1) State.reset
def granted : State := run (modChip fun c => { c with grantWait := true }) worker

theorem hyp_PortsAndBypass_switches : booting.served = false ∧ (∀ s ∈ [State.reset, opened, bare, worker, lane4Bad State.reset], s.served = true) ∧
    (opened.accessed false).switchesOpen = true ∧ (opened.accessed false).running = false ∧ (bare.accessed false).running = true ∧
    (bare.accessed false).admits = true ∧ (State.reset.accessed false).mayOpen = true ∧ granted.mayOpen = true ∧ granted.chip.grantWait = true ∧
    granted.chip.upSeq = none ∧ granted.isManager = false ∧ unpowered.mayOpen = false := by decide +kernel

theorem hyp_PortsAndBypass_joining : (let a := (lane4Bad State.reset).accessed false
      a.running = false ∧ a.mayOpen = true ∧ a.switchesOpen = false ∧ a.noLane4 = true ∧ a.chip.upSeq = none) ∧
    (let a := State.reset.accessed false
     a.running = false ∧ a.mayOpen = true ∧ a.switchesOpen = false ∧ a.noLane4 = false ∧ a.chip.grantWait = false ∧ a.lane4Open = false ∧
       a.chip.upSeq = none ∧ ∃ p ∈ a.bypassPorts, p ∉ a.chip.loopback) ∧
    (let s := (run (modChip fun c => { c with loopback := List.range 8 }) State.reset).accessed false
     s.mayOpen = true ∧ s.switchesOpen = false ∧ s.noLane4 = false ∧ s.chip.grantWait = false ∧ s.lane4Open = false ∧ ∀ p ∈ s.bypassPorts, p ∈ s.chip.loopback) ∧
    (let s := run (modChip fun c => { c with grantWait := true }) bare
     s.mayOpen = true ∧ s.chip.grantWait = true ∧ s.running = true) := by decide +kernel

/-- A module held in reset at step 2. -/
def held : State := run (chain [modChip (fun c => { c with inReset := true }), setF R.MOD_STAT F.MOD_STAT_STEP 2, setF R.MOD_BYPASS F.MOD_BYPASS_AUTO 1]) State.reset
def hot : State := run (modChip fun c => { c with sensors := [(0, { last := 600, seen := true })] }) State.reset

theorem hyp_PowerAndReset : (∀ s ∈ [unpowered, run (modChip fun c => { c with inReset := true }) unpowered, held], s.chip.retMaps = none ∧
      (∀ x ∈ s.chip.retSites, x.1 < 16)) ∧ unpowered.chip.vin = false ∧ unpowered.chip.inReset = false ∧ unpowered.chip.releaseWaits = none ∧
    unpowered.rf R.MOD_BOOT F.MOD_BOOT_PREFER = 0 ∧ (∀ n ∈ [0, 3, 6, 7, 10], n = 0 ∨ 3 ≤ n ∧ n ≤ 10) ∧ held.needsReset = false ∧ held.chip.vin = true ∧
    held.upStep ≠ 1 ∧ held.tripHolds = false ∧ (∃ p < 14, held.rb (R.FAB_PORT_CTL p) F.FAB_PORT_CTL_EN = true) ∧ State.reset.sound = true ∧
    State.reset.chip.vin = true ∧ State.reset.mapsCur = State.reset.recordMaps ∧ State.reset.chip.mainUp = true ∧ State.reset.upStep ≠ 1 := by decide +kernel

/-- A module without a good image, and one that a thermal trip took down, hot still. -/
def imageless : State := run (setF R.MOD_STAT F.MOD_STAT_STEP 1) held
def tripped (reset : Bool) : State := run (chain [modChip fun c => { c with mainUp := false, inReset := reset }, setB R.MOD_STAT F.MOD_STAT_TRIP true]) hot

theorem hyp_PowerAndReset_faults : (tripped false).needsReset = true ∧ unpowered.needsReset = false ∧ imageless.needsReset = false ∧
    imageless.upStep = 1 ∧ imageless.chip.vin = true ∧ (tripped true).needsReset = false ∧ (tripped true).chip.vin = true ∧ (tripped true).upStep ≠ 1 ∧
    (tripped true).tripHolds = true ∧ hot.chip.vin = true ∧ hot.tripHot = true ∧ hot.chip.mainUp = true ∧ (tripped true).tripHot = true ∧
    (tripped true).chip.mainUp = false ∧ State.reset.tripHot = false := by decide +kernel

def withStandby : State := run (modChip fun c => { c with part := { c.part with modules := 2, standbyPos := some 1 } }) State.reset
def standby : State := run (setF R.MOD_ROLE F.MOD_ROLE_ROLE 2) worker

theorem hyp_Management : unpowered.powered = false ∧ (∀ s ∈ [State.reset, withStandby, standby], s.powered = true) ∧
    State.reset.onBus.chip.fwBad = false ∧ State.reset.onBus.fwBlocked = false ∧ State.reset.onBus.fwRunning = 0 ∧
    (run (setF R.MOD_BOOT F.MOD_BOOT_RUNNING 1) State.reset).onBus.fwRunning ≠ 0 ∧ (run (modChip fun c => { c with fwBad := true }) State.reset).onBus.chip.fwBad = true ∧
    withStandby.isManager = true ∧ withStandby.chip.part.standbyPos = some 1 ∧ standby.role = 2 ∧ standby.chip.wasManager = false ∧
    (∀ s ∈ [standby, State.reset], s.chip.load = none ∧ s.chip.before = none) ∧ State.reset.isManager = true ∧ State.reset.role ≠ 2 ∧
    (run (modChip fun c => { c with wasManager := true }) standby).chip.wasManager = true := by decide +kernel

/-- Trigger pin 3 an input with action `a`. -/
def triggered (a : Nat) : State := run (chain [setF (R.DBG_TRIG 3) F.DBG_TRIG_DIR 0, setF (R.DBG_TRIG 3) F.DBG_TRIG_ACT a]) bare

theorem hyp_DebugPins : (∀ a ∈ [1, 2, 3], (triggered a).rb (R.DBG_TRIG 3) F.DBG_TRIG_DIR = false ∧ (triggered a).rf (R.DBG_TRIG 3) F.DBG_TRIG_ACT = a ∧
    (triggered a).running = true ∧ (triggered a).frozen = false) ∧
    (run (setF (R.DBG_TRIG 3) F.DBG_TRIG_DIR 1) bare).rb (R.DBG_TRIG 3) F.DBG_TRIG_DIR = true ∧ held.chip.inReset = true ∧
    State.reset.chip.inReset = false ∧ State.reset.chip.vin = true ∧ State.reset.upStep ≠ 1 ∧ State.reset.chip.mainUp = true := by decide +kernel

/-! ### Worked examples of the spec and small effects worked out by hand -/

/-- Does the outcome complete with a state of which `p` holds? -/
def ran (o : Out) (p : State → Bool) : Bool := match o with | .next t => p t | _ => false

/-- Module 5 of a domain with tile 103 at work (spec/03, the example after R89). -/
def mod5 : State := run (chain [setF R.MOD_ROLE F.MOD_ROLE_POSITION 5, setF R.FRM_CTL F.FRM_CTL_RUN 1,
  setF (R.STR_CTL 103) F.STR_CTL_STREAM_EN 15, modChip fun c => { c with fcyc := 16 }]) State.reset

/-- The three words of R89's example. -/
def dmovExample : DmovArgs := ⟨103, ⟨0x15, false⟩, 0, 64, 0x200, true, 2, true, 1, true, 0x014CE40000100000⟩
theorem test_vpc_example : (match vpcProgram (.tile 103 1) 8 0 [0x4841000800802AD5, 0x014CE40000100000, 0x4080040000000400] with
    | .ok l => decide (l = [(0, .dmov dmovExample), (2, .loop (.tile 103 1) h0 2 0 16)])
    | .error _ => false) = true := by decide +kernel


/-- R8's example. -/
theorem test_twin_example : twWord 0x2000 = 0xFFFFDFFF00002000 := by decide
/-- FIPS 180-4, IEEE 802.3 and RFC 8439 test vectors. -/
theorem test_sha256 : (sha256 (bytesOf [0x61, 0x62, 0x63])).take 4 = bytesOf [0xBA, 0x78, 0x16, 0xBF] := by decide +kernel
theorem test_crc32 : crc32 (bytesOf [0x31, 0x32, 0x33, 0x34, 0x35, 0x36, 0x37, 0x38, 0x39]) = 0xCBF43926 := by decide +kernel
/-- The hash that ends a Zstandard frame, of no bytes (RFC 8878 names XXH64). -/
theorem test_xxh64 : xxh64 [] = 0xEF46DB3751D8E999 := by decide +kernel
theorem test_chacha : (chachaBlock [0x03020100, 0x07060504, 0x0b0a0908, 0x0f0e0d0c, 0x13121110, 0x17161514, 0x1b1a1918, 0x1f1e1d1c]
    [0x09000000, 0x4a000000, 0] 1).take 2 = [0xe4e7f110, 0x15593bd1] := by decide +kernel

/-- R144's example: the block 7.5, 2.5, −0.3, 0, … in MXFP4. -/
theorem test_mxfp4_example : (let e := mxEncode 9 (([f32 0x40F00000, f32 0x40200000, f32 0xBE99999A, f32 0] ++ List.replicate 28 (f32 0)).map fun x => (x, .rne))
    (e.1, e.2.take 4)) = (0x7F, [(7, true), (4, false), (9, false), (0, false)]) := by decide +kernel
/-- An MX element has no infinity: 63,488 in MXFP8 E5M2 saturates to 57,344 under RNE too (R144, R149). -/
theorem test_mx_saturates : mxEncode 6 [(f32 0x47780000, .rne)] = (127, [(0x7B, true)]) := by decide +kernel
/-- R150's example: 1.3 to E4M3 rounds up from the word 0x9999A on. -/
theorem test_sr_example : (convertElem 3 (.sr 0x99999) (f32 0x3FA66666)).1 = 0x3A ∧ (convertElem 3 (.sr 0x9999A) (f32 0x3FA66666)).1 = 0x3B := by
  decide +kernel
/-- R146's example: index 0x5A3 of beat 3, scale 0.0625, entry 0x3C, weight 0.09375 (FP32 0x3DC00000). The image's beat 3 begins at byte
64 + 3 × 192; row 5's index is the high half of the third run of 3 bytes. -/
def vqExample : State := run (fun _ => [.mem (memKey 5 0 (0x8000 + 8 * 0x5A3)) (bytesOf [0, 0, 0x3C]), .mem (memKey 1 0 0) (bytesOf [0x80, 0x3D]),
  .mem (memKey 1 0 (64 + 3 * 192 + 6)) (bytesOf [0, 0x30, 0x5A])]) State.reset
theorem test_vq_example : ((vqExample.weightBeat 0 13 0 0 1 3).getD 5 []).getD 2 (f32 0, true) = ((bf16.decode 0x3D80).mul (e4m3.decode 0x3C), false) ∧
    ((bf16.decode 0x3D80).mul (e4m3.decode 0x3C)).lt (f32 0x3DC00000) = false ∧
    (f32 0x3DC00000).lt ((bf16.decode 0x3D80).mul (e4m3.decode 0x3C)) = false := by decide +kernel

/-- The three rates of VFMA with VL 4,096 at b0 = 101 (spec/07, R210's example). -/
theorem test_vfma_rates : (let o (f : Nat) (ta bb : Bool) : VOp := ⟨.fma, { va0 with fmt := f, dfmt := f, ta := ta, bb := bb }, 4096, 0, 0, 0, 100, 0, 0, []⟩
    let last (o : VOp) := 101 + 31 * o.beatCycles false + (o.timing (o.beatCycles false) 0 false false).1
    (last (o 1 false false), last (o 0 false false), last (o 0 true true))) = (141, 172, 144) := by decide +kernel
/-- VPATCH reads element 80 for output element 800 (spec/07, R222's example). -/
theorem test_patch_example : patchSrc 1536 2 15 800 = 80 := by decide
/-- R252's example: lane number 0x5_33B4 in the first key word. -/
theorem test_lane_keys : (mod5.laneKeys 103 0 2100).1 = 2 ^ 60 + 0x533B4 * 2 ^ 32 ∧ (mod5.laneKeys 103 0 2100).2 = 16 := by decide +kernel

/-- R338's example: group 7 in slot B moves WOFF 2,600's byte to 0xC8_A000. -/
def groupExample : State := run (chain [setF (R.ROL_GROUP 7) F.ROL_GROUP_USED 1, setF (R.ROL_GROUP 7) F.ROL_GROUP_A_FIRST 40, setF (R.ROL_GROUP 7) F.ROL_GROUP_COUNTM1 5,
  setF (R.ROL_GROUP 7) F.ROL_GROUP_B_FIRST 200, setF (R.ROL_GROUP 7) F.ROL_GROUP_HAS_B 1, setMask 0 (2 ^ 7), modTile 0 fun x => { x with serving := some 0 }]) State.reset
theorem test_group_example : groupExample.translate 0 (2600 * 1024) = 0xC8A000 := by decide +kernel

/-- The frame of R35's example: FRM_LEN 10,240, FRAC 4, tile 0's FRAME_END at cycle 10,301. -/
def stretched : State := run (chain [setTw R.FRM_LEN 10240, setF (R.STR_CTL 0) F.STR_CTL_STREAM_EN 1, modTile 0 fun x => { x with retired := some 10301 },
  setF R.FRM_STRETCH_MAX F.FRM_STRETCH_MAX_CYCLES 512, modChip fun c => { c with sliceLen := 160 }]) bare
theorem test_stretch_example : stretched.tickAt = some 10302 := by decide +kernel
/-- D of R62's example. -/
theorem test_clapd_example : (let s (n : Nat) := run (chain [setTw R.FRM_LEN n, setF R.AUD_CTL F.AUD_CTL_CLAP_DELAY 16384]) State.reset
    ((s 10240).clapD, (s 4096).clapD)) = (4, 5) := by decide +kernel

/-- R386's example: GO over two links at 1.5 GHz. -/
def clapLink (lat : Nat) : State := run (modPort 0 fun x => { x with lat16 := 16 * lat }) (run (setF R.CLK_CUR F.CLK_CUR_STEP 48) worker)
theorem test_go_example : ran (exec (.goToken 0 ⟨2, 1, 0, 5, 262144⟩ 10) (clapLink 171)) (fun t => t.chip.clap.any (fun c => c.rem == some 259719) &&
    t.chip.tokensOut.map (·.arg) == [259591]) = true ∧ ran (exec (.goToken 0 ⟨2, 1, 0, 5, 259591⟩ 3) (clapLink 168)) (fun t =>
    t.chip.clap.any fun c => c.rem == some 257307) = true := by decide +kernel

/-- R374's example: N = 6,440 and a bound of 46,169,819 ns; a deadline of 50 ms is accepted, one of 45 ms refused. -/
def admExample : State := run (chain [setTw R.FRM_LEN 10240, setF R.FRM_STRETCH_MAX F.FRM_STRETCH_MAX_CYCLES 512, setF R.FRM_SKEW_MAX F.FRM_SKEW_MAX_CYCLES 4096,
  setF R.CLK_CUR F.CLK_CUR_STEP 48, setF (R.HIF_CLASS_0 3) F.HIF_CLASS_0_VALID 1, setF (R.HIF_CLASS_0 3) F.HIF_CLASS_0_FIXED 40,
  setF (R.HIF_CLASS_0 3) F.HIF_CLASS_0_PER_UNIT 32, setF (R.HIF_CLASS_1 3) F.HIF_CLASS_1_MAX_UNITS 200,
  modChip fun c => { c with fcyc := 3000, ns := 12000 }]) (admitting bare)
def admCmd (ns : Nat) : Cmd := { cmd0 with opcode := 0x0301, w2 := BitVec.ofNat 64 (3 + 200 * 2 ^ 32), w3 := BitVec.ofNat 64 ns }
theorem test_admission_example : admExample.reqFrames (admCmd 50000000) = 6440 ∧ admExample.admitBound 6440 = 46169819 ∧
    admExample.admitCheck (admCmd 50000000) = none ∧ admExample.admitCheck (admCmd 45000000) = some 0x0201 := by decide +kernel

/-- R420's example: 148 frames of lead. -/
theorem test_lead_example : (run (chain [setTw R.FRM_LEN 10240, setF R.CLK_CUR F.CLK_CUR_STEP 48, setF R.AUD_CTL F.AUD_CTL_CLAP_DELAY 16384,
    setRegN R.FRM_COUNT 500000]) bare).stepFrame 0 1000 = 500148 := by decide +kernel

/-- R316's example: in module 5 the route to module 675 leaves by P4. -/
theorem test_route_example : (run (chain [setF R.MOD_ROLE F.MOD_ROLE_POSITION 5, setF (R.FAB_GROUTE 42) F.FAB_GROUTE_VALID 1, setF (R.FAB_GROUTE 42) F.FAB_GROUTE_EXIT_POS 14,
    setF (R.FAB_GROUTE 42) F.FAB_GROUTE_EXIT_PORT 1, setPort 4 3]) State.reset).route 675 138 392 = some (4, false) := by decide +kernel

/-- R451's example: a test of 192 cycles against a slice of 160 is deferred. -/
theorem test_deferred_example : let c := { cmd0 with w2 := BitVec.ofNat 64 (5 + 103 * 65536) }
    ran (exec (.testRun c) (fetched c (queued (run (chain [setTw R.FRM_LEN 10240,
    setF R.FRM_MAINT_SLICE F.FRM_MAINT_SLICE_FRAC 4]) State.reset)))) (fun t => (t.queue 0).replies.map (fun r => (r.status, r.detail)) == [(0x0601, 1)]) = true := by
  decide +kernel

/-- 1.0 + 2.0 = 3.0 in FP32, one element. -/
theorem test_vadd : ran (exec (.vadd { va0 with srcb := 1, dst := 2 }) (run (chain [wrBytes 0 0 0 (leBytes 4 0x3F800000) false 0,
    wrBytes 0 0 64 (leBytes 4 0x40000000) false 0]) vec)) (fun t => leNat (t.bytes (memKey 0 0 128) 4) == 0x40400000) = true := by decide +kernel
/-- 100 + 100 in INT8: wraps to −56, or saturates to 127. -/
theorem test_vadd_int8 : (let s := run (chain [wrBytes 0 0 0 [100] false 0, wrBytes 0 0 64 [100] false 0]) vec
    let a := { va0 with fmt := 11, dfmt := 11, srcb := 1, dst := 2 }
    ran (exec (.vadd a) s) (fun t => t.byte (memKey 0 0 128) == 200) && ran (exec (.vadd { a with sat := true }) s) fun t => t.byte (memKey 0 0 128) == 127) = true := by
  decide +kernel
/-- VSHL and VSHR of INT16: 0x8001 shifted. -/
theorem test_shifts : (let s := run (chain [wrBytes 0 0 0 [0x01, 0x80] false 0, wrBytes 0 0 64 [1] false 0]) vec
    let a := { va0 with fmt := 14, dfmt := 14, srcb := 1, dst := 2 }
    let got (i : Instr) (v : Nat) := ran (exec i s) fun t => leNat (t.bytes (memKey 0 0 128) 2) == v
    got (.vshl a) 2 && got (.vshr a) 0x4000 && got (.vshr { a with xf := 1 }) 0xC000) = true := by decide +kernel

/-- CWAITG consumes its granule; DGSET wraps from the last granule to the first. -/
theorem test_granules : ran (exec (.cwaitg 0 h0 2 3) onFull) (fun t => !t.isFull 0 3 && t.isFull 0 2) = true ∧
    ran (exec (.dgset 0 h0 6143 2 true) on) (fun t => t.isFull 0 6143 && t.isFull 0 0 && !t.isFull 0 1) = true := by decide +kernel
/-- A held write of a DCPY waits while its granule is full and lands when the consumer has emptied it (R57). -/
theorem test_held_write : ran (exec (.dcpy { dcpy0 with wm := 2 }) onFull) (fun a => (a.tile 0).landing.length == 4 &&
    ran (exec (.cwaitg 0 h0 2 1) a) fun b => !b.isFull 0 1 && ran (exec (.heldWriteLand 0) b) fun c => decide ((c.tile 0).landing.length < 4)) = true := by
  decide +kernel

/-- A status reply's bytes and the wrap of the phase (R365). -/
theorem test_status_reply : ran (exec (.statusReply 0) (run (modQueue 0 fun q => { q with replies := [reply0], cqTail := 15, cqHead := 5 }) (queued State.reset)))
    (fun t => t.hostBytes (32 * 15) 1 == [5] && t.hostBytes (32 * 15 + 10) 2 == [3, 1] && t.hostBytes (32 * 15 + 28) 3 == [1, 0, 1] &&
      (t.queue 0).cqTail == 0 && !(t.queue 0).phase) = true := by decide +kernel
/-- A command with an unknown opcode is answered BAD_OPCODE (R367). -/
theorem test_unknown_opcode : ran (exec (.commandFetch 8191) (fetchable 0xFFFF)) (fun t =>
    (t.queue 8191).replies.map (·.status) == [0, 0x0101] && (t.queue 8191).sqHead == 1) = true := by decide +kernel
/-- A TW write with disagreeing halves is ignored and counted (R9); W1C clears (R6). -/
theorem test_register_writes : ran (exec (.registerWrite ⟨0, 0, R.FRM_LEN, 8⟩ (some 0x2000)) State.reset) (fun t => t.frmLen == 4096 &&
    t.rf R.MOD_TW_REJECT_CNT F.MOD_TW_REJECT_CNT_COUNT == 1) = true ∧
    ran (exec (.registerWrite ⟨0, 0, R.FRM_LEN, 8⟩ (some 0xFFFFDFFF00002000)) State.reset) (fun t => t.frmLen == 8192) = true := by decide +kernel
/-- A port behind two bypassed modules is at half width. -/
theorem test_port_half_width : ran (exec (.portTrainingDone 11 (info0 2 9 16)) training) (fun t => t.portState 11 == 4) = true ∧
    ran (exec (.portTrainingDone 11 (info0 0 9 16)) training) (fun t => t.portState 11 == 3) = true := by decide +kernel
/-- A grain fill of eight 128-cycle units and one of 8 cycles (R244). -/
theorem test_grain_fill : ran (exec (.grainFillUnit 0) (filling 112)) (fun a => (a.tile 0).fill.any (fun f => f.done == 128) && a.fillUnit 0 == some 8 &&
    ran (exec (.grainFillUnit 0) a) fun b => (b.tile 0).fill.any (fun f => f.done == 129) &&
      ran (exec (.grainFillComplete 0) b) fun c => c.rb (R.GRN_STAT 0) (grnFilled 1)) = true := by decide +kernel
/-- The queue of waiting commands is served from the front. -/
theorem test_step_front : ran (step { State.reset with pending := [.queueEnable 3, .queueDisable 3] }) (fun t => (t.queue 3).en &&
    t.pending == [.queueDisable 3] && ran (step t) fun u => !(u.queue 3).en && u.pending == []) = true := by decide +kernel

end Sys2Proof.Tests
end

section
/-! SUPPORT. Transactions that keep a view of the state, counters, and what small transactions leave of the memories. -/

namespace Sys2Proof.Machine

variable {β : Type} {f : State → β}

theorem Keeps.nil : (Machine.chain []).Keeps f := Keeps.skip
theorem Keeps.cons {t : Tx} {ts : List Tx} (h : t.Keeps f) (hs : (Machine.chain ts).Keeps f) : (Machine.chain (t :: ts)).Keeps f := Keeps.seq h hs
/-- A list of transactions that depends on the state found. -/
theorem Keeps.chainS {ts : State → List Tx} (h : ∀ s, (Machine.chain (ts s)).Keeps f) : Tx.Keeps f (fun s => Machine.chain (ts s) s) := fun s => h s s
/-- A choice by the state found. -/
theorem Keeps.iteS {p : State → Prop} [DecidablePred p] {a b : Tx} (ha : a.Keeps f) (hb : b.Keeps f) :
    Tx.Keeps f (fun s => if p s then a s else b s) := fun s => by
  by_cases h : p s
  · exact (congrArg (fun us => f (applyAll us s)) (if_pos h)).trans (ha s)
  · exact (congrArg (fun us => f (applyAll us s)) (if_neg h)).trans (hb s)

/-- A saturating count fits its field. -/
theorem plus_lt (k n : Nat) (f : Fld) (s : State) : s.plus k f n < 2 ^ f.width := by
  have := Nat.two_pow_pos f.width
  simp only [State.plus]
  exact Nat.lt_of_le_of_lt (Nat.min_le_right _ _) (Nat.sub_lt this Nat.one_pos)

/-- A counter field after an increase. -/
theorem rf_incF {f : Fld} (hf : f.hi < 64) (k n : Nat) (s : State) : (run (incF k f n) s).rf k f = s.plus k f n := by
  have h := plus_lt k n f s
  have h' : (run (incF k f n) s).reg k = fset (s.reg k) f (s.plus k f n) := (reg_incF k k f n s).trans (if_pos rfl)
  rw [State.rf, h', fget_fset_same _ _ _ hf, Nat.mod_eq_of_lt h]

theorem sameMemory_trans {s t u : State} (h : s.sameMemory t) (h' : t.sameMemory u) : s.sameMemory u := by
  obtain ⟨h1, h2, h3, h4, h5, h6, h7⟩ := h
  obtain ⟨g1, g2, g3, g4, g5, g6, g7⟩ := h'
  exact ⟨g1.trans h1, g2.trans h2, g3.trans h3, g4.trans h4, g5.trans h5, g6.trans h6, g7.trans h7⟩
theorem sameMemory_reg (k : Nat) (v : Word) (s : State) : s.sameMemory ((Upd.reg k v).apply s) := ⟨rfl, rfl, rfl, rfl, rfl, rfl, rfl⟩
theorem sameMemory_chip (c : Chip) (s : State) : s.sameMemory ((Upd.chip c).apply s) := ⟨rfl, rfl, rfl, rfl, rfl, rfl, rfl⟩
theorem sameMemory_setTw (k v : Nat) (s : State) : s.sameMemory (run (setTw k v) s) :=
  sameMemory_trans (sameMemory_reg k (twWord v) s) (sameMemory_chip _ _)

end Sys2Proof.Machine
end

section
/-! SUPPORT. The keys of the register maps, and the words of twin-written registers (R6, R8). -/

namespace Sys2Proof.Machine

/-! ### Keys of the register maps -/

/-- Is the register of key `k` twin-written? -/
def twinKey (k : Nat) : Bool := (regOf k).any RegDef.twin

theorem twinKey_of_regOf {k : Nat} {r : RegDef} (hr : regOf k = some r) : twinKey k = r.twin := by
  rw [twinKey, hr, Option.any_some]

theorem regOf_tileKey (u off : Nat) (h : off < 0x4000) : regOf (tileKey u off) = findReg tileRegs off := by
  have hm : (tileKey u off - 0x100000) % 0x4000 = off := by simp only [tileKey]; omega
  rw [regOf, if_neg (by simp only [tileKey]; omega), hm]

theorem twinKey_tileKey (u off : Nat) (h : off < 0x4000) : twinKey (tileKey u off) = (findReg tileRegs off).any RegDef.twin := by
  rw [twinKey, regOf_tileKey u off h]

/-- A twin-written register is none of those that are not. -/
theorem ne_of_twinKey {k j : Nat} (hk : twinKey k = true) (hj : twinKey j = false) : k ≠ j := by
  rintro rfl
  exact Bool.noConfusion (hk.symm.trans hj)

theorem mem_of_findReg {rs : List RegDef} {off : Nat} {r : RegDef} (h : findReg rs off = some r) : r ∈ rs :=
  List.mem_of_find?_eq_some h

theorem mem_of_regOf {k : Nat} {r : RegDef} (h : regOf k = some r) : r ∈ chipRegs ++ tileRegs := by
  rw [regOf] at h
  split at h
  · exact List.mem_append_left _ (mem_of_findReg h)
  · exact List.mem_append_right _ (mem_of_findReg h)

/-- An index found in an array of registers names the element's key. -/
theorem eq_of_indexIn {k base stride n i : Nat} (h : indexIn k base stride n = some i) : i < n ∧ k = base + i * stride := by
  simp only [indexIn] at h
  split at h
  case isFalse => cases h
  case isTrue hc =>
    obtain ⟨hb, hm, hn⟩ := hc
    cases h
    have := Nat.div_add_mod' (k - base) stride
    exact ⟨hn, by omega⟩

/-- A twin-written register lies in no array of registers that are not. -/
theorem indexIn_eq_none_of_twinKey {k base stride n : Nat} (hk : twinKey k = true)
    (h : ∀ i < n, twinKey (base + i * stride) = false) : indexIn k base stride n = none := by
  rw [Option.eq_none_iff_forall_ne_some]
  intro i hi
  obtain ⟨hn, rfl⟩ := eq_of_indexIn hi
  exact Bool.noConfusion (hk.symm.trans (h i hn))

/-! ### Twin words -/

/-- The halves of every twin-written register agree after reset (R8). -/
theorem twAgree_resetWord {k : Nat} (hk : twinKey k = true) : twAgree (resetWord k) = true := by
  have hall : ∀ r ∈ chipRegs ++ tileRegs, r.twin = true → twAgree (fieldsWord r.fields) = true := by decide +kernel
  cases hr : regOf k with
  | none => simp [twinKey, hr] at hk
  | some r =>
    rw [resetWord, hr]
    exact hall r (mem_of_regOf hr) (twinKey_of_regOf hr ▸ hk)

/-- A word whose halves agree is the twin word of its value. -/
theorem twWord_toNat {v : Word} (h : twAgree v = true) : twWord v.toNat = v := by
  have hv := v.isLt
  have h' : v.toNat / 0x100000000 = 0xFFFFFFFF - v.toNat % 0x100000000 := by simpa [twAgree] using h
  rw [twWord]
  apply BitVec.eq_of_toNat_eq
  rw [BitVec.toNat_ofNat]
  omega

end Sys2Proof.Machine
end

section
/-! SUPPORT. What the entry of an input in a recording leaves alone (R399, R400). -/

namespace Sys2Proof.Machine

/-- What the entry of an input leaves alone: memories but the host's, tiles, the clap and the messages, and every register but those
in which a recording shows (R399, R400). -/
def State.besideRecord (s : State) : List Host.Cell × List (Nat × Bool) × List (Nat × TileS) × Option ClapS × List (Nat × Nat) × ({k // k ∉ recRegs} → Word) :=
  (s.mem, s.full, s.tiles, s.chip.clap, s.chip.mgmtOut, fun k => s.reg k)

theorem besideRecord_setF {k : Nat} (hk : k ∈ recRegs) (f : Fld) (v : Nat) : (setF k f v).Keeps State.besideRecord := fun s => by
  have hne : ∀ j : {j // j ∉ recRegs}, j.1 ≠ k := fun j e => j.2 (e ▸ hk)
  simp only [State.besideRecord, reg_setF, hne, if_false, chip_setF]
  rfl

theorem besideRecord_rouse (d : Nat) : (rouse d).Keeps State.besideRecord :=
  Keeps.whenS (Keeps.look (g := fun s => setF R.PWR_STATE _ _) fun _ => besideRecord_setF (by decide) _ _)

theorem besideRecord_hostWrite (a : Nat) (bs : List Byte) : (hostWrite a bs).Keeps State.besideRecord := fun s => by
  simp only [run, hostWrite]
  split <;> rfl

theorem besideRecord_putEntry (e : RepEntry) : (putEntry e).Keeps State.besideRecord := by
  refine Keeps.chainS fun s => ?_
  refine Keeps.cons (besideRecord_rouse 8) <| Keeps.cons (besideRecord_rouse 1) <| Keeps.cons (besideRecord_hostWrite _ _) <| Keeps.cons (fun _ => rfl) <|
    Keeps.cons (Keeps.when (besideRecord_setF (by decide) _ _)) <| Keeps.cons (Keeps.when ?_) <| Keeps.cons (Keeps.look fun _ => besideRecord_setF (by decide) _ _) Keeps.nil
  exact Keeps.look (g := fun s => setF R.AUD_REPLAY_STAT _ _) fun _ => besideRecord_setF (by decide) _ _

theorem besideRecord_recordEntry (e : RepEntry) : (recordEntry e).Keeps State.besideRecord :=
  Keeps.iteS (fun _ => rfl) <| Keeps.iteS (Keeps.cons (besideRecord_setF (by decide) _ _) <| Keeps.cons (fun _ => rfl) Keeps.nil) (besideRecord_putEntry e)

theorem reg_recordEntry (e : RepEntry) (s : State) {k : Nat} (hk : k ∉ recRegs) : (run (recordEntry e) s).reg k = s.reg k :=
  congrArg (fun v => v.2.2.2.2.2 ⟨k, hk⟩) (besideRecord_recordEntry e s)

end Sys2Proof.Machine
end

section
/-! PROOFS. Twin-written registers (R8, R9, R22). -/

namespace Sys2Proof.Machine

/-- A twin-written register reads as it is stored: it is none of those that read otherwise. -/
theorem readReg_of_twinKey (s : State) {k : Nat} (hk : twinKey k = true) (ht : isTileKey k = true → tileOf k < s.numTiles) :
    s.readReg k = s.reg k := by
  by_cases h : isTileKey k = true
  · have hcb : k ≠ R.WPA_CB_DATA (tileOf k) := ne_of_twinKey hk (by rw [R.WPA_CB_DATA, twinKey_tileKey _ _ (by decide)]; decide +kernel)
    have hsfu : k ≠ R.SFU_TBL_DATA (tileOf k) := ne_of_twinKey hk (by rw [R.SFU_TBL_DATA, twinKey_tileKey _ _ (by decide)]; decide +kernel)
    simp only [State.readReg, h, if_true, Nat.not_le.mpr (ht h), hcb, hsfu, if_false]
  · have hne : ∀ j ∈ [R.HIF_TIME, R.HIF_Q_BASE, R.HIF_Q_CQ, R.HIF_Q_RES, R.HIF_Q_CFG, R.HIF_Q_STAT, R.HIF_Q_RSTAT, R.SPK_TBL_DATA,
        R.TIR_CLASS_DATA, R.FAB_CMAP_DATA, R.PWR_STATE], k ≠ j := by
      have hj : ∀ j ∈ [R.HIF_TIME, R.HIF_Q_BASE, R.HIF_Q_CQ, R.HIF_Q_RES, R.HIF_Q_CFG, R.HIF_Q_STAT, R.HIF_Q_RSTAT, R.SPK_TBL_DATA,
        R.TIR_CLASS_DATA, R.FAB_CMAP_DATA, R.PWR_STATE], twinKey j = false := by decide +kernel
      exact fun j hm => ne_of_twinKey hk (hj j hm)
    have hvote : indexIn k (R.PWR_VOTE 0) 8 10 = none := indexIn_eq_none_of_twinKey hk (by decide +kernel)
    simp only [List.forall_mem_cons, List.not_mem_nil, false_implies, implies_true, and_true] at hne
    simp only [State.readReg, h, hne, hvote, if_false, Bool.false_eq_true]

theorem twinKey_twinStat : twinKey R.SPK_STAT = false ∧ ∀ u, twinKey (R.WPA_CB_STAT u) = false ∧ twinKey (R.SFU_STAT u) = false ∧
    twinKey (R.GRN_STAT u) = false := by
  refine ⟨by decide +kernel, fun u => ⟨?_, ?_, ?_⟩⟩
  · rw [R.WPA_CB_STAT, twinKey_tileKey _ _ (by decide)]; decide +kernel
  · rw [R.SFU_STAT, twinKey_tileKey _ _ (by decide)]; decide +kernel
  · rw [R.GRN_STAT, twinKey_tileKey _ _ (by decide)]; decide +kernel


/-- What a write of register `k` does before its fields are looked at: the registers that a write treats as its own. -/
def specialWrite (k : Nat) (v : Word) : Option Tx := if isTileKey k then tileSpecial (tileOf k) k v else chipSpecial k v

/-- The twin-written registers among them are the bank selectors. -/
theorem specialWrite_of_twinKey {k : Nat} (v : Word) (hk : twinKey k = true) : specialWrite k v = none ∨
    (∃ stat act pend, twinKey stat = false ∧ specialWrite k v = some (selectTx k stat act pend v)) ∨
    ∃ u, k = R.GRN_TBL_SEL u ∧ specialWrite k v = some (grnTblSelTx u v) := by
  obtain ⟨hspk, hstat⟩ := twinKey_twinStat
  by_cases h : isTileKey k = true
  · generalize hu : tileOf k = u
    obtain ⟨hcb, hsfu, -⟩ := hstat u
    have h1 : k ≠ R.WPA_CB_DATA u := ne_of_twinKey hk (by rw [R.WPA_CB_DATA, twinKey_tileKey _ _ (by decide)]; decide +kernel)
    have h2 : k ≠ R.SFU_TBL_DATA u := ne_of_twinKey hk (by rw [R.SFU_TBL_DATA, twinKey_tileKey _ _ (by decide)]; decide +kernel)
    have h3 : indexIn k (R.MXA_ADP_TBL_0 u 0) 16 32 = none := indexIn_eq_none_of_twinKey hk fun i hi => by
      have h0 : ∀ i < 32, (findReg tileRegs (0x600 + i * 16)).any RegDef.twin = false := by decide +kernel
      rw [R.MXA_ADP_TBL_0, show tileKey u 0x600 + 0 * 16 + i * 16 = tileKey u (0x600 + i * 16) by simp only [tileKey]; omega,
        twinKey_tileKey _ _ (by omega), h0 i hi]
    rw [specialWrite, if_pos h, hu, tileSpecial]
    by_cases h4 : k = R.WPA_CB_SEL u
    · subst k; exact .inr (.inl ⟨_, _, _, hcb, if_pos rfl⟩)
    by_cases h5 : k = R.SFU_TBL_SEL u
    · subst k; exact .inr (.inl ⟨_, _, _, hsfu, (if_neg h4).trans (if_pos rfl)⟩)
    rw [if_neg h4, if_neg h5]
    by_cases h6 : k = R.GRN_TBL_SEL u
    · exact .inr (.inr ⟨u, h6, if_pos h6⟩)
    · exact .inl (by rw [if_neg h6, if_neg h1, if_neg h2, h3])
  · have hne : ∀ j ∈ [R.SPK_TBL_DATA, R.TIR_CLASS_DATA, R.HIF_DOORBELL, R.HIF_Q_BASE, R.HIF_Q_CQ, R.HIF_Q_RES, R.HIF_Q_CFG], k ≠ j := by
      have hj : ∀ j ∈ [R.SPK_TBL_DATA, R.TIR_CLASS_DATA, R.HIF_DOORBELL, R.HIF_Q_BASE, R.HIF_Q_CQ, R.HIF_Q_RES, R.HIF_Q_CFG],
        twinKey j = false := by decide +kernel
      exact fun j hm => ne_of_twinKey hk (hj j hm)
    simp only [List.forall_mem_cons, List.not_mem_nil, false_implies, implies_true, and_true] at hne
    rw [specialWrite, if_neg h, chipSpecial]
    split
    · subst k; exact .inr (.inl ⟨_, _, _, hspk, rfl⟩)
    · left; simp [hne]

/-- The tile that a register belongs to is one of the part's. -/
def State.hasReg (s : State) (k : Nat) : Prop := isTileKey k = true → tileOf k < s.numTiles

/-- The descriptor behind whose commit a write of register `k` is held (R269). -/
def State.heldBy (s : State) (k : Nat) : Option Nat := if isTileKey k then s.kvHolds k else none

section WriteReg
variable {k : Nat} {r : RegDef} {v : Word} {s : State} (hr : regOf k = some r) (ht : s.hasReg k)
include hr ht

/-- A write of an existing register, its first two branches taken. -/
theorem writeReg_eq : writeReg k v s = match specialWrite k v with
    | some tx => tx s
    | none =>
      if r.twin && !twAgree v then twReject s
      else match s.heldBy k with
        | some d => modTile (tileOf k) (fun ts => { ts with kvHeld := ts.kvHeld ++ [⟨k, v, d⟩] }) s
        | none => if r.twin then twinWrite k v s else plainWrite r k v s := by
  have hb : (isTileKey k && decide (s.numTiles ≤ tileOf k)) = false := by
    cases h : isTileKey k
    · rfl
    · simpa using ht h
  simp only [writeReg, hr, hb, specialWrite, State.heldBy, Bool.false_eq_true, if_false] <;> rfl

/-- A register of its own kind is written as that kind is. -/
theorem run_writeReg_special {tx : Tx} (hs : specialWrite k v = some tx) : run (writeReg k v) s = run tx s := by
  rw [run, writeReg_eq hr ht, hs]; rfl

variable (hs : specialWrite k v = none)
include hs

/-- Twin halves that disagree are counted. -/
theorem run_writeReg_reject (hw : r.twin = true) (hv : twAgree v = false) : run (writeReg k v) s = run twReject s := by
  rw [run, writeReg_eq hr ht, hs]; simp [hw, hv, run]

/-- A descriptor's write behind a commit in flight is held. -/
theorem run_writeReg_held {d : Nat} (hw : (r.twin && !twAgree v) = false) (hd : s.heldBy k = some d) :
    run (writeReg k v) s = run (modTile (tileOf k) fun ts => { ts with kvHeld := ts.kvHeld ++ [⟨k, v, d⟩] }) s := by
  rw [run, writeReg_eq hr ht, hs, hd]; simp [hw, run]

/-- A twin write whose halves agree. -/
theorem run_writeReg_twin (hw : r.twin = true) (hv : twAgree v = true) (hd : s.heldBy k = none) :
    run (writeReg k v) s = run (twinWrite k v) s := by
  rw [run, writeReg_eq hr ht, hs, hd]; simp [hw, hv, run]

/-- A write of an ordinary register. -/
theorem run_writeReg_plain (hw : r.twin = false) (hd : s.heldBy k = none) : run (writeReg k v) s = run (plainWrite r k v) s := by
  rw [run, writeReg_eq hr ht, hs, hd]; simp [hw, run]

end WriteReg

theorem run_selectTx_disagree {v : Word} (hv : twAgree v = false) (k stat : Nat) (act pend : Fld) (s : State) :
    run (selectTx k stat act pend v) s = run twReject s := by
  simp [run, selectTx, hv]

theorem run_grnTblSelTx_disagree {v : Word} (hv : twAgree v = false) (u : Nat) (s : State) :
    run (grnTblSelTx u v) s = run twReject s := by
  simp [run, grnTblSelTx, hv]

/-- A twin write whose halves disagree is counted and does nothing else (R8, R9). -/
theorem run_writeReg_disagree {k : Nat} {v : Word} {s : State} (hk : twinKey k = true)
    (ht : s.hasReg k) (hv : twAgree v = false) : run (writeReg k v) s = run twReject s := by
  cases hr : regOf k with
  | none => simp [twinKey, hr] at hk
  | some r =>
    have hrt : r.twin = true := twinKey_of_regOf hr ▸ hk
    rcases specialWrite_of_twinKey v hk with hs | ⟨stat, act, pend, -, hs⟩ | ⟨u, -, hs⟩
    · exact run_writeReg_reject hr ht hs hrt hv
    · rw [run_writeReg_special hr ht hs, run_selectTx_disagree hv]
    · rw [run_writeReg_special hr ht hs, run_grnTblSelTx_disagree hv]

/-- No register of a tile shows in a recording. -/
theorem not_mem_recRegs {k : Nat} (hk : 0x100000 ≤ k) : k ∉ recRegs := by
  have h : ∀ j ∈ recRegs, j < 0x100000 := by decide
  exact fun hm => Nat.not_lt.mpr hk (h k hm)

/-- The word of a TW register after it is stored. -/
@[simp] theorem reg_setTw (k j v : Nat) (s : State) : (run (setTw k v) s).reg j = if j = k then twWord v else s.reg j :=
  Sparse.get_set _ _ _ _ _

theorem reg_selectTx {k stat : Nat} {v : Word} (hv : twAgree v = true) (hne : k ≠ stat) (act pend : Fld) (s : State) :
    (run (selectTx k stat act pend v) s).reg k = v := by
  have hrun : selectTx k stat act pend v s = chain [setTw k v.toNat, setB stat pend (v.toNat % 2 != s.rf stat act),
      modChip fun c => { c with selBy := (k, c.writer) :: c.selBy.filter (·.1 != k) }] s := if_neg (by simp [hv])
  calc (run (selectTx k stat act pend v) s).reg k
      = (run (setB stat pend (v.toNat % 2 != s.rf stat act)) (run (setTw k v.toNat) s)).reg k := by
        rw [run, hrun, ← run, run_chain_cons, run_chain_cons, run_chain_cons, run_chain_nil, reg_modChip]
    _ = (run (setTw k v.toNat) s).reg k := by rw [reg_setB, if_neg hne]
    _ = v := by rw [reg_setTw, if_pos rfl, twWord_toNat hv]

/-- The grain selector takes an agreeing word or, for a bank that is not filled, keeps the old one (R249). -/
theorem reg_grnTblSelTx {v : Word} (hv : twAgree v = true) (u : Nat) (s : State) :
    (run (grnTblSelTx u v) s).reg (R.GRN_TBL_SEL u) = v ∨ (run (grnTblSelTx u v) s).reg (R.GRN_TBL_SEL u) = s.reg (R.GRN_TBL_SEL u) := by
  have hne : R.GRN_TBL_SEL u ≠ R.GRN_STAT u := by simp [R.GRN_TBL_SEL, R.GRN_STAT, tileKey]
  cases hf : s.rb (R.GRN_STAT u) (grnFilled (v.toNat % 2))
  · right
    have hrec : R.GRN_TBL_SEL u ∉ recRegs := not_mem_recRegs (by simp only [R.GRN_TBL_SEL, tileKey]; omega)
    have hrun : ∃ e, grnTblSelTx u v s = chain [incF (R.GRN_STAT u) F.GRN_STAT_SEL_REJECT 1, recordEntry e] s :=
      ⟨_, (if_neg (by simp [hv])).trans (if_pos (by simp [hf]))⟩
    obtain ⟨e, he⟩ := hrun
    rw [run, he, ← run, run_chain_cons, run_chain_cons, run_chain_nil, reg_recordEntry e _ hrec, reg_incF, if_neg hne]
  · left
    have hrun : grnTblSelTx u v s = selectTx (R.GRN_TBL_SEL u) (R.GRN_STAT u) F.GRN_STAT_ACTIVE F.GRN_STAT_PENDING v s :=
      (if_neg (by simp [hv])).trans (if_neg (by simp [hf]))
    rw [run, hrun, ← run, reg_selectTx hv hne]

/-- A check of a TW register writes at most the registers of its event. -/
theorem reg_twCheck (j gaddr : Nat) (s : State) {k : Nat} (h1 : k ≠ R.MOD_ALERT) (h2 : k ≠ R.HIF_STAT) :
    (run (twCheck j gaddr) s).reg k = s.reg k := by
  simp only [run, twCheck]
  split
  · rfl
  · exact reg_postEvent _ _ s h1 h2

/-- The armed step is in effect; the register it was armed in stays. -/
theorem reg_applyStep (s : State) {k : Nat} (h1 : k ≠ R.MOD_ALERT) (h2 : k ≠ R.HIF_STAT) (h3 : k ≠ R.CLK_CUR)
    (h4 : k ≠ R.CLK_CHANGE_FRAME) : (run applyStep s).reg k = s.reg k := by
  have hrun : run applyStep s = run (chain [twUse R.CLK_STEP, setF R.CLK_CUR F.CLK_CUR_STEP s.armedStep,
    setB R.CLK_CUR F.CLK_CUR_SYNTH (!s.rb R.CLK_CUR F.CLK_CUR_SYNTH), setRegN R.CLK_CHANGE_FRAME 0]) s := rfl
  simp only [hrun, run_chain_cons, run_chain_nil, reg_setRegN, reg_setB, reg_setF, h3, h4, if_false, twUse]
  exact reg_twCheck _ _ s h1 h2

@[simp] theorem reg_tellStandby (k : Nat) (s : State) : (run tellStandby s).reg k = s.reg k := by
  simp only [run, tellStandby]
  split <;> rfl

/-- A twin write whose halves agree leaves the written word or the old one (R8). -/
theorem reg_twinWrite {k : Nat} {v : Word} (hk : twinKey k = true) (hv : twAgree v = true) (s : State) :
    (run (twinWrite k v) s).reg k = v ∨ (run (twinWrite k v) s).reg k = s.reg k := by
  have hother : ∀ j ∈ [R.MOD_ALERT, R.HIF_STAT, R.CLK_CUR, R.CLK_CHANGE_FRAME, R.CLK_STAT, R.MSH_STAT], k ≠ j := by
    have hj : ∀ j ∈ [R.MOD_ALERT, R.HIF_STAT, R.CLK_CUR, R.CLK_CHANGE_FRAME, R.CLK_STAT, R.MSH_STAT], twinKey j = false := by
      decide +kernel
    exact fun j hm => ne_of_twinKey hk (hj j hm)
  simp only [List.forall_mem_cons, List.not_mem_nil, false_implies, implies_true, and_true] at hother
  obtain ⟨halert, hhif, hcur, hchange, hclk, hmsh⟩ := hother
  simp only [run, twinWrite]
  split
  · exact .inr rfl
  split
  · split
    · exact .inr ((reg_incF _ _ _ _ s).trans (if_neg hclk))
    split
    · exact .inr rfl
    · left
      rw [← run, run_chain_cons, run_chain_cons, run_chain_nil, reg_applyStep _ halert hhif hcur hchange, reg_setTw, if_pos rfl,
        twWord_toNat hv]
  split
  · exact .inr rfl
  split
  · exact .inr ((reg_incF _ _ _ _ s).trans (if_neg hmsh))
  · left
    rw [← run, run_chain_cons, run_chain_cons, run_chain_nil, reg_setTw, if_pos rfl, twWord_toNat hv]

/-- So does the write of any register whose halves agree. -/
theorem reg_writeReg_twin {k : Nat} {v : Word} {s : State} (hk : twinKey k = true) (ht : s.hasReg k) (hv : twAgree v = true) :
    (run (writeReg k v) s).reg k = v ∨ (run (writeReg k v) s).reg k = s.reg k := by
  cases hr : regOf k with
  | none => simp [twinKey, hr] at hk
  | some r =>
    have hrt : r.twin = true := twinKey_of_regOf hr ▸ hk
    rcases specialWrite_of_twinKey v hk with hs | ⟨stat, act, pend, hstat, hs⟩ | ⟨u, rfl, hs⟩
    · cases hd : s.heldBy k with
      | none => rw [run_writeReg_twin hr ht hs hrt hv hd]; exact reg_twinWrite hk hv s
      | some d => rw [run_writeReg_held hr ht hs (by simp [hv]) hd]; exact .inr rfl
    · rw [run_writeReg_special hr ht hs]; exact .inl (reg_selectTx hv (ne_of_twinKey hk hstat) act pend s)
    · rw [run_writeReg_special hr ht hs]; exact reg_grnTblSelTx hv u s

/-- A write of FRM_LEN whose halves agree (R22). -/
theorem run_writeReg_frmLen {v : Word} (hv : twAgree v = true) (s : State) :
    run (writeReg R.FRM_LEN v) s = if s.running then s else run (setTw R.FRM_LEN v.toNat) s := by
  have hk : (regOf R.FRM_LEN).isSome = true ∧ ∀ r ∈ regOf R.FRM_LEN, r.twin = true := by decide +kernel
  obtain ⟨r, hr⟩ := Option.isSome_iff_exists.mp hk.1
  have ht : s.hasReg R.FRM_LEN := fun h => absurd h (by decide)
  have hs : specialWrite R.FRM_LEN v = none := rfl
  rw [run_writeReg_twin hr ht hs (hk.2 r hr) hv rfl]
  have hidle : idleOnly R.FRM_LEN = true := by decide
  have hne : R.FRM_LEN ≠ R.AUD_CTX_KEEP ∧ R.FRM_LEN ≠ R.PWR_LIMIT ∧ R.FRM_LEN ≠ R.CLK_STEP ∧ R.FRM_LEN ≠ R.ROL_ACTIVE := by decide
  have hmap : inArr R.FRM_LEN (R.MSH_ROWMAP 0) 8 16 = false := by decide
  have hkey : (R.FRM_LEN == R.FAB_JOB_PKEY || (List.range 14).any fun p => inArr R.FRM_LEN (R.FAB_PKEY_TBL p 0) 8 64) = false := by decide
  have hign : s.writeIgnored R.FRM_LEN v = s.running := by
    simp only [State.writeIgnored, hidle, beq_eq_false_iff_ne.mpr hne.1, beq_eq_false_iff_ne.mpr hne.2.1, Bool.and_true, Bool.false_and, Bool.or_false]
  simp only [run, twinWrite, hign, hne, hmap, hkey, if_false, Bool.false_and, Bool.false_eq_true]
  split
  · rfl
  · rw [← run, run_chain_cons, run_when_false, run_chain_cons, run_chain_nil]; rfl


/-- What a refused twin write does (R9). -/
theorem twReject_frame (s : State) : let t := run twReject s
    t.rf R.MOD_TW_REJECT_CNT F.MOD_TW_REJECT_CNT_COUNT = s.plus R.MOD_TW_REJECT_CNT F.MOD_TW_REJECT_CNT_COUNT 1 ∧
      s.sameRegsBut t [R.MOD_TW_REJECT_CNT] ∧ s.sameMemory t ∧ t.tiles = s.tiles ∧ t.chip = s.chip := by
  refine ⟨rf_incF (by decide) _ _ _, fun j hj => ?_, ⟨rfl, rfl, rfl, rfl, rfl, rfl, rfl⟩, rfl, rfl⟩
  rw [twReject, reg_incF, if_neg (by simpa using hj)]

/-- What a stored twin word leaves. -/
theorem setTw_frame {v : Word} (hv : twAgree v = true) (k : Nat) (s : State) : let t := run (setTw k v.toNat) s
    t.reg k = v ∧ s.sameRegsBut t [k] ∧ s.sameMemory t := by
  refine ⟨?_, fun j hj => ?_, sameMemory_setTw _ _ s⟩
  · rw [reg_setTw, if_pos rfl, twWord_toNat hv]
  · rw [reg_setTw, if_neg (by simpa using hj)]

/-- Settles O47: a selector, a held descriptor write, the clock step and the plain case are the branches of a twin write. -/
theorem twinWrites : Obligations.TwinWrites := by
  intro s k r v hr hrt ht
  have hk : twinKey k = true := (twinKey_of_regOf hr).trans hrt
  refine ⟨readReg_of_twinKey s hk ht, twAgree_resetWord hk, fun hv => ?_, fun hv => ⟨reg_writeReg_twin hk ht hv, ?_, ?_⟩⟩
  · rw [run_writeReg_disagree hk ht hv]
    exact twReject_frame s
  · rintro rfl hrun
    rw [run_writeReg_frmLen hv, if_pos hrun]
  · rintro rfl hrun
    rw [run_writeReg_frmLen hv, if_neg (by simp [hrun])]
    exact setTw_frame hv _ s

end Sys2Proof.Machine
end

section
/-! PROOFS. What reset leaves (R7). -/

namespace Sys2Proof.Machine

/-- Every tile's copy of a register resets to what tile 0's does. -/
theorem resetWord_tileKey (u off : Nat) (h : off < 0x4000) : resetWord (tileKey u off) = resetWord (tileKey 0 off) := by
  simp only [resetWord, regOf_tileKey _ off h]

theorem reg_reset (k : Nat) : State.reset.reg k = resetWord k := rfl

theorem tw_reset {k : Nat} (h : twAgree (resetWord k) = true) : State.reset.tw k = (resetWord k).toNat % 0x100000000 := by
  rw [State.tw, reg_reset, if_pos h]

theorem linePoison_reset (l : Nat) : State.reset.linePoison l = false := by
  rw [State.linePoison, show Sparse.get pois0 State.reset.poison l = 0 from rfl]
  decide

theorem grnMode_reset (u : Nat) : State.reset.rb (R.GRN_MODE u) F.GRN_MODE_MODE = true := by
  rw [State.rb, State.rf, reg_reset, R.GRN_MODE, resetWord_tileKey u _ (by decide)]
  decide +kernel

theorem grnTblSel_reset (u : Nat) : State.reset.tw (R.GRN_TBL_SEL u) = 0 := by
  have h : resetWord (R.GRN_TBL_SEL u) = 0xFFFFFFFF00000000 := by
    rw [R.GRN_TBL_SEL, resetWord_tileKey u _ (by decide)]
    decide +kernel
  rw [tw_reset] <;> rw [h] <;> decide

theorem kvcDesc2_resetWord (u : Nat) {d : Nat} (hd : d < 64) : resetWord (R.KVC_DESC_2 u d) = 0xFFFFFFFF00000000 := by
  have h0 : ∀ d < 64, resetWord (tileKey 0 (0x1d10 + d * 32)) = 0xFFFFFFFF00000000 := by decide +kernel
  rw [R.KVC_DESC_2, show tileKey u 0x1d10 + d * 32 = tileKey u (0x1d10 + d * 32) by simp only [tileKey]; omega,
    resetWord_tileKey u _ (by omega), h0 d hd]

theorem kvDesc_len_reset (u : Nat) {d : Nat} (hd : d < 64) : (State.reset.kvDesc u d).len = 0 := by
  have h : State.reset.tw (R.KVC_DESC_2 u d) = 0 := by
    rw [tw_reset] <;> rw [kvcDesc2_resetWord u hd] <;> decide
  simp only [State.kvDesc, h]

/-- Settles O4: the stores are empty, so every register reads its reset value and everything else nothing. -/
theorem resetValues : Obligations.ResetValues := by
  refine ⟨by decide, rfl, fun _ => ⟨rfl, rfl⟩, linePoison_reset, fun _ _ => rfl, ?_⟩
  refine ⟨by decide +kernel, by decide +kernel, by decide +kernel, by decide +kernel, by decide +kernel, by decide +kernel,
    by decide +kernel, by decide +kernel, ?_⟩
  exact fun u _ => ⟨grnMode_reset u, grnTblSel_reset u, rfl, fun d hd => kvDesc_len_reset u hd⟩

end Sys2Proof.Machine
end

section
/-! PROOFS. Events and address faults (R73, R369). -/

namespace Sys2Proof.Machine

/-- What an event leaves alone: memories but the queues, tiles, and of the chip's record everything but the in-band interrupts (R369, R481). -/
def State.besideEvent (s : State) : List Host.Cell × List Host.Cell × List (Nat × BitVec 3) × List (Nat × Bool) × List (Nat × TileS) × Chip :=
  (s.mem, s.err, s.poison, s.full, s.tiles, { s.chip with ibis := 0 })

theorem besideEvent_setF (k : Nat) (f : Fld) (v : Nat) : (setF k f v).Keeps State.besideEvent := fun _ => rfl

theorem besideEvent_raiseAlert (f : Fld) : (raiseAlert f).Keeps State.besideEvent :=
  Keeps.chainS fun _ => Keeps.cons (besideEvent_setF _ _ _) <| Keeps.cons (Keeps.whenS fun _ => rfl) Keeps.nil

theorem besideEvent_postEvent (status detail : Nat) : (postEvent status detail).Keeps State.besideEvent := fun s => by
  simp only [run, postEvent]
  split
  · exact Keeps.cons (t := modQueue 0 _) (fun _ => rfl) (Keeps.cons (besideEvent_raiseAlert _) Keeps.nil) s
  · rfl

theorem besideEvent_raise (k : Nat) (f : Fld) (status detail : Nat) : (raise k f status detail).Keeps State.besideEvent :=
  Keeps.iteS Keeps.skip <| Keeps.cons (besideEvent_setF _ _ _) <| Keeps.cons (besideEvent_postEvent _ _) Keeps.nil

/-- A status bit that is raised stands in its register, whatever its event writes (R369). -/
theorem reg_raise_same {k : Nat} (h1 : k ≠ R.MOD_ALERT) (h2 : k ≠ R.HIF_STAT) (f : Fld) (status detail : Nat) (s : State) :
    (run (raise k f status detail) s).reg k = if s.rb k f then s.reg k else fset (s.reg k) f 1 := by
  simp only [run, raise]
  split
  · rfl
  · rw [← run, run_chain_cons, run_chain_cons, run_chain_nil, reg_postEvent _ _ _ h1 h2, reg_setF, if_pos rfl]

theorem rb_raise {k : Nat} (h1 : k ≠ R.MOD_ALERT) (h2 : k ≠ R.HIF_STAT) {f : Fld} (hf : f.lo ≤ f.hi ∧ f.hi < 64) (status detail : Nat)
    (s : State) : (run (raise k f status detail) s).rb k f = true := by
  rw [State.rb, State.rf, reg_raise_same h1 h2]
  split
  · assumption
  · rw [fget_fset_same _ _ _ hf.2, Nat.mod_eq_of_lt (Nat.one_lt_two_pow (by simp only [Fld.width]; omega))]; rfl

/-- A field of other bits keeps its value. -/
theorem rf_raise_disjoint {k : Nat} (h1 : k ≠ R.MOD_ALERT) (h2 : k ≠ R.HIF_STAT) {f g : Fld} (hg : g.hi < 64)
    (hd : f.hi < g.lo ∨ g.hi < f.lo) (status detail : Nat) (s : State) : (run (raise k f status detail) s).rf k g = s.rf k g := by
  rw [State.rf, reg_raise_same h1 h2]
  split
  · rfl
  · rw [fget_fset_disjoint _ _ _ _ hg hd]; rfl

@[simp] theorem stream_setStream (ts : TileS) (k : Nat) (v : StreamS) : (ts.setStream k v).stream k = v := by
  match k with
  | 0 | 1 | 2 | _ + 3 => rfl

/-- What an address fault of a tile's stream does (R73): the stream halts, the fault and the stream are recorded, and an event goes out. -/
theorem run_addrFault (u k : Nat) (s : State) : run (addrFault (.tile u k)) s =
    run (raise (R.STR_STAT u) F.STR_STAT_ADDR_FAULT 0x0807 (u + 512 * k)) (run (setF (R.STR_STAT u) F.STR_STAT_FAULT_STREAM k)
      (run (modStream u k fun x => { x with halted := true }) s)) := by
  simp only [addrFault, run_chain_cons, run_chain_nil]

theorem strStat_ne (u : Nat) : R.STR_STAT u ≠ R.MOD_ALERT ∧ R.STR_STAT u ≠ R.HIF_STAT := by
  simp only [R.STR_STAT, tileKey, R.MOD_ALERT, R.HIF_STAT]
  omega

section AddrFault
variable (u k : Nat) (s : State)

theorem addrFault_beside : (run (addrFault (.tile u k)) s).besideEvent =
    (run (modStream u k fun x => { x with halted := true }) s).besideEvent := by
  rw [run_addrFault, besideEvent_raise, besideEvent_setF]

theorem addrFault_chip : (run (addrFault (.tile u k)) s).chip = { s.chip with ibis := (run (addrFault (.tile u k)) s).chip.ibis } := by
  generalize ht : run (addrFault (.tile u k)) s = t
  have h : { t.chip with ibis := 0 } = { s.chip with ibis := 0 } := ht ▸ congrArg (fun v => v.2.2.2.2.2) (addrFault_beside u k s)
  calc t.chip = { ({ t.chip with ibis := 0 } : Chip) with ibis := t.chip.ibis } := rfl
    _ = { s.chip with ibis := t.chip.ibis } := by rw [h]

theorem addrFault_tile : ((run (addrFault (.tile u k)) s).tile u).stream k = { (s.tile u).stream k with halted := true } := by
  have h : (run (addrFault (.tile u k)) s).tiles = (run (modStream u k fun x => { x with halted := true }) s).tiles :=
    congrArg (fun v => v.2.2.2.2.1) (addrFault_beside u k s)
  have ht : (run (addrFault (.tile u k)) s).tile u = (run (modStream u k fun x => { x with halted := true }) s).tile u := by
    rw [State.tile, h]; rfl
  rw [ht, modStream, tile_modTile, if_pos rfl, stream_setStream]

theorem addrFault_regs : s.sameRegsBut (run (addrFault (.tile u k)) s) [R.STR_STAT u, R.MOD_ALERT, R.HIF_STAT] := by
  intro j hj
  simp only [List.mem_cons, List.not_mem_nil, or_false, not_or] at hj
  obtain ⟨hstr, halert, hhif⟩ := hj
  rw [run_addrFault, reg_raise _ _ _ _ _ hstr halert hhif, reg_setF, if_neg hstr, modStream, reg_modTile]

theorem addrFault_fault : (run (addrFault (.tile u k)) s).rb (R.STR_STAT u) F.STR_STAT_ADDR_FAULT = true := by
  rw [run_addrFault, rb_raise (strStat_ne u).1 (strStat_ne u).2 (by decide)]

theorem addrFault_stream (hk : k < 4) : (run (addrFault (.tile u k)) s).rf (R.STR_STAT u) F.STR_STAT_FAULT_STREAM = k := by
  rw [run_addrFault, rf_raise_disjoint (strStat_ne u).1 (strStat_ne u).2 (by decide) (by decide), State.rf, reg_setF, if_pos rfl,
    fget_fset_same _ _ _ (by decide), Nat.mod_eq_of_lt (by simpa [F.STR_STAT_FAULT_STREAM, Fld.width] using hk)]

theorem addrFault_canIssue : (run (addrFault (.tile u k)) s).canIssue (.tile u k) = false := by
  simp only [State.canIssue, addrFault_tile, Bool.not_true, Bool.and_false, Bool.false_and]

end AddrFault

/-- A stream that issues at once can issue, with nothing waiting before. -/
theorem of_fresh {s : State} {st : StreamId} (h : s.fresh st = true) :
    s.streamOk st = true ∧ s.canIssue st = true ∧ (s.waitq st).isEmpty = true := by
  simpa only [State.fresh, Bool.and_eq_true, and_assoc] using h

theorem eof_of_canIssue {s : State} {u k : Nat} (h : s.canIssue (.tile u k) = true) : ((s.tile u).stream k).eof = false := by
  simp only [State.canIssue, Bool.and_eq_true, Bool.not_eq_true'] at h
  obtain ⟨⟨⟨⟨-, he⟩, -⟩, -⟩, -⟩ := h
  exact he

/-- An instruction of a stream that issues at once, ready and with a bad address, halts its stream. -/
theorem instruction_bad {i : Instr} {h : Hdr} {u k : Nat} {need : State → Nat → Need} {s : State} (hf : s.fresh (.tile u k) = true)
    (hw : i.wf = true) (hr : (need s (s.issueCycle (.tile u k))).ready = true)
    (hb : (need s (s.issueCycle (.tile u k))).addrs.any s.badAddr = true) :
    instruction i (.tile u k) (issue (.tile u k) h i need) s = .next (run (addrFault (.tile u k)) s) := by
  obtain ⟨hok, hcan, hq⟩ := of_fresh hf
  rw [instruction, hw, hok, Bool.true_and, if_pos rfl, commit, run_issue_bad hcan hq hr hb]

/-- Of this module and of a tile that the part has, only an address of space 6 is bad (R13). -/
theorem gSpace_of_bad_nearby {s : State} {u g : Nat} (hok : s.tileOk u = true) (hb : s.badAddr g = true) (hn : s.nearby u g = true) :
    gSpace g = 6 := by
  simp only [State.nearby, Bool.and_eq_true, beq_iff_eq] at hn
  simp only [State.tileOk, decide_eq_true_eq] at hok
  simp only [State.badAddr, Bool.or_eq_true, beq_iff_eq, Bool.and_eq_true, decide_eq_true_eq, hn.2] at hb
  omega

/-- A plain or filling write passes no landing queue. -/
theorem localRoom_of_lt (s : State) {wm : Nat} (h : wm < 2) (t sp off n : Nat) : s.localRoom t wm sp off n = true := by
  have h2 : (wm != 2) = true := by simp; omega
  simp [State.localRoom, h2]

/-- A DMOV whose address is bad issues nothing: its waits are met, and the address stops it (R13, R73). -/
theorem exec_dmov_bad (s : State) (a : DmovArgs) (hf : s.fresh (.tile a.tile 1) = true) (hw : (Instr.dmov a).wf = true) :
    let n := 64 * a.len
    let k := if a.step then n * s.cnt (.tile a.tile 1) a.ctr else 0
    s.badAddr (gAdd a.g k) = true → gMod (gAdd a.g k) = s.position → a.wm < 2 →
    (a.dir = false → s.readReady a.tile a.gm ((64 * a.loc + k) % 0x180000) n = true) →
    exec (.dmov a) s = .next (run (addrFault (.tile a.tile 1)) s) := by
  intro n k hb hm hwm hr
  refine instruction_bad hf hw ?_ ?_
  · have hroom := localRoom_of_lt s hwm
    rw [Bool.and_eq_true]
    constructor
    · cases hd : a.dir with
      | false => simpa [hd, State.spaceReady, wrapOff, spaceSize] using hr hd
      | true =>
        cases hn : s.nearby a.tile (gAdd a.g k) with
        | false => simp
        | true =>
          have h6 : gSpace (gAdd a.g k) = 6 := gSpace_of_bad_nearby (of_fresh hf).1 hb hn
          have hsp : s.spaceReady (gSpace (gAdd a.g k)) a.tile a.gm (wrapOff (gSpace (gAdd a.g k)) (gOff (gAdd a.g k))) n = true := by
            rw [h6]; rfl
          simpa using hsp
    · by_cases hn : s.nearby a.tile (gAdd a.g k) = true
      · exact (if_pos hn).trans (hroom _ _ _ _)
      · exact (if_neg hn).trans (Bool.or_eq_true_iff.mpr (.inl (beq_iff_eq.mpr hm)))
  · simpa using hb

/-- So with a KV_COMMIT whose notify address is bad. -/
theorem exec_kvCommit_bad (s : State) (a : KvArgs) (hf : s.fresh (.tile a.tile 1) = true) (hw : (Instr.kvCommit a).wf = true)
    (hn : a.ntf = true) (hb : s.badAddr a.g = true) (hm : gMod a.g = s.position) (hr : s.readReady a.tile a.gm (64 * a.path) 64 = true)
    (hc : ∀ bs, ∀ x ∈ s.kvCopies a bs, s.needsRefetch 1 a.tile x.1 64 = false) :
    exec (.kvCommit a) s = .next (run (addrFault (.tile a.tile 1)) s) := by
  refine instruction_bad hf hw ?_ ?_
  · have hlate : ∀ bs, ((s.kvCopies a bs).filter fun x => s.needsRefetch 1 a.tile x.1 64) = [] := fun bs =>
      List.filter_eq_nil_iff.mpr fun x hx => by simp [hc bs x hx]
    simp only [hr, hlate, hm, beq_self_eq_true, List.isEmpty_nil, Bool.or_true, Bool.true_or, Bool.and_true]
  · simp [hn, hb]

/-- Settles O51: both instructions reach the fault branch of the issue, whose effect is `run_addrFault`. -/
theorem addressFaults : Obligations.AddressFaults := by
  intro s
  have halted (u : Nat) (hf : s.fresh (.tile u 1) = true) : let t := run (addrFault (.tile u 1)) s
      t.mem = s.mem ∧ t.err = s.err ∧ t.poison = s.poison ∧ t.full = s.full ∧ t.chip = { s.chip with ibis := t.chip.ibis } ∧
      s.sameRegsBut t [R.STR_STAT u, R.MOD_ALERT, R.HIF_STAT] ∧ t.rb (R.STR_STAT u) F.STR_STAT_ADDR_FAULT = true ∧
      t.rf (R.STR_STAT u) F.STR_STAT_FAULT_STREAM = 1 ∧ t.canIssue (.tile u 1) = false ∧ ((t.tile u).stream 1).eof = false := by
    have hb := addrFault_beside u 1 s
    refine ⟨congrArg (·.1) hb, congrArg (·.2.1) hb, congrArg (·.2.2.1) hb, congrArg (·.2.2.2.1) hb, addrFault_chip u 1 s,
      addrFault_regs u 1 s, addrFault_fault u 1 s, addrFault_stream u 1 s (by decide), addrFault_canIssue u 1 s, ?_⟩
    rw [addrFault_tile]
    exact eof_of_canIssue (of_fresh hf).2.1
  exact ⟨fun a hf hw hb hm hwm hr => ⟨_, exec_dmov_bad s a hf hw hb hm hwm hr, halted a.tile hf⟩,
    fun a hf hw hn hb hm hr hc => ⟨_, exec_kvCommit_bad s a hf hw hn hb hm hr hc, halted a.tile hf⟩⟩

end Sys2Proof.Machine
end


section
/-! O58. Power and reset: STEP after a rail fault, where a retirement that no part has is under way (R476). -/

namespace Sys2Proof.Machine

/-- A job runs, and a retirement is in its last phase. No part has its row, and the ROWMAP register of that row would be MOD_STAT. -/
def strayRetirement : State :=
  run (chain [setF R.FRM_CTL F.FRM_CTL_RUN 1, modChip fun c => { c with retire := some {
    nom := 0, row := (R.MOD_STAT - R.MSH_ROWMAP 0) / 8, site := 0, plan := [], phase := 4, unitsLeft := 0, staged := some 1 } }]) State.reset

/-- What MOD_STAT holds. -/
abbrev State.modStat (s : State) : Word := s.reg R.MOD_STAT

theorem modStat_setReg {k : Nat} (h : R.MOD_STAT ≠ k) (v : Word) : (setReg k v).Keeps State.modStat := fun s => by
  rw [State.modStat, reg_setReg, if_neg h]

theorem modStat_setRegN {k : Nat} (h : R.MOD_STAT ≠ k) (v : Nat) : (setRegN k v).Keeps State.modStat := modStat_setReg h _

theorem modStat_setF {k : Nat} (h : R.MOD_STAT ≠ k) (f : Fld) (v : Nat) : (setF k f v).Keeps State.modStat := fun s => by
  rw [State.modStat, reg_setF, if_neg h]

theorem modStat_setDom (d v : Nat) : (setDom d v).Keeps State.modStat :=
  Keeps.look (g := fun s => setF R.PWR_STATE _ _) fun _ => modStat_setF (by decide) _ _

theorem modStat_setWords {k : Nat} (h : k + 32 ≤ R.MOD_STAT) (bs : List Byte) : (setWords k bs).Keeps State.modStat :=
  Keeps.forEach fun w hw => modStat_setRegN (by have := List.mem_range.mp hw; omega) _

theorem modStat_mem (k : Nat) (bs : List Byte) : Tx.Keeps State.modStat fun _ => [.mem k bs] := fun _ => rfl

theorem modStat_modChip (g : Chip → Chip) : (modChip g).Keeps State.modStat := fun _ => rfl

/-- No bank of adapter slots is at MOD_STAT: the tables are the tiles' registers, the roots end below it. -/
theorem modStat_emptyAdapters : emptyAdapters.Keeps State.modStat := by
  have hlt : R.MOD_STAT < 0x100000 := by decide
  have hroot : R.ROL_ADP_ROOT 32 0 ≤ R.MOD_STAT := by decide
  refine Keeps.chainS (ts := fun s => [forEach s.tileList _, forEach (List.range 32) _]) fun s =>
    Keeps.cons (Keeps.forEach fun t _ => Keeps.forEach fun e _ => Keeps.cons (modStat_setRegN ?_ _) <| Keeps.cons (modStat_setRegN ?_ _) Keeps.nil) <|
    Keeps.cons (Keeps.forEach fun e he => modStat_setWords ?_ _) Keeps.nil
  · simp only [R.MXA_ADP_TBL_0, tileKey]; omega
  · simp only [R.MXA_ADP_TBL_1, tileKey]; omega
  · have := List.mem_range.mp he
    simp only [R.ROL_ADP_ROOT] at hroot ⊢
    omega

/-- What `voidWeights` does after it has answered the loads. -/
theorem modStat_voidWeights (s : State) : (run voidWeights s).modStat = (run voidLoads s).modStat := by
  rw [run, voidWeights, ← run, run_chain_cons]
  refine Keeps.cons (modStat_modChip _) (Keeps.cons (Keeps.forEach fun x hx => ?_) <| Keeps.cons (modStat_setRegN (by decide) _) <|
    Keeps.cons modStat_emptyAdapters <| Keeps.cons (modStat_mem _ _) <| Keeps.cons (Keeps.forEach fun _ _ _ => rfl) Keeps.nil) _
  have hx' : x < 2 := by simp only [List.mem_cons, List.not_mem_nil, or_false] at hx; omega
  have hkey (w : Nat) (hw : w < 10) : descKey x w + 32 ≤ R.MOD_STAT := by
    simp only [descKey, R.ROL_DESC_A_0, R.MOD_STAT]; omega
  have hset (w : Nat) (hw : w < 10) (v : Nat) : (setRegN (descKey x w) v).Keeps State.modStat :=
    modStat_setRegN (by have := hkey w hw; omega) v
  exact Keeps.cons (hset 0 (by omega) _) <| Keeps.cons (modStat_setWords (hkey 1 (by omega)) _) <|
    Keeps.cons (Keeps.forEach fun w hw => hset _ (by have := List.mem_range.mp hw; omega) _) <| Keeps.cons (hset 9 (by omega) _) Keeps.nil

/-- A part of grade 3207 has its own fuses; MOD_STAT is none of them. -/
theorem modStat_gradeRegisters : gradeRegisters.Keeps State.modStat := Keeps.updates fun s u hu s' => by
  have hw : ∀ x ∈ gradeWords, x.1 ≠ R.MOD_STAT := by decide +kernel
  simp only [gradeRegisters, gradeRegistersOf] at hu
  split at hu
  · obtain ⟨x, hx, rfl⟩ := List.mem_map.mp hu
    exact modStat_setReg (hw x (List.mem_filter.mp hx).1).symm x.2 s'
  · exact absurd hu (List.not_mem_nil)

theorem modStat_noteCompat : (noteCompat 0).Keeps State.modStat :=
  Keeps.cons (Keeps.look fun _ => modStat_setF (by decide) _ _) <|
    Keeps.cons (Keeps.look (g := fun s => setRegN R.AUD_BITKEY _) fun _ => modStat_setRegN (by decide) _) Keeps.nil

/-- MOD_STAT is in standby logic, which keeps its registers (R476). -/
theorem modStat_dropMain : Tx.Keeps State.modStat fun _ => [.dropRegs mainKey, .dropMem fun _ => true, .dropFull, .dropTiles] := fun s =>
  Sparse.get_filter resetWord s.regs fun _ => show (!mainKey R.MOD_STAT) = true by decide

theorem upStep_congr {s t : State} (h : s.modStat = t.modStat) : s.upStep = t.upStep := congrArg (fget · F.MOD_STAT_STEP) h

/-- What keeps MOD_STAT keeps its STEP. -/
theorem Keeps.upStep {t : Tx} (h : t.Keeps State.modStat) : t.Keeps State.upStep := fun s => upStep_congr (h s)

/-- The other fields of MOD_STAT stand above STEP. -/
theorem upStep_setF {f : Fld} (h : F.MOD_STAT_STEP.hi < f.lo) (v : Nat) : (setF R.MOD_STAT f v).Keeps State.upStep := fun s => by
  rw [State.upStep, State.rf, reg_setF, if_pos rfl, fget_fset_disjoint _ _ _ _ (by decide) (.inr h)]; rfl

theorem upStep_setStep {n : Nat} (h : n < 16) (s : State) : (run (setStep n) s).upStep = n := by
  rw [State.upStep, State.rf, setStep, reg_setF, if_pos rfl, fget_fset_same _ _ _ (by decide)]
  exact Nat.mod_eq_of_lt h

/-- The removal's steps once the weights are void: a STEP of 1 stays. -/
theorem upStep_withoutMain {s : State} (h : s.upStep = 1) : (run (chain [fun _ => [.dropRegs mainKey, .dropMem fun _ => true, .dropFull, .dropTiles],
    modChip Chip.withoutMain, gradeRegisters, noteCompat 0, setF R.MOD_STAT F.MOD_STAT_READY 0,
    look fun s => setStep (if s.upStep = 1 then 1 else 2), forEach [2, 3, 4, 5, 6] fun d => setDom d 0]) s).upStep = 1 := by
  have hkeep : (chain [fun _ => [.dropRegs mainKey, .dropMem fun _ => true, .dropFull, .dropTiles], modChip Chip.withoutMain, gradeRegisters,
      noteCompat 0, setF R.MOD_STAT F.MOD_STAT_READY 0]).Keeps State.upStep :=
    Keeps.cons (Keeps.upStep modStat_dropMain) <| Keeps.cons (Keeps.upStep (modStat_modChip _)) <|
      Keeps.cons (Keeps.upStep modStat_gradeRegisters) <| Keeps.cons (Keeps.upStep modStat_noteCompat) <|
      Keeps.cons (upStep_setF (by decide) _) Keeps.nil
  have h5 := (hkeep s).trans h
  have hdom := Keeps.upStep (Keeps.forEach (xs := [2, 3, 4, 5, 6]) fun d _ => modStat_setDom d 0)
  rw [run_chain_cons, run_chain_cons, run_chain_cons, run_chain_cons, run_chain_cons, run_chain_nil] at h5
  rw [run_chain_cons, run_chain_cons, run_chain_cons, run_chain_cons, run_chain_cons, run_chain_cons, run_chain_cons, run_chain_nil,
    hdom, run_look, if_pos h5]
  exact upStep_setStep (by decide) _

/-- The main group removed while no test runs, STEP stays 1 where the job's end leaves 1. -/
theorem upStep_removeMain {s : State} (hrun : s.running = true) (htest : (run stopJob s).chip.test = none)
    (h1 : (run voidLoads (run closeSwitches (run stopJob s))).upStep = 1) : (run removeMain s).upStep = 1 := by
  have hvoid : (run voidWeights (run closeSwitches (run stopJob s))).upStep = 1 := (upStep_congr (modStat_voidWeights _)).trans h1
  have hstop : run (whenS State.running stopJob) s = run stopJob s := by rw [run_whenS, if_pos hrun]
  rw [removeMain, run_chain_cons, hstop, run_chain_cons, run_look, htest, run_skip, run_chain_cons, run_chain_cons]
  exact upStep_withoutMain hvoid

/-- A fault of a main-group rail leaves the STEP that the removal left. -/
theorem upStep_railFault {s : State} {v : Nat} (hv : v < 4) (hvin : s.chip.vin = true) :
    (run (railFaultTx v) s).upStep = (run removeMain s).upStep := by
  have hpow : s.powered = true := hvin
  have hmain : ¬ 4 ≤ v := by omega
  have hrun : run (railFaultTx v) s = run (chain [removeMain, setF R.MOD_STAT F.MOD_STAT_RAIL_FAULT 1, setF R.MOD_STAT F.MOD_STAT_FAULT_RAIL v,
      raiseAlert F.MOD_ALERT_RAIL]) s := by
    rw [railFaultTx, run_whenS, if_pos hpow, run, if_neg hmain, ← run]
  rw [hrun, run_chain_cons]
  exact Keeps.cons (upStep_setF (by decide) _) (Keeps.cons (upStep_setF (by decide) _) <|
    Keeps.cons (Keeps.upStep fun t => reg_raiseAlert _ t (by decide)) Keeps.nil) _

theorem strayRetirement_stops : (run stopJob strayRetirement).chip.test = none ∧
    (run voidLoads (run closeSwitches (run stopJob strayRetirement))).upStep = 1 := by decide +kernel

/-- Refutes O58: its rail fault clause ranges over every state, also one with a retirement of a row that no part has. The job's end
puts back what that row's ROWMAP names (R293), over MOD_STAT, whose STEP then is 1; the clause says 2. -/
theorem not_powerAndReset : ¬ Obligations.PowerAndReset := by
  unfold Obligations.PowerAndReset
  intro h
  obtain ⟨-, -, -, -, -, -, hrail, -⟩ := h strayRetirement
  obtain ⟨t, ht, -, -, -, -, hstep, -⟩ := (hrail rfl).1 0 (by decide)
  obtain ⟨htest, h1⟩ := strayRetirement_stops
  have hexec : exec (.railFault 0) strayRetirement = .next (run (railFaultTx 0) strayRetirement) := rfl
  have hfault : (run (railFaultTx 0) strayRetirement).upStep = 1 :=
    (upStep_railFault (by decide) rfl).trans (upStep_removeMain (by decide +kernel) htest h1)
  obtain rfl := Host.Outcome.next.inj (hexec.symm.trans ht)
  rw [hfault] at hstep
  have h0 : strayRetirement.upStep = 0 := by decide +kernel
  rw [h0] at hstep
  exact absurd hstep (by decide)
end Sys2Proof.Machine
end

section
/-! SUPPORT. The power domains' states in PWR_STATE (R435). -/

namespace Sys2Proof.Machine

/-- The digit at place `e`, base 4, of a number after its digit at place `d` is replaced. -/
theorem digit_replace {v : Nat} (hv : v < 4) (x d e : Nat) :
    (x - x / 4 ^ d % 4 * 4 ^ d + v * 4 ^ d) / 4 ^ e % 4 = if e = d then v else x / 4 ^ e % 4 := by
  have hq : 0 < 4 ^ d := Nat.pow_pos (by decide)
  -- the number is `a` above its digit `b` at place `d`, above `c`
  obtain ⟨a, b, c, hb, hc, hx⟩ : ∃ a b c, b < 4 ∧ c < 4 ^ d ∧ x = (a * 4 + b) * 4 ^ d + c :=
    ⟨x / 4 ^ d / 4, x / 4 ^ d % 4, x % 4 ^ d, Nat.mod_lt _ (by decide), Nat.mod_lt _ hq, by
      rw [Nat.div_add_mod', Nat.div_add_mod']⟩
  have hdiv (m : Nat) : (m * 4 ^ d + c) / 4 ^ d = m := by
    rw [Nat.mul_comm, Nat.mul_add_div hq, Nat.div_eq_of_lt hc, Nat.add_zero]
  have hbig (m : Nat) (h : m < 4) : ((a * 4 + m) * 4 ^ d + c) / 4 ^ (d + 1) = a := by
    rw [Nat.pow_succ, ← Nat.div_div_eq_div_mul, hdiv]; omega
  have hdig : x / 4 ^ d % 4 = b := by rw [hx, hdiv]; omega
  have hy : x - x / 4 ^ d % 4 * 4 ^ d + v * 4 ^ d = (a * 4 + v) * 4 ^ d + c := by
    rw [hdig, hx, Nat.add_mul, Nat.add_mul]; omega
  rw [hy]
  split
  case isTrue h => rw [h, hdiv]; omega
  case isFalse h =>
    rcases Nat.lt_or_gt_of_ne h with hlt | hgt
    · obtain ⟨r, rfl⟩ : ∃ r, d = e + 1 + r := ⟨d - (e + 1), by omega⟩
      have hlow (m : Nat) : (m * 4 ^ (e + 1 + r) + c) / 4 ^ e % 4 = c / 4 ^ e % 4 := by
        rw [show m * 4 ^ (e + 1 + r) = 4 ^ e * (m * 4 ^ r * 4) by rw [Nat.pow_add, Nat.pow_succ]; ac_rfl,
          Nat.mul_add_div (Nat.pow_pos (by decide)), Nat.mul_add_mod_self_right]
      rw [hx, hlow, hlow]
    · obtain ⟨r, rfl⟩ : ∃ r, e = d + 1 + r := ⟨e - (d + 1), by omega⟩
      rw [hx, Nat.pow_add 4 (d + 1), ← Nat.div_div_eq_div_mul, ← Nat.div_div_eq_div_mul, hbig v hv, hbig b hb]

/-- A digit below place `n` replaced, a number of `n` digits keeps to them. -/
theorem digit_replace_lt {v : Nat} (hv : v < 4) {x d n : Nat} (hd : d < n) (hx : x < 4 ^ n) :
    x - x / 4 ^ d % 4 * 4 ^ d + v * 4 ^ d < 4 ^ n := by
  obtain ⟨r, rfl⟩ : ∃ r, n = d + 1 + r := ⟨n - (d + 1), by omega⟩
  have hq : 0 < 4 ^ d := Nat.pow_pos (by decide)
  have h4 : 4 ^ (d + 1 + r) = 4 ^ r * 4 * 4 ^ d := by rw [Nat.pow_add, Nat.pow_succ]; ac_rfl
  rw [h4] at hx ⊢
  have h1 : x / 4 ^ d < 4 ^ r * 4 := Nat.div_lt_of_lt_mul (by rwa [Nat.mul_comm])
  have h2 : x = x / 4 ^ d * 4 ^ d + x % 4 ^ d := (Nat.div_add_mod' x (4 ^ d)).symm
  have h3 : x % 4 ^ d < 4 ^ d := Nat.mod_lt _ hq
  have h5 : x / 4 ^ d % 4 * 4 ^ d ≤ x / 4 ^ d * 4 ^ d := Nat.mul_le_mul_right _ (Nat.mod_le _ _)
  have h6 : (x / 4 ^ d - x / 4 ^ d % 4 + v + 1) * 4 ^ d ≤ 4 ^ r * 4 * 4 ^ d := by
    generalize x / 4 ^ d = m at h1
    exact Nat.mul_le_mul_right _ (by omega)
  rw [Nat.add_mul, Nat.add_mul, Nat.sub_mul, Nat.one_mul] at h6
  omega

/-- The state of every domain after one of them is set. -/
theorem domState_setDom {d v : Nat} (hd : d < 10) (hv : v < 4) (e : Nat) (s : State) :
    (run (setDom d v) s).domState e = if e = d then v else s.domState e := by
  have hx : s.rf R.PWR_STATE F.PWR_STATE_STATE < 4 ^ 10 := Nat.mod_lt _ (by decide)
  have hw : F.PWR_STATE_STATE.width = 20 := rfl
  have h : (run (setDom d v) s).rf R.PWR_STATE F.PWR_STATE_STATE =
      s.rf R.PWR_STATE F.PWR_STATE_STATE - s.domState d * 4 ^ d + v * 4 ^ d := by
    have hrun : run (setDom d v) s = run (setF R.PWR_STATE F.PWR_STATE_STATE
      (s.rf R.PWR_STATE F.PWR_STATE_STATE - s.domState d * 4 ^ d + v * 4 ^ d)) s := rfl
    rw [hrun, State.rf, reg_setF, if_pos rfl, fget_fset_same _ _ _ (by decide), hw, Nat.mod_eq_of_lt]
    exact digit_replace_lt hv hd hx
  rw [State.domState, h]
  exact digit_replace hv _ _ _

theorem domState_rouse {d : Nat} (hd : d < 10) (e : Nat) (s : State) :
    (run (rouse d) s).domState e = if e = d ∧ s.domState d = 2 then 3 else s.domState e := by
  rw [rouse, run_whenS]
  by_cases h : s.domState d = 2
  · simp [h, domState_setDom hd]
  · simp [h]

end Sys2Proof.Machine
end

section
/-! SUPPORT. Register accesses: when and where they act, and the entries and stalls of host writes (R4, R359, R360, R399). -/

namespace Sys2Proof.Machine

/-! ### Accesses -/

/-- An access acts in the state that `accessed` names, or not at all while the endpoint is not served. -/
theorem run_accessTx (core : Bool) (tx : Tx) (s : State) :
    run (accessTx core tx) s = if s.served then run tx (s.accessed core) else s := by
  rw [accessTx, run_whenS, run_seq, State.accessed]

theorem exec_registerWrite_unserved {s : State} (hs : s.served = false) {a : HostAcc} (ha : a.func ≤ 64) (w : Option Word) :
    exec (.registerWrite a w) s = .next s := by
  have h : exec (.registerWrite a w) s = .next (run (registerAccessTx a w) s) := if_pos ha
  rw [h]
  unfold registerAccessTx
  rw [run_accessTx, hs]; rfl

section Served
variable {s : State} (hs : s.served = true) {a : HostAcc} (ha : a.func ≤ 64)
include hs ha

theorem exec_registerWrite_some (v : Word) :
    exec (.registerWrite a (some v)) s = .next (run (registerWriteTx a v) (s.accessed (a.bar == 2))) := by
  have h : exec (.registerWrite a (some v)) s = .next (run (registerAccessTx a (some v)) s) := if_pos ha
  rw [h, registerAccessTx, run_accessTx, if_pos hs]

theorem exec_registerWrite_none :
    exec (.registerWrite a none) s = .next (run (registerReadTx a) (s.accessed (a.bar == 2))) := by
  have h : exec (.registerWrite a none) s = .next (run (registerAccessTx a none) s) := if_pos ha
  rw [h, registerAccessTx, run_accessTx, if_pos hs]

end Served

/-- The host domain after an access before which nothing waits or has dropped (R435). -/
theorem domState_accessed {s : State} (hw : s.chip.heldWrites = []) (he : s.entering = []) (hd : s.dropped = []) (core : Bool) :
    (s.accessed core).domState 1 = if s.domState 1 = 2 then 3 else s.domState 1 := by
  have h1 : run drainWrites s = s := by simp only [run, drainWrites, hw]; rfl
  have h2 : run (accessWake 2) s = s := by rw [accessWake, run_whenS, he, hd]; rfl
  have h3 : s.accessed core = run (when core (rouse 2)) (run (rouse 1) s) := by
    rw [State.accessed, admitAccess, run_chain_cons, run_chain_cons, run_chain_cons, run_chain_cons, run_chain_nil, h1, h2]
  have h4 (t : State) : (run (when core (rouse 2)) t).domState 1 = t.domState 1 := by
    rw [run_when]
    split
    · rw [domState_rouse (by decide)]; simp
    · rfl
  rw [h3, h4, domState_rouse (by decide)]
  simp

/-! ### Accesses that name no whole register -/

theorem wholeAcc_eq_false {a : HostAcc} (h : a.width ≠ 8 ∨ a.off % 8 ≠ 0) : wholeAcc a = false := by
  simpa [wholeAcc, Classical.or_iff_not_imp_left] using h

theorem wholeAcc_eq_true {a : HostAcc} (hw : a.width = 8) (ho : a.off % 8 = 0) : wholeAcc a = true := by
  simp [wholeAcc, hw, ho]

theorem sameMemory_setF (k : Nat) (f : Fld) (v : Nat) (s : State) : s.sameMemory (run (setF k f v) s) := sameMemory_reg _ _ _
theorem sameMemory_incF (k : Nat) (f : Fld) (n : Nat) (s : State) : s.sameMemory (run (incF k f n) s) := sameMemory_reg _ _ _
theorem sameMemory_modChip (g : Chip → Chip) (s : State) : s.sameMemory (run (modChip g) s) := sameMemory_chip _ _
theorem sameMemory_refl (s : State) : s.sameMemory s := ⟨rfl, rfl, rfl, rfl, rfl, rfl, rfl⟩

/-- A counter's increase writes its register and nothing else. -/
theorem incF_regs (k : Nat) (f : Fld) (n : Nat) (s : State) : s.sameRegsBut (run (incF k f n) s) [k] := fun j hj => by
  rw [reg_incF, if_neg (by simpa using hj)]

/-- An access that is not 64 bits wide and aligned is counted (R4). -/
theorem badAccess_frame (b : State) (w : Option Word) : let t := run (incF R.HIF_STAT F.HIF_STAT_BAD_ACCESS 1) (if w = none then run readNothing b else b)
    t.rf R.HIF_STAT F.HIF_STAT_BAD_ACCESS = b.plus R.HIF_STAT F.HIF_STAT_BAD_ACCESS 1 ∧ b.sameRegsBut t [R.HIF_STAT] ∧
      b.sameMemory t ∧ t.tiles = b.tiles ∧ t.chip = if w = none then { b.chip with readData := 0 } else b.chip := by
  cases w with
  | none => exact ⟨rf_incF (by decide) _ _ _, incF_regs _ _ _ _, sameMemory_trans (sameMemory_modChip _ b) (sameMemory_incF _ _ _ _), rfl, rfl⟩
  | some v => exact ⟨rf_incF (by decide) _ _ _, incF_regs _ _ _ _, sameMemory_incF _ _ _ _, rfl, rfl⟩

theorem exec_badAccess {s : State} (hs : s.served = true) {a : HostAcc} (ha : a.func ≤ 64) (h : a.width ≠ 8 ∨ a.off % 8 ≠ 0)
    (w : Option Word) : exec (.registerWrite a w) s =
      .next (run (incF R.HIF_STAT F.HIF_STAT_BAD_ACCESS 1) (if w = none then run readNothing (s.accessed (a.bar == 2)) else s.accessed (a.bar == 2))) := by
  have hb := wholeAcc_eq_false h
  cases w with
  | none =>
    rw [exec_registerWrite_none hs ha]
    simp only [run, registerReadTx, hb, Bool.not_false, if_true, chain, Tx.seq, skip, List.append_nil, applyAll_append]
  | some v =>
    rw [exec_registerWrite_some hs ha]
    simp only [run, registerWriteTx, hb, Bool.not_false, if_true, reduceCtorEq, if_false]

/-! ### Accesses of a register -/

section Pf
variable {s : State} (hs : s.served = true) {a : HostAcc} (hf : a.func = 0) (hw : a.width = 8) (ho : a.off % 8 = 0)
include hs hf hw ho

theorem exec_write_key {k : Nat} (hk : (s.accessed (a.bar == 2)).accKey a = some k) (v : Word) :
    exec (.registerWrite a (some v)) s = .next (run (hostWriteReg k v) (s.accessed (a.bar == 2))) := by
  rw [exec_registerWrite_some hs (by omega)]
  simp [run, registerWriteTx, wholeAcc_eq_true hw ho, hf, hk]

theorem exec_read_key {k : Nat} (hk : (s.accessed (a.bar == 2)).accKey a = some k) :
    exec (.registerWrite a none) s = .next (run (hostRead k) (s.accessed (a.bar == 2))) := by
  rw [exec_registerWrite_none hs (by omega)]
  simp [run, registerReadTx, wholeAcc_eq_true hw ho, hf, hk]

theorem exec_write_noKey (hk : (s.accessed (a.bar == 2)).accKey a = none) (v : Word) :
    exec (.registerWrite a (some v)) s = .next (s.accessed (a.bar == 2)) := by
  rw [exec_registerWrite_some hs (by omega)]
  simp [run, registerWriteTx, wholeAcc_eq_true hw ho, hf, hk]

theorem exec_read_noKey (hk : (s.accessed (a.bar == 2)).accKey a = none) :
    exec (.registerWrite a none) s = .next (run readNothing (s.accessed (a.bar == 2))) := by
  rw [exec_registerWrite_none hs (by omega)]
  simp [run, registerReadTx, wholeAcc_eq_true hw ho, hf, hk]

end Pf

section Vf
variable {s : State} (hs : s.served = true) {a : HostAcc} (h1 : 1 ≤ a.func) (h64 : a.func ≤ 64) (hw : a.width = 8) (ho : a.off % 8 = 0)
include hs h1 h64 hw ho

/-- A VF's writes reach the doorbell only (R360). -/
theorem exec_write_vf (v : Word) : exec (.registerWrite a (some v)) s =
    .next (if a.bar = 0 ∧ a.off = 0 then run (doorbellWrite a.func v) (s.accessed (a.bar == 2)) else s.accessed (a.bar == 2)) := by
  have hne : (a.func != 0) = true := bne_iff_ne.mpr (by omega)
  rw [exec_registerWrite_some hs h64]
  simp only [run, registerWriteTx, wholeAcc_eq_true hw ho, hne, Bool.not_true, Bool.false_eq_true, if_false, if_true]
  split <;> rfl

/-- A VF reads HIF_TIME and nothing else (R360). -/
theorem exec_read_vf : exec (.registerWrite a none) s =
    .next (run (modChip fun c => { c with readData := if a.bar = 0 ∧ a.off = 8 then BitVec.ofNat 64 (s.accessed (a.bar == 2)).chip.ns else 0 })
      (s.accessed (a.bar == 2))) := by
  have hne : (a.func != 0) = true := bne_iff_ne.mpr (by omega)
  rw [exec_registerWrite_none hs h64]
  simp only [run, registerReadTx, wholeAcc_eq_true hw ho, hne, Bool.not_true, Bool.false_eq_true, if_false, if_true]
  split <;> rfl

end Vf

/-! ### Host writes and their entries (R399, R402) -/

/-- Which register an aligned access of the PF names (R359, R360). -/
theorem accKey_pf (b : State) {a : HostAcc} (hf : a.func = 0) : b.accKey a = if a.bar = 0 ∧ a.off < 0x100000 then some a.off
    else if a.bar = 2 ∧ a.off < 0x4000 ∧ b.rf R.HIF_TILE_WIN F.HIF_TILE_WIN_TILE < b.numTiles then
      some (tileKey (b.rf R.HIF_TILE_WIN F.HIF_TILE_WIN_TILE) a.off) else none := by
  have h : (a.func != 0) = false := by simp [hf]
  simp only [State.accKey, h, Bool.false_eq_true, if_false]

/-- Where a write must wait: the recording, if one runs, has no room, or another write waits (R399). -/
theorem not_admits (b : State) : (b.recStalls 64 || !b.chip.heldWrites.isEmpty) = !b.admits := by
  simp [State.admits, Bool.or_comm]

section HostAct
variable {b : State} {k : Nat} {v : Word} (tx : Tx)

/-- A host write that is not recorded, or for whose entry there is room, is made. -/
theorem run_hostAct (h : b.running = true → b.recKind k v ≠ none ∨ bankSelector k = true → b.admits = true) :
    run (hostAct k v tx) b = run (recordedWrite k v tx) b := by
  have hc : (b.running && ((b.recKind k v).isSome || bankSelector k) && (b.recStalls 64 || !b.chip.heldWrites.isEmpty)) = false := by
    rw [not_admits, Bool.eq_false_iff]
    intro hc
    simp only [Bool.and_eq_true, Bool.or_eq_true, Bool.not_eq_true', Option.isSome_iff_ne_none] at hc
    obtain ⟨⟨hrun, hrec⟩, hno⟩ := hc
    exact Bool.noConfusion (hno.symm.trans (h hrun hrec))
  simp only [run, hostAct, hc, Bool.false_eq_true, if_false]

/-- One that is recorded stalls while there is no room. -/
theorem run_hostAct_stalls (hr : b.running = true) (hk : b.recKind k v ≠ none ∨ bankSelector k = true) (ha : b.admits = false) :
    run (hostAct k v tx) b = run (modChip fun c => { c with heldWrites := c.heldWrites ++ [.registerWrite ⟨0, 0, k, 8⟩ (some v)] })
      (run noteStall b) := by
  have hc : (b.running && ((b.recKind k v).isSome || bankSelector k) && (b.recStalls 64 || !b.chip.heldWrites.isEmpty)) = true := by
    rw [not_admits, ha, hr]
    simpa [Option.isSome_iff_ne_none] using hk
  simp only [run, hostAct, hc, if_true, chain, Tx.seq, skip, List.append_nil, applyAll_append]

/-- A write that no recording takes. -/
theorem run_recordedWrite_none (h : b.running = false ∨ b.recKind k v = none) :
    run (recordedWrite k v tx) b = run (asWriter 0x100 tx) b := by
  have hc : (if b.running then b.recKind k v else none) = none := by
    rcases h with h | h <;> simp [h]
  simp only [run, recordedWrite, hc, chain, Tx.seq, skip, List.append_nil]

/-- A write that a running job's recording takes, and its entry. -/
theorem run_recordedWrite_some {kind : Nat} (hr : b.running = true) (h : b.recKind k v = some kind) :
    run (recordedWrite k v tx) b =
      run (recordEntry ⟨kind, 0x100, b.frame, 0, b.regAddr k, b.recValue k v kind, 0, []⟩) (run (asWriter 0x100 tx) b) := by
  simp only [run, recordedWrite, hr, h, if_true, chain, Tx.seq, skip, List.append_nil, applyAll_append]

end HostAct

theorem reg_noteStall (b : State) {k : Nat} (h : k ≠ R.AUD_REPLAY_CTL ∧ k ≠ R.AUD_REPLAY_STAT) : (run noteStall b).reg k = b.reg k := by
  simp [noteStall, h]

/-- What a host write that stalls does (R399). -/
theorem stall_frame (b : State) (i : Instr) : let t := run (modChip fun c => { c with heldWrites := c.heldWrites ++ [i] }) (run noteStall b)
    t.chip.heldWrites = b.chip.heldWrites ++ [i] ∧ b.sameMemory t ∧ t.rb R.AUD_REPLAY_CTL F.AUD_REPLAY_CTL_FULL = true ∧
      t.rf R.AUD_REPLAY_STAT F.AUD_REPLAY_STAT_STALLS = b.plus R.AUD_REPLAY_STAT F.AUD_REPLAY_STAT_STALLS 1 ∧
      b.sameRegsBut t [R.AUD_REPLAY_CTL, R.AUD_REPLAY_STAT] := by
  have hs : run noteStall b = run (incF R.AUD_REPLAY_STAT F.AUD_REPLAY_STAT_STALLS 1) (run (setF R.AUD_REPLAY_CTL F.AUD_REPLAY_CTL_FULL 1) b) := by
    simp only [noteStall, run_chain_cons, run_chain_nil]
  have hne : R.AUD_REPLAY_CTL ≠ R.AUD_REPLAY_STAT := by decide
  refine ⟨?_, ?_, ?_, ?_, fun j hj => ?_⟩
  · rw [chip_modChip, hs]; rfl
  · rw [hs]
    exact sameMemory_trans (sameMemory_setF _ _ _ b) (sameMemory_trans (sameMemory_incF _ _ _ _) (sameMemory_modChip _ _))
  · rw [State.rb, State.rf, reg_modChip, hs, reg_incF, if_neg hne, reg_setF, if_pos rfl, fget_fset_same _ _ _ (by decide)]; rfl
  · rw [State.rf, reg_modChip, hs, ← State.rf, rf_incF (by decide), State.plus, State.plus, State.rf, reg_setF, if_neg hne.symm]; rfl
  · simp only [List.mem_cons, List.not_mem_nil, or_false, not_or] at hj
    rw [reg_modChip, reg_noteStall _ hj]

/-! ### Host reads -/

theorem run_hostRead (k : Nat) (b : State) :
    run (hostRead k) b = run (readEffect k) (run (modChip fun c => { c with readData := b.readReg k }) b) := by
  simp only [run, hostRead, chain, Tx.seq, skip, List.append_nil, applyAll_append]

/-- The registers that a read moves on: the addresses of the data ports. -/
def portRegs (k : Nat) : List Nat := [R.SPK_TBL_ADDR, R.TIR_CLASS_ADDR, R.FAB_CMAP_ADDR, R.WPA_CB_ADDR (tileOf k), R.SFU_TBL_ADDR (tileOf k)]

/-- A read moves at most one data port on. -/
theorem readEffect_eq (k : Nat) : readEffect k = skip ∨ ∃ j ∈ portRegs k, ∃ f, readEffect k = advancePort j f := by
  have hport (j : Nat) (hj : j ∈ portRegs k) (f : Fld) : advancePort j f = skip ∨ ∃ i ∈ portRegs k, ∃ g, advancePort j f = advancePort i g :=
    .inr ⟨j, hj, f, rfl⟩
  simp only [readEffect]
  split
  · split
    · exact hport _ (by simp [portRegs]) _
    split
    · exact hport _ (by simp [portRegs]) _
    · exact .inl rfl
  split
  · exact hport _ (by simp [portRegs]) _
  split
  · exact hport _ (by simp [portRegs]) _
  split
  · exact hport _ (by simp [portRegs]) _
  · exact .inl rfl

/-- A host read answers the register as it reads, and changes but a data port's address. -/
theorem hostRead_frame (k : Nat) (b : State) : let t := run (hostRead k) b
    t.chip.readData = b.readReg k ∧ b.sameMemory t ∧ b.sameRegsBut t (portRegs k) := by
  rw [run_hostRead]
  generalize hc : run (modChip fun c => { c with readData := b.readReg k }) b = c
  have h1 : c.chip.readData = b.readReg k := by rw [← hc]; rfl
  have h2 : b.sameMemory c := by rw [← hc]; exact sameMemory_modChip _ b
  have h3 (j : Nat) : c.reg j = b.reg j := by rw [← hc]; rfl
  rcases readEffect_eq k with he | ⟨i, hi, f, he⟩
  · rw [he]
    exact ⟨h1, h2, fun j _ => h3 j⟩
  · have hrun : run (readEffect k) c = run (setF i f (c.rf i f + 1)) c := by rw [he]; rfl
    rw [hrun]
    refine ⟨h1, sameMemory_trans h2 (sameMemory_setF _ _ _ _), fun j hj => ?_⟩
    rw [reg_setF, if_neg (show j ≠ i from fun e => hj (e ▸ hi)), h3]

end Sys2Proof.Machine
end

section
/-! SUPPORT. A register's write by its access code (R5, R6). -/

namespace Sys2Proof.Machine

/-- A write where no register is defined is ignored. -/
theorem run_writeReg_none {k : Nat} (hk : regOf k = none) (v : Word) (s : State) : run (writeReg k v) s = s := by
  simp only [run, writeReg, hk, applyAll_nil]

/-- A chip register is no tile's, and no commit holds its write. -/
theorem chip_key {k : Nat} (hk : k < 0x100000) (s : State) : isTileKey k = false ∧ s.hasReg k ∧ s.heldBy k = none := by
  have h : isTileKey k = false := decide_eq_false (by omega)
  exact ⟨h, fun h' => absurd h' (by simp [h]), by simp [State.heldBy, h]⟩

/-- The write of an ordinary register that is not ignored. -/
theorem run_plainWrite {k : Nat} {v : Word} {s : State} (r : RegDef) (hi : s.writeIgnored k v = false) : run (plainWrite r k v) s =
    run (if isTileKey k then afterTile (tileOf k) k v else afterChip k (s.reg k) v)
      (run (setReg k (applyFields r.fields (s.skipped k v) (s.reg k) v)) s) := by
  simp only [run, plainWrite, hi, Bool.false_eq_true, if_false, chain, Tx.seq, skip, List.append_nil, applyAll_append]

theorem writeIgnored_of_ne {k : Nat} (h1 : idleOnly k = false) (h2 : k ≠ R.AUD_CTX_KEEP) (h3 : k ≠ R.PWR_LIMIT) (v : Word) (s : State) :
    s.writeIgnored k v = false := by
  simp only [State.writeIgnored, h1, beq_eq_false_iff_ne.mpr h2, beq_eq_false_iff_ne.mpr h3, Bool.and_false, Bool.false_and, Bool.or_false]

/-- Bits cleared one mask after another. -/
theorem clear_clear (x v a b : Word) : x &&& ~~~(v &&& a) &&& ~~~(v &&& b) = x &&& ~~~(v &&& (a ||| b)) := by
  apply BitVec.eq_of_getLsbD_eq
  intro i hi
  simp only [BitVec.getLsbD_and, BitVec.getLsbD_not, BitVec.getLsbD_or, hi, decide_true, Bool.true_and]
  cases x.getLsbD i <;> cases v.getLsbD i <;> simp

/-- A write of MOD_ALERT clears the bits written as 1 (R6). -/
theorem run_writeReg_modAlert (v : Word) (s : State) :
    run (writeReg R.MOD_ALERT v) s = run (setReg R.MOD_ALERT (s.reg R.MOD_ALERT &&& ~~~(v &&& 0x7F))) s := by
  obtain ⟨-, ht, hd⟩ := chip_key (k := R.MOD_ALERT) (by decide) s
  have hr : regOf R.MOD_ALERT = some ⟨"MOD_ALERT", 0x90020, [], [⟨"THERMAL", 0, 0, .w1c, 0⟩, ⟨"LIMIT", 1, 1, .w1c, 0⟩, ⟨"TRIP", 2, 2, .w1c, 0⟩,
      ⟨"RAIL", 3, 3, .w1c, 0⟩, ⟨"VIN", 4, 4, .w1c, 0⟩, ⟨"SENSOR", 5, 5, .w1c, 0⟩, ⟨"EVENT", 6, 6, .w1c, 0⟩]⟩ := by decide +kernel
  have hi : s.writeIgnored R.MOD_ALERT v = false := writeIgnored_of_ne (by decide) (by decide) (by decide) v s
  rw [run_writeReg_plain hr ht rfl (by decide) hd, run_plainWrite _ hi]
  have hf : applyFields [⟨"THERMAL", 0, 0, .w1c, 0⟩, ⟨"LIMIT", 1, 1, .w1c, 0⟩, ⟨"TRIP", 2, 2, .w1c, 0⟩, ⟨"RAIL", 3, 3, .w1c, 0⟩,
      ⟨"VIN", 4, 4, .w1c, 0⟩, ⟨"SENSOR", 5, 5, .w1c, 0⟩, ⟨"EVENT", 6, 6, .w1c, 0⟩] (s.skipped R.MOD_ALERT v) (s.reg R.MOD_ALERT) v =
      s.reg R.MOD_ALERT &&& ~~~(v &&& 0x7F) := by
    have hskip : s.skipped R.MOD_ALERT v = [] := rfl
    have hmask : ∀ i < 7, fmask ⟨i, i⟩ = BitVec.ofNat 64 (2 ^ i) := by decide
    simp only [hskip, applyFields, List.foldl_cons, List.foldl_nil, List.contains_nil, Bool.false_eq_true, if_false, FDef.fld, hmask, clear_clear,
      Nat.reduceLT]
    rfl
  rw [hf]
  rfl

/-- A read-only register keeps its value, and nothing else is written (R6). -/
theorem reg_writeReg_frmCount (v : Word) (s : State) (k : Nat) : (run (writeReg R.FRM_COUNT v) s).reg k = s.reg k := by
  obtain ⟨-, ht, hd⟩ := chip_key (k := R.FRM_COUNT) (by decide) s
  have hr : regOf R.FRM_COUNT = some ⟨"FRM_COUNT", 0x10, [], [⟨"COUNT", 63, 0, .ro, 0⟩]⟩ := by decide +kernel
  have hi : s.writeIgnored R.FRM_COUNT v = false := writeIgnored_of_ne (by decide) (by decide) (by decide) v s
  rw [run_writeReg_plain hr ht rfl (by decide) hd, run_plainWrite _ hi]
  have hf : applyFields [⟨"COUNT", 63, 0, .ro, 0⟩] (s.skipped R.FRM_COUNT v) (s.reg R.FRM_COUNT) v = s.reg R.FRM_COUNT := rfl
  have ha : (if isTileKey R.FRM_COUNT then afterTile (tileOf R.FRM_COUNT) R.FRM_COUNT v else afterChip R.FRM_COUNT (s.reg R.FRM_COUNT) v) = skip := rfl
  rw [hf, ha, run_skip, reg_setReg]
  split
  · subst k; rfl
  · rfl

/-- The tile of a tile register's key. -/
theorem tileOf_tileKey (u off : Nat) (h : off < 0x4000) : tileOf (tileKey u off) = u := by
  simp only [tileOf, tileKey]; omega

/-- No register of a tile is in an array of chip registers. -/
theorem indexIn_chip {k base stride n : Nat} (hk : 0x100000 ≤ k) (h : 0 < stride ∧ base + n * stride ≤ 0x100000) : indexIn k base stride n = none := by
  rw [Option.eq_none_iff_forall_ne_some]
  intro i hi
  obtain ⟨hn, rfl⟩ := eq_of_indexIn hi
  have := Nat.mul_le_mul_right stride hn
  rw [Nat.succ_mul] at this
  omega

/-- Nor one of those that are written only while no job runs. -/
theorem idleOnly_tile {k : Nat} (hk : 0x100000 ≤ k) : idleOnly k = false := by
  have h (base stride n : Nat) (hb : 0 < stride ∧ base + n * stride ≤ 0x100000) : inArr k base stride n = false := by
    rw [inArr, indexIn_chip hk hb]; rfl
  have hl : ∀ j ∈ [R.FRM_LEN, R.FRM_STRETCH_MAX, R.FRM_SKEW_MAX, R.FRM_REALIGN_THRESH, R.FAB_JOB_PKEY, R.HIF_ADM, R.AUD_CTL, R.AUD_CTX_KEEP],
      j < 0x100000 := by decide
  rw [idleOnly, h _ _ _ (by decide), h _ _ _ (by decide), h _ _ _ (by decide), h _ _ _ (by decide), h _ _ _ (by decide)]
  simp only [Bool.or_false, List.contains_eq_any_beq, List.any_eq_false, beq_iff_eq]
  exact fun j hj e => absurd (hl j hj) (by omega)

/-- Two offsets of one tile name two registers. -/
theorem tileKey_ne {u a b : Nat} (h : a ≠ b) : tileKey u a ≠ tileKey u b := by
  simp only [tileKey]; omega

/-- An array of tile registers that an offset does not reach. -/
theorem indexIn_tile {u off base stride n : Nat} (h : 0 < stride ∧ (off < base ∨ base + n * stride ≤ off)) :
    indexIn (tileKey u off) (tileKey u base) stride n = none := by
  rw [Option.eq_none_iff_forall_ne_some]
  intro i hi
  obtain ⟨hn, he⟩ := eq_of_indexIn hi
  have := Nat.mul_le_mul_right stride hn
  rw [Nat.succ_mul] at this
  simp only [tileKey] at he
  omega

/-- A write of GRN_SEED_LO stores the word (R6, R259). -/
theorem run_writeReg_grnSeedLo {s : State} {u : Nat} (hu : s.tileOk u = true) (v : Word) :
    run (writeReg (R.GRN_SEED_LO u) v) s = run (setReg (R.GRN_SEED_LO u) v) s := by
  have hk : R.GRN_SEED_LO u = tileKey u 0x1408 := rfl
  have hge : 0x100000 ≤ tileKey u 0x1408 := by simp only [tileKey]; omega
  have htile : isTileKey (tileKey u 0x1408) = true := decide_eq_true hge
  have hof : tileOf (tileKey u 0x1408) = u := tileOf_tileKey u _ (by decide)
  have ht : s.hasReg (tileKey u 0x1408) := fun _ => by simpa [hof, State.tileOk] using hu
  have hr : regOf (tileKey u 0x1408) = some ⟨"GRN_SEED_LO", 0x1408, [], [⟨"SEED", 63, 0, .rw, 0⟩]⟩ := by
    rw [regOf_tileKey u _ (by decide)]; decide +kernel
  have hne (a : Nat) (h : (0x1408 : Nat) ≠ a := by decide) : tileKey u 0x1408 ≠ tileKey u a := tileKey_ne h
  have hchip (j : Nat) (h : j < 0x100000 := by decide) : tileKey u 0x1408 ≠ j := by omega
  have hs : specialWrite (tileKey u 0x1408) v = none := by
    have harr : indexIn (tileKey u 0x1408) (R.MXA_ADP_TBL_0 u 0) 16 32 = none := indexIn_tile (by decide)
    simp only [specialWrite, htile, if_true, hof, tileSpecial, R.WPA_CB_SEL, R.SFU_TBL_SEL, R.GRN_TBL_SEL, R.WPA_CB_DATA, R.SFU_TBL_DATA,
      hne 0x808, hne 0x1008, hne 0x1420, hne 0x830, hne 0x1020, if_false, harr]
  have hd : s.heldBy (tileKey u 0x1408) = none := by
    have h1 : indexIn (tileKey u 0x1408) (R.KVC_DESC_0 u 0) 8 256 = none := indexIn_tile (by decide)
    have h2 : indexIn (tileKey u 0x1408) (R.KVC_STAGE u 0) 8 64 = none := indexIn_tile (by decide)
    simp only [State.heldBy, htile, if_true, State.kvHolds, hof, h1, h2, Option.filter_none]
  have hi : s.writeIgnored (tileKey u 0x1408) v = false := writeIgnored_of_ne (idleOnly_tile hge) (hchip _) (hchip _) v s
  have hskip : s.skipped (tileKey u 0x1408) v = [] := by
    have hport : indexIn (tileKey u 0x1408) (R.FAB_PORT_CTL 0) 8 14 = none := indexIn_chip hge (by decide)
    simp only [State.skipped, hof, hport, htile, hchip R.FRM_MAINT_SLICE, hchip R.SPK_BASE_A, hchip R.SPK_BASE_B, hchip R.TIR_SCRUB_CTL,
      hchip R.TIR_INJECT, hchip R.ROL_LOAD_TIMEOUT, hchip R.AUD_CTL, hchip R.AUD_REPLAY_CTL, hchip R.MOD_STAT, R.STR_CTL, R.SPD_INJECT,
      R.VEC_VL, R.SFU_CTL, hne 0x0, hne 0x1820, hne 0xc00, hne 0x1000, if_false, or_self, Bool.not_true, Bool.false_eq_true]
  have hafter : afterTile u (tileKey u 0x1408) v = skip := by
    have htag : indexIn (tileKey u 0x1408) (R.STR_BRK_TAG u 0) 8 4 = none := indexIn_tile (by decide)
    simp only [afterTile, R.STR_CTL, R.VEC_VL, R.SFU_CTL, R.GRN_CTL, hne 0x0, hne 0xc00, hne 0x1000, hne 0x1400, if_false, htag]
  have hf (old : Word) : applyFields [⟨"SEED", 63, 0, .rw, 0⟩] [] old v = v := by
    have hw : applyFields [⟨"SEED", 63, 0, .rw, 0⟩] [] old v = fset old ⟨63, 0⟩ (fget v ⟨63, 0⟩) := rfl
    rw [hw]
    apply BitVec.eq_of_getLsbD_eq
    intro i hlt
    rw [getLsbD_fset _ _ _ _ hlt, if_pos ⟨by simp, by simp; omega⟩, testBit_fget]
    simp [Fld.width, hlt]
  rw [hk, run_writeReg_plain hr ht hs (by decide) hd, run_plainWrite _ hi, hskip, if_pos htile, hof, hafter, run_skip, hf]

end Sys2Proof.Machine
end

section
/-! PROOFS. RESUME (R104) and the register accesses. -/

namespace Sys2Proof.Machine

/-! ### RESUME (R104) -/

/-- A tile's matched break is cleared. -/
def clearBreak (t : Nat) : Tx := chain [
  setF (R.STR_STAT t) F.STR_STAT_HIT 0, forEach [0, 1, 2, 3] fun k => modStream t k fun x => { x with broken := false }]

/-- Is a break of tile `t` recorded, or a stream of it stopped by one? -/
def State.breakMatched (s : State) (t : Nat) : Bool :=
  s.rb (R.STR_STAT t) F.STR_STAT_HIT || [0, 1, 2, 3].any fun k => ((s.tile t).stream k).broken

theorem run_resumeTx (s : State) : run resumeTx s =
    run (whenS State.frozen callResume) (run (forEach (s.tileList.filter s.breakMatched) clearBreak) s) := by
  have hc : clearBreak = fun t => chain [setF (R.STR_STAT t) F.STR_STAT_HIT 0,
    forEach [0, 1, 2, 3] fun k => modStream t k fun x => { x with broken := false }] := rfl
  have hb : s.breakMatched = fun t => s.rb (R.STR_STAT t) F.STR_STAT_HIT || [0, 1, 2, 3].any fun k => ((s.tile t).stream k).broken := rfl
  have h : resumeTx s = chain [forEach (s.tileList.filter s.breakMatched) clearBreak, whenS State.frozen callResume] s := by
    rw [hc, hb, resumeTx]
  rw [run, h, ← run, run_chain_cons, run_chain_cons, run_chain_nil]

/-- Only the stream's own state reads what `setStream` puts there. -/
theorem broken_setStream (ts : TileS) {j k : Nat} (hj : j < 4) (hk : k < 4) (v : StreamS) :
    ((ts.setStream k v).stream j).broken = if j = k then v.broken else (ts.stream j).broken := by
  match k, hk with
  | 0, _ | 1, _ | 2, _ | 3, _ => match j, hj with
    | 0, _ | 1, _ | 2, _ | 3, _ => rfl

/-- What the clearing of breaks leaves alone: memories but the host's, and the chip's record. -/
def State.besideTiles (s : State) : List Host.Cell × List (Nat × Bool) × Chip := (s.mem, s.full, s.chip)

theorem besideTiles_clearBreak (t : Nat) : (clearBreak t).Keeps State.besideTiles :=
  Keeps.cons (fun _ => rfl) <| Keeps.cons (Keeps.forEach fun _ _ _ => rfl) Keeps.nil

theorem reg_clearBreak (t j : Nat) (s : State) : (run (clearBreak t) s).reg j =
    if j = R.STR_STAT t then fset (s.reg (R.STR_STAT t)) F.STR_STAT_HIT 0 else s.reg j := by
  simp [clearBreak, modStream]

theorem strStat_inj {t w : Nat} : R.STR_STAT w = R.STR_STAT t ↔ w = t := by
  simp only [R.STR_STAT, tileKey]; omega

theorem hit_clearBreak (t w : Nat) (s : State) : (run (clearBreak t) s).rb (R.STR_STAT w) F.STR_STAT_HIT =
    if w = t then false else s.rb (R.STR_STAT w) F.STR_STAT_HIT := by
  rw [State.rb, State.rf, reg_clearBreak]
  by_cases h : w = t
  · subst h
    rw [if_pos rfl, if_pos rfl, fget_fset_same _ _ _ (by decide)]; rfl
  · rw [if_neg (mt strStat_inj.mp h), if_neg h]; rfl

theorem broken_clearBreak (t w : Nat) {k : Nat} (hk : k < 4) (s : State) : (((run (clearBreak t) s).tile w).stream k).broken =
    if w = t then false else ((s.tile w).stream k).broken := by
  by_cases h : w = t
  · subst h
    simp [clearBreak, modStream, tile_modTile, broken_setStream, hk]
    omega
  · simp [clearBreak, modStream, tile_modTile, h]

theorem breakMatched_eq_false {s : State} {w : Nat} : s.breakMatched w = false ↔
    s.rb (R.STR_STAT w) F.STR_STAT_HIT = false ∧ ∀ k < 4, ((s.tile w).stream k).broken = false := by
  have hmem (k : Nat) : k ∈ [0, 1, 2, 3] ↔ k < 4 := by simp; omega
  simp only [State.breakMatched, Bool.or_eq_false_iff, List.any_eq_false, Bool.not_eq_true, hmem]

/-- After the clearing of a tile's break, that tile has none, and no other has a new one. -/
theorem breakMatched_clearBreak {t w : Nat} {s : State} (h : w = t ∨ s.breakMatched w = false) :
    (run (clearBreak t) s).breakMatched w = false := by
  rw [breakMatched_eq_false] at h ⊢
  refine ⟨?_, fun k hk => ?_⟩
  · rw [hit_clearBreak]
    split
    · rfl
    · exact (h.resolve_left ‹_›).1
  · rw [broken_clearBreak t w hk]
    split
    · rfl
    · exact (h.resolve_left ‹_›).2 k hk

/-- After the clearing of some tiles' breaks, none of them has one, and no other has a new one. -/
theorem breakMatched_forEach {ts : List Nat} {w : Nat} {s : State} (h : w ∈ ts ∨ s.breakMatched w = false) :
    (run (forEach ts clearBreak) s).breakMatched w = false := by
  induction ts generalizing s with
  | nil => simpa using h
  | cons t ts ih =>
    rw [run_forEach_cons]
    refine ih ?_
    rcases h with h | h
    · rcases List.mem_cons.mp h with h | h
      · exact .inr (breakMatched_clearBreak (.inl h))
      · exact .inl h
    · exact .inr (breakMatched_clearBreak (.inr h))

theorem reg_forEach_clearBreak {ts : List Nat} {j : Nat} (h : j ∉ ts.map R.STR_STAT) (s : State) :
    (run (forEach ts clearBreak) s).reg j = s.reg j := by
  exact Keeps.forEach (f := fun s => s.reg j) (fun t ht s => (reg_clearBreak t j s).trans <|
    if_neg fun e => h (List.mem_map.mpr ⟨t, ht, e.symm⟩)) s

/-- With every matched break cleared, no tile has one. -/
theorem breakMatched_cleared {s : State} {w : Nat} (hw : w < s.numTiles) :
    (run (forEach (s.tileList.filter s.breakMatched) clearBreak) s).breakMatched w = false := by
  refine breakMatched_forEach ?_
  cases h : s.breakMatched w
  · exact .inr rfl
  · exact .inl (List.mem_filter.mpr ⟨List.mem_range.mpr hw, h⟩)

/-! ### The resume clap that RESUME calls (R104, R387) -/

/-- The registers in which the call of a clap shows. -/
def clapRegs : List Nat := [R.AUD_CLAP_STAT] ++ recRegs

/-- What the call of a clap leaves alone. -/
def State.besideClap (s : State) : List Host.Cell × List (Nat × Bool) × List (Nat × TileS) × ({k // k ∉ clapRegs} → Word) :=
  (s.mem, s.full, s.tiles, fun k => s.reg k)

/-- What the modules' answers to the call of a clap leave alone: that, and what the clap is for. -/
def State.besideReady (s : State) : (List Host.Cell × List (Nat × Bool) × List (Nat × TileS) × ({k // k ∉ clapRegs} → Word)) × Option Nat :=
  (s.besideClap, s.chip.clap.map (·.sub))

theorem besideReady_setF {k : Nat} (hk : k ∈ clapRegs) (f : Fld) (v : Nat) : (setF k f v).Keeps State.besideReady := fun s => by
  have hne : ∀ j : {j // j ∉ clapRegs}, j.1 ≠ k := fun j e => j.2 (e ▸ hk)
  simp only [State.besideReady, State.besideClap, reg_setF, hne, if_false]
  rfl

theorem besideReady_rouse (d : Nat) : (rouse d).Keeps State.besideReady :=
  Keeps.whenS (Keeps.look (g := fun s => setF R.PWR_STATE _ _) fun _ => besideReady_setF (by decide) _ _)

theorem besideReady_sendToken (kind sub arg : Nat) : (sendToken kind sub arg).Keeps State.besideReady := fun _ => rfl

theorem besideReady_tellStandby : tellStandby.Keeps State.besideReady := fun s => by
  simp only [run, tellStandby]
  split <;> rfl

theorem besideReady_announce (sub arg : Nat) : (announce sub arg).Keeps State.besideReady :=
  Keeps.cons besideReady_tellStandby <| Keeps.cons (besideReady_sendToken _ _ _) Keeps.nil

/-- The clap's own record moves on, for the same cause. -/
theorem besideReady_clap {s : State} {c : ClapS} (h : s.chip.clap = some c) (g : Chip → Chip) (hg : (g s.chip).clap.map (·.sub) = some c.sub) :
    (run (modChip g) s).besideReady = s.besideReady := by
  simp only [State.besideReady, chip_modChip, hg, h]
  rfl

theorem besideReady_tryGo : tryGo.Keeps State.besideReady := fun s => by
  cases h : s.chip.clap with
  | none => simp only [run, tryGo, h, applyAll_nil]
  | some c =>
    simp only [run, tryGo, h]
    split
    · rw [← run, run_chain_cons]
      exact (Keeps.cons (besideReady_sendToken _ _ _) Keeps.nil _).trans (besideReady_clap h _ rfl)
    · rfl

theorem besideReady_selfReady : selfReady.Keeps State.besideReady := fun s => by
  cases h : s.chip.clap with
  | none => simp only [run, selfReady, noteReady, h, applyAll_nil]
  | some c =>
    simp only [run, selfReady, noteReady, h]
    split
    · rfl
    · rw [← run, run_chain_cons]
      refine (Keeps.cons ?_ Keeps.nil _).trans (besideReady_clap h _ rfl)
      split
      · exact besideReady_tryGo
      · exact Keeps.when (besideReady_sendToken _ _ _)

/-- The clap that is called is for what it is called for, and the call leaves the rest alone. -/
theorem callClap_frame (sub frame : Nat) (cmd : Option Cmd) (s : State) :
    (run (callClap sub frame cmd) s).besideReady = (s.besideClap, some sub) := by
  rw [run, callClap, ← run, run_chain_cons, run_chain_cons]
  refine (Keeps.cons (besideReady_setF (by decide) _ _) (Keeps.cons (besideReady_setF (by decide) _ _) <|
    Keeps.cons (besideReady_announce _ _) Keeps.nil) _).trans ?_
  exact congrArg (fun v => (v.1, some sub)) (besideReady_rouse 8 s)

/-! RESUME's call of a clap, by the module's role. -/

theorem run_callResume_worker {s : State} (h : s.isManager = false) : run callResume s = run (sendMgmt 5 s.position) s := by
  simp [run, callResume, h]

theorem besideReady_callResume {s : State} (h : s.isManager = true) (hc : s.chip.clap = none) :
    (run callResume s).besideReady = (s.besideClap, some 1) := by
  have hrun : run callResume s = run (chain [callClap 1 0 none, selfReady]) s := by simp [run, callResume, h, hc]
  rw [hrun, run_chain_cons]
  exact (Keeps.cons besideReady_selfReady Keeps.nil _).trans (callClap_frame 1 0 none s)

/-- A clap's call keeps the memories, the tiles and the registers in which no clap shows. -/
theorem besideClap_callResume : callResume.Keeps State.besideClap := fun s => by
  cases h : s.isManager with
  | false => rw [run_callResume_worker h]; rfl
  | true =>
    cases hc : s.chip.clap with
    | none => exact congrArg Prod.fst (besideReady_callResume h hc)
    | some c =>
      have hrun : run callResume s = run (modChip fun c => { c with reclap := true }) s := by simp [run, callResume, h, hc]
      rw [hrun]; rfl

/-- RESUME as the host's write acts, in the state in which it acts. -/
theorem exec_resume {s : State} (hs : s.served = true) {u : Nat} (hu : s.tileOk u = true) : exec (.resume u) s =
    .next (run (hostAct (R.STR_CTL u) (s.wordWith (R.STR_CTL u) 0x100) resumeTx) (s.accessed true)) := by
  have h : exec (.resume u) s = .next (run (actTx (R.STR_CTL u) (s.wordWith (R.STR_CTL u) 0x100) resumeTx) s) := if_pos hu
  have hk : isTileKey (R.STR_CTL u) = true := decide_eq_true (by simp only [R.STR_CTL, tileKey]; omega)
  rw [h, actTx, hk, run_accessTx, if_pos hs]

/-- What RESUME does, and what it leaves alone (R104). -/
def State.resumed (b t : State) : Prop := t.mem = b.mem ∧ t.full = b.full ∧
  (∀ w < b.numTiles, t.breakMatched w = false) ∧ b.sameRegsBut t (clapRegs ++ b.tileList.map R.STR_STAT) ∧
  (b.frozen = false → t.chip.clap = b.chip.clap ∧ t.chip.mgmtOut = b.chip.mgmtOut) ∧
  (b.frozen = true → b.isManager = false → t.chip.clap = b.chip.clap ∧ t.chip.mgmtOut = b.chip.mgmtOut ++ [(5, b.position)]) ∧
  (b.frozen = true → b.isManager = true → b.chip.clap = none → ∃ c, t.chip.clap = some c ∧ c.sub = 1)

theorem breakMatched_congr {s t : State} {w : Nat} (hr : t.reg (R.STR_STAT w) = s.reg (R.STR_STAT w)) (ht : t.tiles = s.tiles) :
    t.breakMatched w = s.breakMatched w := by
  simp only [State.breakMatched, State.rb, State.rf, State.tile, hr, ht]

theorem not_mem_of_tileKey {ks : List Nat} (h : ∀ k ∈ ks, k < 0x100000) (u off : Nat) : tileKey u off ∉ ks := fun hk => by
  have := h _ hk
  simp only [tileKey] at this
  omega

/-- No chip register is a tile's STR_STAT. -/
theorem not_mem_strStat {k : Nat} (hk : k < 0x100000) (ts : List Nat) : k ∉ ts.map R.STR_STAT := fun h => by
  obtain ⟨t, -, rfl⟩ := List.mem_map.mp h
  simp only [R.STR_STAT, tileKey] at hk
  omega

/-- The clearing of all matched breaks. -/
def State.unbroken (b : State) : State := run (forEach (b.tileList.filter b.breakMatched) clearBreak) b

theorem besideTiles_unbroken (b : State) : b.unbroken.besideTiles = b.besideTiles :=
  Keeps.forEach (fun t _ => besideTiles_clearBreak t) b

theorem reg_unbroken {k : Nat} (b : State) (hk : k ∉ b.tileList.map R.STR_STAT) : b.unbroken.reg k = b.reg k := by
  refine reg_forEach_clearBreak (fun h => hk ?_) b
  obtain ⟨t, ht, he⟩ := List.mem_map.mp h
  exact List.mem_map.mpr ⟨t, (List.mem_filter.mp ht).1, he⟩

theorem resumed_resumeTx (b : State) : b.resumed (run resumeTx b) := by
  have hside := besideTiles_unbroken b
  obtain ⟨hmem, hfull, hchip⟩ : b.unbroken.mem = b.mem ∧ b.unbroken.full = b.full ∧ b.unbroken.chip = b.chip :=
    ⟨congrArg (·.1) hside, congrArg (·.2.1) hside, congrArg (·.2.2) hside⟩
  have hreg {k : Nat} (hk : k < 0x100000) : b.unbroken.reg k = b.reg k := reg_unbroken b (not_mem_strStat hk _)
  have hfrozen : b.unbroken.frozen = b.frozen := congrArg (fget · F.FRM_CTL_FROZEN == 1) (hreg (by decide))
  have hman : b.unbroken.isManager = b.isManager := congrArg (fget · F.MOD_ROLE_ROLE == 1) (hreg (by decide))
  have hpos : b.unbroken.position = b.position := congrArg (fget · F.MOD_ROLE_POSITION) (hreg (by decide))
  have hrun : run resumeTx b = if b.frozen then run callResume b.unbroken else b.unbroken := by
    rw [run_resumeTx, ← State.unbroken, run_whenS, hfrozen]
  have hcall : (run resumeTx b).besideClap = b.unbroken.besideClap := by
    rw [hrun]; split
    · exact besideClap_callResume _
    · rfl
  have hregs {k : Nat} (hk : k ∉ clapRegs) : (run resumeTx b).reg k = b.unbroken.reg k := congrArg (fun v => v.2.2.2 ⟨k, hk⟩) hcall
  refine ⟨(congrArg (·.1) hcall).trans hmem, (congrArg (·.2.1) hcall).trans hfull, fun w hw => ?_, fun k hk => ?_, fun hf => ?_,
    fun hf hm => ?_, fun hf hm hc => ?_⟩
  · rw [breakMatched_congr (hregs (not_mem_of_tileKey (by decide) w 8)) (congrArg (·.2.2.1) hcall)]
    exact breakMatched_cleared hw
  · rw [List.mem_append, not_or] at hk
    rw [hregs hk.1, reg_unbroken b hk.2]
  · rw [hrun, hf]
    exact ⟨congrArg (·.clap) hchip, congrArg (·.mgmtOut) hchip⟩
  · rw [hrun, if_pos hf, run_callResume_worker (hman.trans hm), hpos]
    exact ⟨congrArg (·.clap) hchip, congrArg (fun c : Chip => c.mgmtOut ++ [(5, b.position)]) hchip⟩
  · rw [hrun, if_pos hf]
    have h := congrArg Prod.snd (besideReady_callResume (hman.trans hm) ((congrArg (·.clap) hchip).trans hc))
    exact Option.map_eq_some_iff.mp h

/-- The entry of RESUME in a recording leaves what it did alone. -/
theorem State.resumed.congr {b t t' : State} (h : b.resumed t) (ht : t'.besideRecord = t.besideRecord) : b.resumed t' := by
  obtain ⟨hmem, hfull, hbrk, hregs, hgo, hworker, hman⟩ := h
  have hreg {k : Nat} (hk : k ∉ recRegs) : t'.reg k = t.reg k := congrArg (fun v => v.2.2.2.2.2 ⟨k, hk⟩) ht
  have hclap : t'.chip.clap = t.chip.clap := congrArg (·.2.2.2.1) ht
  have hout : t'.chip.mgmtOut = t.chip.mgmtOut := congrArg (·.2.2.2.2.1) ht
  refine ⟨(congrArg (·.1) ht).trans hmem, (congrArg (·.2.1) ht).trans hfull, fun w hw => ?_, fun k hk => ?_, ?_⟩
  · rw [breakMatched_congr (hreg (not_mem_of_tileKey (by decide) w 8)) (congrArg (·.2.2.1) ht)]
    exact hbrk w hw
  · rw [hreg fun h => hk (List.mem_append_left _ (List.mem_append_right _ h)), hregs k hk]
  · rw [hclap, hout]
    exact ⟨hgo, hworker, hman⟩

/-- Who writes shows in nothing that RESUME does or leaves alone. -/
theorem resumed_writer {b t : State} (src : Nat) (h : (run (modChip fun c => { c with writer := src }) b).resumed t) : b.resumed t := by
  obtain ⟨hmem, hfull, hbrk, hregs, hgo, hworker, hman⟩ := h
  exact ⟨hmem, hfull, hbrk, hregs, hgo, hworker, hman⟩

theorem besideRecord_writer (src : Nat) : (modChip fun c => { c with writer := src }).Keeps State.besideRecord := fun _ => rfl

theorem resumed_asWriter (b : State) : b.resumed (run (asWriter 0x100 resumeTx) b) := by
  rw [asWriter, run_chain_cons, run_chain_cons, run_chain_cons, run_chain_nil]
  exact (resumed_writer _ (resumed_resumeTx _)).congr (besideRecord_writer _ _)

/-- RESUME that need not stall. -/
theorem resumed_hostAct {b : State} (k : Nat) (v : Word) (ha : b.running = false ∨ b.admits = true) :
    b.resumed (run (hostAct k v resumeTx) b) := by
  have hgo : b.running = true → b.recKind k v ≠ none ∨ bankSelector k = true → b.admits = true := fun hr _ => by
    simpa [hr] using ha
  rw [run_hostAct _ hgo]
  by_cases hrec : b.running = false ∨ b.recKind k v = none
  · rw [run_recordedWrite_none _ hrec]
    exact resumed_asWriter b
  · obtain ⟨hr, hk⟩ := not_or.mp hrec
    obtain ⟨kind, hkind⟩ := Option.ne_none_iff_exists'.mp hk
    rw [run_recordedWrite_some _ ((Bool.not_eq_false _).mp hr) hkind]
    exact (resumed_asWriter b).congr (besideRecord_recordEntry _ _)

/-- A register's write shows in that register only. -/
theorem setReg_regs (k : Nat) (v : Word) (s : State) : s.sameRegsBut (run (setReg k v) s) [k] := fun j hj => by
  rw [reg_setReg, if_neg (by simpa using hj)]

/-! ### Host writes of a register (R359, R399) -/

section Pf
variable {s : State} (hs : s.served = true) {a : HostAcc} (hf : a.func = 0) (hw : a.width = 8) (ho : a.off % 8 = 0)
  {k : Nat} (hk : (s.accessed (a.bar == 2)).accKey a = some k) {v : Word}
include hs hf hw ho hk

theorem exec_write_unrecorded (h : (s.accessed (a.bar == 2)).running = false ∨
      (s.accessed (a.bar == 2)).recKind k v = none ∧ (bankSelector k = true → (s.accessed (a.bar == 2)).admits = true)) :
    exec (.registerWrite a (some v)) s = .next (run (asWriter 0x100 (writeReg k v)) (s.accessed (a.bar == 2))) := by
  rw [exec_write_key hs hf hw ho hk, hostWriteReg, run_hostAct, run_recordedWrite_none _ (h.imp_right And.left)]
  intro hr hrec
  obtain ⟨hnone, hsel⟩ := h.resolve_left (by simp [hr])
  exact hsel (hrec.resolve_left fun hne => hne hnone)

theorem exec_write_recorded {kind : Nat} (hr : (s.accessed (a.bar == 2)).running = true)
    (hkind : (s.accessed (a.bar == 2)).recKind k v = some kind) (had : (s.accessed (a.bar == 2)).admits = true) :
    exec (.registerWrite a (some v)) s = .next (run (recordEntry ⟨kind, 0x100, (s.accessed (a.bar == 2)).frame, 0,
        (s.accessed (a.bar == 2)).regAddr k, (s.accessed (a.bar == 2)).recValue k v kind, 0, []⟩)
      (run (asWriter 0x100 (writeReg k v)) (s.accessed (a.bar == 2)))) := by
  rw [exec_write_key hs hf hw ho hk, hostWriteReg, run_hostAct _ fun _ _ => had, run_recordedWrite_some _ hr hkind]

theorem exec_write_stalls (hr : (s.accessed (a.bar == 2)).running = true)
    (hrec : (s.accessed (a.bar == 2)).recKind k v ≠ none ∨ bankSelector k = true) (had : (s.accessed (a.bar == 2)).admits = false) :
    exec (.registerWrite a (some v)) s = .next (run (modChip fun c => { c with heldWrites := c.heldWrites ++ [.registerWrite ⟨0, 0, k, 8⟩ (some v)] })
      (run noteStall (s.accessed (a.bar == 2)))) := by
  rw [exec_write_key hs hf hw ho hk, hostWriteReg, run_hostAct_stalls _ hr hrec had]

end Pf

/-! ### The obligation -/

/-- A register's value after its write, and what the write leaves alone. -/
theorem setReg_frame {t s : State} {k : Nat} {v : Word} (h : t = run (setReg k v) s) :
    t.reg k = v ∧ s.sameRegsBut t [k] ∧ s.sameMemory t := by
  rw [h]
  exact ⟨(reg_setReg _ _ _ s).trans (if_pos rfl), setReg_regs _ _ s, sameMemory_reg _ _ s⟩

theorem resume_completes {s : State} (hs : s.served = true) {u : Nat} (hu : s.tileOk u = true)
    (ha : (s.accessed true).running = false ∨ (s.accessed true).admits = true) :
    Completes (exec (.resume u) s) (s.accessed true).resumed :=
  ⟨_, exec_resume hs hu, resumed_hostAct _ _ ha⟩

/-- Settles O48: the access is reduced to what it does in the state in which it acts (`accessed`), and that to the register it names;
RESUME clears the breaks tile by tile. -/
theorem registerAccesses : Obligations.RegisterAccesses := by
  unfold Obligations.RegisterAccesses
  intro s v
  refine ⟨fun a w ha hs => exec_registerWrite_unserved hs ha w, fun hw he hd core => domState_accessed hw he hd core,
    fun hs => ⟨fun a w ha hbad => ⟨_, exec_badAccess hs ha hbad w, badAccess_frame _ w⟩, fun a hf hw ho => ?_,
      fun a h1 h64 hw ho => ⟨⟨_, exec_read_vf hs h1 h64 hw ho, rfl, rfl, sameMemory_modChip _ _⟩, exec_write_vf hs h1 h64 hw ho v⟩,
      fun u hu ha => ?_⟩,
    fun k hk => run_writeReg_none hk v s, setReg_frame (run_writeReg_modAlert v s), reg_writeReg_frmCount v s,
    fun u hu => setReg_frame (run_writeReg_grnSeedLo hu v)⟩
  · exact ⟨accKey_pf _ hf, fun hk => ⟨exec_write_noKey hs hf hw ho hk v, _, exec_read_noKey hs hf hw ho hk, rfl, rfl, sameMemory_modChip _ _⟩,
      fun k hk => ⟨fun h => exec_write_unrecorded hs hf hw ho hk h, fun _ hr hkind had => exec_write_recorded hs hf hw ho hk hr hkind had,
        fun hr hrec had => ⟨_, exec_write_stalls hs hf hw ho hk hr hrec had, stall_frame _ _⟩,
        _, exec_read_key hs hf hw ho hk, hostRead_frame k _⟩⟩
  · obtain ⟨t, ht, hmem, hfull, hbrk, hrest⟩ := resume_completes hs hu ha
    exact ⟨t, ht, hmem, hfull, fun w hw => breakMatched_eq_false.mp (hbrk w hw), hrest⟩

end Sys2Proof.Machine
end
